-- ==== Sys2Proof/Word.lean ====
section
/-!
DEFINITION. The machine's words and their plainest arithmetic: bytes, 32-bit syllables, 64-bit registers and
10,240-bit plane rows (spec/00 R3, R4; spec/03 R74, R82).
-/
namespace Sys2Proof

abbrev Byte := BitVec 8
/-- A syllable of a bundle (spec/04 R93). -/
abbrev Syl := BitVec 32
abbrev Word := BitVec 64
/-- One plane row: 1,280 bytes (spec/03 R82). -/
abbrev Row := BitVec 10240

/-- Bits hi:lo of a natural number, both ends included (spec/00 R6). -/
def natBits (n hi lo : Nat) : Nat := (n >>> lo) % 2 ^ (hi + 1 - lo)

end Sys2Proof
end

