-- ==== Sys2Proof/Config.lean ====
section
/-!
DEFINITION. What the manual leaves open. Each constant has no body: nothing in Lean can evaluate it, so a claim
holds whatever it is. notes/assumptions names each one.
-/
namespace Sys2Proof.Config

/-- A value the manual calls undefined, or leaves to a choice it gives no rule for: bits of the free stream at a place
that the state's counter and a tag pick (log 3). -/
opaque freeBits (w : Nat) (n : Nat) : BitVec w

/-- The undefined contents of a plane row at dispatch: spec/03 R90 (log 5). Arguments: the epoch the dispatch
began and the row. -/
opaque undefRow (epoch row : Nat) : Row

/-- The undefined contents of a B-store byte at dispatch: spec/03 R90 (log 5). Arguments: epoch and offset. -/
opaque undefByte (epoch off : Nat) : Byte

/-- Wall time, in ticks, that passes at one step of the model: spec/00 R3, spec/04 R103 count stalls only as wall
time and give no length for them (log 7). -/
opaque tickGap (n : Nat) : Nat

/-- Which of several translations of a page an engine uses throughout it: spec/10 R261, spec/18 R355, R356 leave it open (log 116).
Arguments: the counter, the page and the leaf. -/
opaque leafRank (ctr page pte : Nat) : Nat

/-- The SHA-384 digest of a byte string: spec/21 R422 names the function and does not give it (log 40). -/
opaque sha384 (bytes : List Byte) : BitVec 384

/-- The fuse counter of firmware versions: spec/21 R418. -/
opaque fuseCounter : Nat

/-- The security version of the module's boot firmware: spec/21 R418. -/
opaque firmwareVersion : Nat

/-- The firmware's ECDSA signature over SHA-384 verifies: spec/21 R418 names the check and the keys, not the object. -/
opaque ecdsaOk : Bool

/-- The firmware's LMS signature verifies: spec/21 R418. -/
opaque lmsOk : Bool

/-- The bytes of an attestation report: spec/21 R418 gives what it carries and no layout (log 40). Arguments: firmware
version counter, CAPS words, SEMAP words and the requester's nonce. -/
opaque report (fuse : Nat) (caps semaps : List Word) (nonce : Word) : List Byte

/-- The negative error code a mailbox command ends with when its own reads or writes fail: spec/21 R419 gives
'a negative error code' and no number (log 40). -/
opaque mailboxError (n : Nat) : Word

/-- Units of the ENERGY bucket that a charge carries: spec/19 R371 gives the unit and no estimate (log 41). -/
opaque energyUnits (n : Nat) : Nat

end Sys2Proof.Config
end

