-- ==== Sys2Proof/Syntax.lean ====
section
/-!
DEFINITION. The instructions and events of spec/opcode_table.json, one constructor a row. Operand codes follow
spec/03 R74 and spec/04 R96 and R97; an event carries what the outside world or the chosen agent supplies.
-/
namespace Sys2Proof

/-- A source operand code of spec/03 R74. -/
inductive Src where
  | x (n : Fin 56) | sq | lq | gq | tq | ko
deriving DecidableEq, Repr

/-- An operand that may be immediate (spec/04 R96): a register code, a short or a long immediate. -/
inductive Opnd where
  | reg (r : Src) | short (v : BitVec 6) | long (v : BitVec 32)
deriving DecidableEq, Repr

/-- An operand that must be immediate (spec/06 R157, R170). -/
inductive Imm where
  | short (v : BitVec 6) | long (v : BitVec 32)
deriving DecidableEq, Repr

/-- Destination register x0 to x55. -/
abbrev XReg := Fin 56
/-- Predicate pair j stands for (p2j+2, p2j+3), so 0 to 6 are the pairs 1 to 7 of spec/03 R77. -/
abbrev Pair := Fin 7

/-- Even member of a pair. -/
def Pair.even (p : Pair) : Nat := 2 * p.val + 2

/-- Type of a V operation: spec/04 R98. -/
inductive VTy where
  | s64 | n64 | a80 | s32 | n32 | f32 | q32 | s16 | n16 | bf16 | f16 | s8 | n8 | fm (n : Fin 8)
deriving DecidableEq, Repr

/-- The A operand of a V operation: its row, or the row of the slot's operand port (KA, spec/04 R96). -/
inductive VA where
  | row (n : Fin 512) | ko
deriving DecidableEq, Repr

/-- The B operand of a V operation: a nine-bit index, amount or selector, or a scalar code (BS, spec/08 R205). -/
inductive VB where
  | idx (n : Fin 512) | scal (s : Src)
deriving DecidableEq, Repr

/-- The fields every V syllable pair carries (spec/04 R96, R97). -/
structure VArgs where
  ty   : VTy
  mask : Fin 17
  d    : Fin 512
  a    : VA
  b    : VB
  c    : Fin 512
deriving DecidableEq, Repr

/-- Threshold of `wait` and `waity`: spec/07 R187. -/
inductive Thr where
  | short (n : BitVec 10) | long (n : BitVec 16) | reg (s : Src)
deriving DecidableEq, Repr

/-- Amount of `post`: spec/07 R188. -/
inductive Amt where
  | short (n : BitVec 10) | long (n : BitVec 16)
deriving DecidableEq, Repr

/-- Combine operator of an agreement: spec/11 R283. -/
inductive Cmb where
  | all | any | sum | min | max
deriving DecidableEq, Repr

/-- Fields of `agree`, `agreep` and `agree.t`: spec/11 R283. -/
structure AgArgs where
  cmb  : Cmb
  pr   : Option Pair
  mb   : Fin 4
  tc   : Fin 4
  v    : Src
  site : BitVec 32
deriving DecidableEq, Repr

/-- Rounding fields of the prefix: spec/02 R56. -/
inductive Frnd where
  | rne | rtz | rup | rdn | rna | sto
deriving DecidableEq, Repr

inductive Sat where
  | satf | wrap | ovfi
deriving DecidableEq, Repr

inductive Qrnd where
  | qn | qd | qu | qz | qm
deriving DecidableEq, Repr

/-- What the far side of a region-0x8 copy answers (spec/10 R261, spec/21 R414): a status and the bytes it read. -/
structure Remote where
  status : Int
  data   : List Byte
deriving DecidableEq, Repr

/-- How a send ends at its peer: acknowledged, refused, or given up by the transport (spec/10 R278, spec/21 R415). -/
inductive CnetEnd where
  | acked | refused | gaveUp
deriving DecidableEq, Repr

/-- The landing post of another device's copy at a flag of this module: die and core, flag, amount, and whether it sets (spec/10 R267). -/
structure RxPost where
  key  : Nat
  flag : Nat
  amt  : Nat
  set  : Bool
deriving DecidableEq, Repr

/-- Bytes of a remote copy for a receive segment, and the landing post that comes with the last of them. -/
structure RxData where
  data : List Byte
  post : Option RxPost := none
deriving DecidableEq, Repr

/-- A contribution on the wire: spec/11 R284. `t` is 0 when TC = 0. -/
structure Contrib where
  seq  : Nat
  site : BitVec 32
  cmb  : Cmb
  tc   : Fin 4
  t    : Int
  v    : Int
  /-- no contribution but the member's orderly departure, told to a home on another device (spec/01 R20) -/
  leave : Bool := false
deriving DecidableEq, Repr

/-- A decided outcome as it reaches a member: spec/11 R286, R292. -/
structure AgOut where
  own     : Nat
  decided : Nat
  c       : Int
  cond    : Bool
  missing : Bool
  clamped : Bool
  ncontr  : Nat
  seq     : Nat
  report  : Word
  /-- a late answer: the SITE with which the member's device rewrites MEMi of its copy of the record (spec/15 R336) -/
  late    : Option (BitVec 32) := none
  /-- members that the home has marked departed (1) or lost (2), as its outcomes tell a member's device (spec/11 R292, log 90) -/
  states  : List (Nat × Nat) := []
deriving DecidableEq, Repr

/-- A Bellows message: source and destination rank, tag, payload as sent, and the flags of spec/11 R316. -/
structure BMsg where
  src    : Nat
  dst    : Nat
  tag    : BitVec 32
  data   : List Byte
  hopovf : Bool
  hop    : Nat
  hops   : Nat
  /-- no message, but the acknowledgement that one sent to rank `src` on another device has been placed (spec/11 R313) -/
  ack    : Bool := false
deriving DecidableEq, Repr

/-- The instruction set and the events of the part, one constructor for each row of spec/opcode_table.json. -/
inductive Instr where
  -- P
  | pfx (frnd : Frnd) (sat : Sat) (qrnd : Qrnd) (seed : Fin 16)
  -- S: integer
  | add (d : XReg) (a : Src) (b : Opnd)
  | sub (d : XReg) (a : Src) (b : Opnd)
  | mul (d : XReg) (a : Src) (b : Opnd)
  | mulh (d : XReg) (a : Src) (b : Opnd)
  | mulhn (d : XReg) (a : Src) (b : Opnd)
  | and (d : XReg) (a : Src) (b : Opnd)
  | or (d : XReg) (a : Src) (b : Opnd)
  | xor (d : XReg) (a : Src) (b : Opnd)
  | andn (d : XReg) (a : Src) (b : Opnd)
  | shl (d : XReg) (a : Src) (b : Opnd)
  | shr (d : XReg) (a : Src) (b : Opnd)
  | sar (d : XReg) (a : Src) (b : Opnd)
  | rotl (d : XReg) (a : Src) (b : Opnd)
  | min (d : XReg) (a : Src) (b : Opnd)
  | max (d : XReg) (a : Src) (b : Opnd)
  | minn (d : XReg) (a : Src) (b : Opnd)
  | maxn (d : XReg) (a : Src) (b : Opnd)
  | sext (d : XReg) (a : Src) (b : Opnd)
  | zext (d : XReg) (a : Src) (b : Opnd)
  | clz (d : XReg) (a : Src)
  | ctz (d : XReg) (a : Src)
  | popc (d : XReg) (a : Src)
  | bfx (d : XReg) (a : Src) (b : Opnd)
  | bfi (d : XReg) (a : Src) (b : Opnd)
  | li (d : XReg) (b : Imm)
  | lih (d : XReg) (a : Src) (b : Imm)
  | cmpeq (p : Pair) (a : Src) (b : Opnd)
  | cmpne (p : Pair) (a : Src) (b : Opnd)
  | cmplt (p : Pair) (a : Src) (b : Opnd)
  | cmple (p : Pair) (a : Src) (b : Opnd)
  | cmpltn (p : Pair) (a : Src) (b : Opnd)
  | cmplen (p : Pair) (a : Src) (b : Opnd)
  | cmptst (p : Pair) (a : Src) (b : Opnd)
  | pand (d a : Fin 16) (na : Bool) (b : Fin 16) (nb : Bool)
  | por (d a : Fin 16) (na : Bool) (b : Fin 16) (nb : Bool)
  | pxor (d a : Fin 16) (na : Bool) (b : Fin 16) (nb : Bool)
  -- S: f32 and Clove
  | fadd (d : XReg) (a : Src) (b : Opnd)
  | fsub (d : XReg) (a : Src) (b : Opnd)
  | fmul (d : XReg) (a : Src) (b : Opnd)
  | fma (d : XReg) (a : Src) (b : Opnd)
  | fdiv (d : XReg) (a : Src) (b : Opnd)
  | fsqrt (d : XReg) (a : Src)
  | fmin (d : XReg) (a : Src) (b : Opnd)
  | fmax (d : XReg) (a : Src) (b : Opnd)
  | fcmpeq (p : Pair) (a : Src) (b : Opnd)
  | fcmplt (p : Pair) (a : Src) (b : Opnd)
  | fcmple (p : Pair) (a : Src) (b : Opnd)
  | fcvtfi (d : XReg) (a : Src) (t : Fin 4)
  | fcvtif (d : XReg) (a : Src) (t : Fin 4)
  | qmk (d : XReg) (a : Src) (b : Opnd)
  | qnum (d : XReg) (a : Src)
  | qden (d : XReg) (a : Src)
  | qflr (d : XReg) (a : Src)
  | qceil (d : XReg) (a : Src)
  | qfromf (d : XReg) (a : Src)
  | qtof (d : XReg) (a : Src)
  -- S: loop counters, identity, status, control
  | lcset (n : Fin 4) (b : Opnd)
  | lcget (d : XReg) (n : Fin 4)
  | lcnext (p : Option Pair) (r dn : Fin 4)
  | rdid (d : XReg) (sel : Fin 15)
  | rdfst (d : XReg)
  | wrfst (a : Src)
  | sgset (n : Fin 16) (a : Src)
  | vstp (k : Fin 2) (a : Src)
  | fmset (n : Fin 8) (a : Src)
  | fmget (d : XReg) (n : Fin 8)
  | bprep (t : Fin 8) (b : Imm)
  | bprepL (t : Fin 8) (b : Imm)
  | bprepi (t : Fin 8) (a : Src)
  | bprepiL (t : Fin 8) (a : Src)
  | sysc (b : Imm)
  | brk (b : Imm)
  | rdcr (d : XReg) (n : Imm)
  | wrcr (n : Imm) (a : Src)
  -- L
  | ldN8 (d : XReg) (base : Src) (off : Opnd)
  | ldN16 (d : XReg) (base : Src) (off : Opnd)
  | ldN32 (d : XReg) (base : Src) (off : Opnd)
  | ldN64 (d : XReg) (base : Src) (off : Opnd)
  | stN8 (v : Src) (base : Src) (off : Opnd)
  | stN16 (v : Src) (base : Src) (off : Opnd)
  | stN32 (v : Src) (base : Src) (off : Opnd)
  | stN64 (v : Src) (base : Src) (off : Opnd)
  | ldsN8 (d : XReg) (base : Src) (off : Opnd)
  | ldsN16 (d : XReg) (base : Src) (off : Opnd)
  | ldsN32 (d : XReg) (base : Src) (off : Opnd)
  | ldsN64 (d : XReg) (base : Src) (off : Opnd)
  | stsN8 (v : Src) (base : Src) (off : Opnd)
  | stsN16 (v : Src) (base : Src) (off : Opnd)
  | stsN32 (v : Src) (base : Src) (off : Opnd)
  | stsN64 (v : Src) (base : Src) (off : Opnd)
  | amoadd (d : XReg) (base : Src) (v : Opnd)
  | amoswp (d : XReg) (base : Src) (v : Opnd)
  | amocas (d : XReg) (base : Src) (v : Opnd)
  | amomin (d : XReg) (base : Src) (v : Opnd)
  | amomax (d : XReg) (base : Src) (v : Opnd)
  | amoand (d : XReg) (base : Src) (v : Opnd)
  | amoor (d : XReg) (base : Src) (v : Opnd)
  | qpush (q : Src) (v : Opnd)
  | qpop (d : XReg) (q : Src)
  | qtry (d : XReg) (p : Pair) (q : Src)
  | tspawn (d : XReg) (b q : Src)
  | sframe (d : XReg) (p : Option Pair) (c : Src)
  | strunc (d : XReg) (c i : Src)
  | sadv (d : XReg) (c n : Src)
  | scur (d : XReg) (c : Src) (sel : Fin 7)
  | sgen (p : Pair) (c v : Src)
  | smpl (d : XReg) (b : Src)
  | sacc (d : XReg) (b : Src)
  | srng (d : XReg)
  -- Y
  | wait (f : Fin 32) (n : Thr)
  | waity (f : Fin 32) (n : Thr)
  | post (f : Fin 32) (n : Amt) (set : Bool)
  | postr (f : Fin 32) (t : Src) (n : Option (BitVec 16)) (set : Bool)
  | barr (n : Fin 64)
  | agree (a : AgArgs)
  | agreep (a : AgArgs) (hint : Bool)
  | agreeT (a : AgArgs)
  | agst (d : XReg) (m : Fin 4) (sel : Fin 4)
  -- V
  | vadd (v : VArgs)
  | vsub (v : VArgs)
  | vmul (v : VArgs)
  | vfma (v : VArgs)
  | vfms (v : VArgs)
  | vmin (v : VArgs)
  | vmax (v : VArgs)
  | vabs (v : VArgs)
  | vneg (v : VArgs)
  | vmov (v : VArgs)
  | vand (v : VArgs)
  | vor (v : VArgs)
  | vxor (v : VArgs)
  | vnot (v : VArgs)
  | vshl (v : VArgs)
  | vshr (v : VArgs)
  | vsar (v : VArgs)
  | vceq (v : VArgs)
  | vclt (v : VArgs)
  | vcle (v : VArgs)
  | vsel (v : VArgs)
  | vcvt (v : VArgs)
  | vmx (v : VArgs)
  | vunmx (v : VArgs)
  | vrcp (v : VArgs)
  | vrsq (v : VArgs)
  | vsqrt (v : VArgs)
  | vexp2 (v : VArgs)
  | vlog2 (v : VArgs)
  | vtanh (v : VArgs)
  | vsigm (v : VArgs)
  | vrsum (v : VArgs)
  | vrmax (v : VArgs)
  | vrmin (v : VArgs)
  | vargmax (v : VArgs)
  | vtopk (v : VArgs)
  | vperm (v : VArgs)
  | vrot (v : VArgs)
  | vbcast (v : VArgs)
  | vext (v : VArgs)
  | vins (v : VArgs)
  | vany (v : VArgs)
  | vall (v : VArgs)
  -- M
  | mset (er : Fin 14) (a : Src)
  | mseti (er : Fin 14) (v : BitVec 32)
  | mget (d : XReg) (er : Fin 14) (act : Bool)
  | mlatch (a : Src)
  | mgoBf16 (w : Option (Fin 14 × Src))
  | mgoF16 (w : Option (Fin 14 × Src))
  | mgoW8 (w : Option (Fin 14 × Src))
  | mgoS8 (w : Option (Fin 14 × Src))
  | mgoW4 (w : Option (Fin 14 × Src))
  | mgoS4 (w : Option (Fin 14 × Src))
  | mjoinBf16 (w : Option (Fin 14 × Src))
  | mjoinF16 (w : Option (Fin 14 × Src))
  | mjoinW8 (w : Option (Fin 14 × Src))
  | mjoinS8 (w : Option (Fin 14 × Src))
  | mjoinW4 (w : Option (Fin 14 × Src))
  | mjoinS4 (w : Option (Fin 14 × Src))
  -- C
  | cset (er : Fin 9) (a : Src)
  | cseti (er : Fin 9) (v : BitVec 32)
  | cget (d : XReg) (er : Fin 9) (act : Bool)
  | cdis (t : XReg)
  | cpost (t : Src) (f : Fin 32) (n : BitVec 16) (set : Bool)
  | cgo (t : XReg) (w : Option (Fin 9 × Src))
  | cgath (t : XReg) (w : Option (Fin 9 × Src))
  | cscat (t : XReg) (w : Option (Fin 9 × Src))
  | cfill (t : XReg) (a : Src)
  | cbcast (t : XReg) (w : Option (Fin 9 × Src))
  | cdx (t : XReg) (w : Option (Fin 9 × Src))
  | cpfd (t : XReg) (w : Option (Fin 9 × Src))
  | carm (t : XReg) (f : Fin 32) (n : BitVec 16)
  | cmred (t : XReg) (w : Option (Fin 9 × Src))
  | ckvc (t : XReg) (w : Option (Fin 9 × Src))
  | cnet (t : XReg) (w : Option (Fin 9 × Src))
  | bgo (t : XReg) (a : Src)
  -- events; the agent and die an event belongs to are the state's `here` (spec/01 R11)
  | exposedResultLanding (i : Nat)
  | loadCompletion (i : Nat)
  | copyCompletion (id : Nat) (reply : Remote)
  | cnetCompletion (id : Nat) (how : CnetEnd)
  | landingPostDelivery (id : Nat)
  | cpostDelivery (id : Nat)
  | armedCopyFire (id : Nat)
  | flagPostDelivery (i : Nat)
  | queueMessageAppend (q ctx : Nat) (msg : Word)
  | flueMove (q : Nat)
  | targetFillCompletion (t : Nat)
  | preemptionRequest (q : Nat)
  | agreementContributionArrival (g m : Nat) (c : Contrib)
  | lateLimitExpiry (g n : Nat)
  | agreementOutcomeDelivery (g m : Nat) (o : AgOut)
  | reportCopyWrite (g n ctx : Nat) (data : List Byte)
  | groupInvalidate (g : Nat)
  | heartbeatArrival (dev : Nat)
  | deviceLoss (dev : Nat)
  | frameArrival (seg : Nat) (data : List Byte)
  | rxSegmentArrival (off : BitVec 36) (rx : RxData)
  | rxRemoteRead (off : BitVec 36) (len : Nat)
  | bellowsMessageArrival (id : Nat) (m : BMsg)
  | graphLaunch (w : Word)
  | tasksetFirstArrival (h node : Nat)
  | tasksetActivation (h node : Nat)
  | condActivation (h node : Nat)
  | whileActivation (h node : Nat)
  | joinActivation (h node : Nat)
  | endActivation (h node : Nat)
  | tlbInvalidate (w : Word)
  | engineRestart (w : Word)
  | queueEnable (q : Nat)
  | registerPageWindowWrite (pa : BitVec 52) (data : List Byte)
  | registerWrite (off : Nat) (w : Word)
  | hostMemoryAccess (off len : Nat) (wr : Option (List Byte))
  | hostCompletionTimeout (i : Nat)
  | clockStep (up : Bool)
  | bringUpStage (err : Byte) (data : List Word)
  | softErrorRollback (str : Nat)
  | machineCheck (str : Nat) (addr : Word)
  | damperCharge (ctx bucket units : Nat)
  | damperRefill (ctx bucket : Nat)
  | chimneyLinkDown (k : Nat)
  | chimneyLinkUp (k : Nat)
  | hostWindowAccess (pa : BitVec 52) (len : Nat) (wr : Option (List Byte))
  | spdmRequest (nonce : Word)
  | weakStoreReachesHome (i : Nat)
  -- operations and events without operands; an event acts at the state's `here`
  | bundleIssue
  | trapEntry
  | hearthLanding
  | mjoinRendezvous
  | mjoinWaitLimitExpiry
  | fenceCompletion
  | taskRetirement
  | taskDispatch
  | forcedRollback
  | saveCompletion
  | yieldThresholdExpiry
  | heartbeatSend
  | bellowsSend
  | bellowsRecv
  | bellowsRrs
  | bellowsCopy
  | bellowsWait
  | bellowsPost
  | bellowsLoop
  | bellowsEndl
  | bellowsHalt
  | saffronRequestTake
  | notifyRead
  | tlbInvalidateCompletion
  | dieFence
  | dieOpen
  | attest
  | ckpt
  | mailboxInvalidCommand
  | hubLinkFailure
  | thermalFence
  | coolantLoss
  | moduleReset
  | softErrorCorrected
  | hubLinkRetrain
  | coreRestart
  | rfe
  | halt
  | fenceCore
  | fenceDie
  | fenceDev
  | fenceFab
  | ifence
  | tend
  | yield
  | mclr
  | mgol
deriving DecidableEq, Repr

/-- The nine slots of a bundle, in template order (spec/04 R93). -/
inductive Slot where
  | p | y | s | l | v0 | v1 | m | c0 | c1
deriving DecidableEq, Repr

/-- Header syllable of a bundle: spec/04 R94. -/
structure Hdr where
  e  : Bool
  t  : BitVec 9
  rc : BitVec 4
  d  : Bool
  k  : Bool
  q  : Bool
  a  : Bool
  w  : Bool
  z  : Bool
  j  : Bool
  tb : Fin 8
  pn : Bool
  pg : Fin 16
deriving DecidableEq, Repr

/-- One slot of a decoded bundle: the slot, its guard (spec/04 R95) and its operation. -/
structure SlotOp where
  slot  : Slot
  guard : Fin 16
  op    : Instr
deriving DecidableEq, Repr

/-- A decoded bundle and its length in bytes. -/
structure Bundle where
  hdr : Hdr
  ops : List SlotOp
  len : Nat
deriving DecidableEq, Repr

/-- Why a decoder refuses: the two decode traps of spec/04 R100 and R101. -/
inductive DErr where
  | illb | illop
deriving DecidableEq, Repr

/-- What the D field of a V operation names (spec/08 R223, R225). -/
inductive VD where
  | row | xreg | pair
deriving DecidableEq, Repr

/-- What the A field names: a row, a lane index code (`vins`), or nothing when B is broadcast (`vmov`). -/
inductive VAUse where
  | row | lane | mov
deriving DecidableEq, Repr

/-- The forms of operand B: spec/08 R205. -/
inductive VBUse where
  | none | rowScal | amount | selector | scalar | topk | mov
deriving DecidableEq, Repr

inductive VCUse where
  | none | row | srcType
deriving DecidableEq, Repr

/-- Field use of one V instruction. -/
structure VForm where
  d     : VD := .row
  a     : VAUse := .row
  b     : VBUse := .none
  c     : VCUse := .none
  noMask : Bool := false
  types : VTy → Bool
  /-- further ILLB of the instruction's own description -/
  illb  : VArgs → Bool := fun _ => false
  /-- further ILLOP of the instruction's own description -/
  illop : VArgs → Bool := fun _ => false

end Sys2Proof
end

