-- ==== Sys2Proof/Decode.lean ====
section
/-!
DEFINITION. The decoder, total on any syllables, refusing by name (ILLB or ILLOP, spec/04 R100, R101), and after it
the encoder, written from the same encoding tables (spec/04 R93 to R99, R122 to R128; spec/06 R151; spec/07 R171, R186;
spec/08 R204; spec/09 R226; spec/10 R250; spec/11 R283, R292, R299, R307).
-/
namespace Sys2Proof


/-- Lanes of a view: spec/02 R53, spec/04 R97. -/
def VTy.lanes : VTy → Nat
  | .s64 | .n64 | .a80 => 128
  | .s32 | .n32 | .f32 | .q32 => 256
  | .s16 | .n16 | .bf16 | .f16 => 512
  | .s8 | .n8 | .fm _ => 1024

/-- Lane width in bits. -/
def VTy.width (t : VTy) : Nat := 10240 / t.lanes

def VTy.isInt : VTy → Bool
  | .s64 | .n64 | .s32 | .n32 | .s16 | .n16 | .s8 | .n8 => true
  | _ => false

def VTy.isSigned : VTy → Bool
  | .s64 | .s32 | .s16 | .s8 => true
  | _ => false

def VTy.isFloat : VTy → Bool
  | .bf16 | .f16 | .f32 => true
  | _ => false

def VTy.isFm : VTy → Bool
  | .fm _ => true
  | _ => false

/-- TYPE and VIEW codes: spec/04 R98. -/
def VTy.code : VTy → Nat × Nat
  | .s64 => (0, 0) | .n64 => (1, 0) | .a80 => (2, 0)
  | .s32 => (0, 1) | .n32 => (1, 1) | .f32 => (2, 1) | .q32 => (3, 1)
  | .s16 => (0, 2) | .n16 => (1, 2) | .bf16 => (2, 2) | .f16 => (3, 2)
  | .s8 => (0, 3) | .n8 => (1, 3) | .fm n => (8 + n.val, 3)

def VTy.ofCode (ty view : Nat) : Option VTy :=
  match view, ty with
  | 0, 0 => some .s64 | 0, 1 => some .n64 | 0, 2 => some .a80
  | 1, 0 => some .s32 | 1, 1 => some .n32 | 1, 2 => some .f32 | 1, 3 => some .q32
  | 2, 0 => some .s16 | 2, 1 => some .n16 | 2, 2 => some .bf16 | 2, 3 => some .f16
  | 3, 0 => some .s8 | 3, 1 => some .n8
  | 3, t => if h : t - 8 < 8 then (if 8 ≤ t then some (.fm ⟨t - 8, h⟩) else none) else none
  | _, _ => none

/-- Code of an operand: spec/03 R74. -/
def Src.code : Src → Nat
  | .x n => n.val | .sq => 56 | .lq => 57 | .gq => 58 | .tq => 59 | .ko => 63

def Src.ofCode (n : Nat) : Option Src :=
  if h : n < 56 then some (.x ⟨n, h⟩)
  else match n with
    | 56 => some .sq | 57 => some .lq | 58 => some .gq | 59 => some .tq | 63 => some .ko
    | _ => none

def VB.val : VB → Nat
  | .idx n => n.val
  | .scal s => s.code

namespace VTypes
def int (t : VTy) : Bool := t.isInt
def float (t : VTy) : Bool := t.isFloat
def arith (t : VTy) : Bool := t.isInt || t.isFloat || t == .a80
def any (_ : VTy) : Bool := true
def ext (t : VTy) : Bool := t != .a80
def topk (t : VTy) : Bool := t == .s16 || t == .s32 || t.isFloat
def fm (t : VTy) : Bool := t.isFm
end VTypes

/-- Source type of `vcvt` from its C field: spec/08 R215. -/
def vcvtSrc (c : Nat) : Option VTy := VTy.ofCode (c % 16) (c / 16 % 4)

def vcvtIllop (v : VArgs) : Bool :=
  match vcvtSrc v.c.val with
  | none => true
  | some st =>
    let r := Nat.max st.lanes v.ty.lanes / Nat.min st.lanes v.ty.lanes
    decide (r ≤ v.b.val) ||
    (st == .q32 && v.ty != .f32) || (v.ty == .q32 && st != .f32)

/-- Source lanes of `vmx` by B[3:2]: spec/08 R216. -/
def vmxLanes (b : Nat) : Nat := if b / 4 % 4 = 0 then 256 else 512

def vmxIllop (v : VArgs) : Bool :=
  v.b.val / 4 % 4 == 3 || decide (1024 / vmxLanes v.b.val ≤ v.b.val % 4) || v.d == v.c

def vunmxIllop (v : VArgs) : Bool :=
  decide (1024 / v.ty.lanes ≤ v.b.val % 4)

def vtopkIllop (v : VArgs) : Bool :=
  v.d == v.c || (match v.b with
    | .idx n => n.val == 0 || decide (64 < n.val)
    | .scal _ => false)

/-- ILLB of a V operation: a field the instruction does not use, or uses otherwise, holds a nonzero value
(spec/04 R100, spec/08 R204). -/
def VForm.bad (f : VForm) (v : VArgs) : Bool :=
  (match f.d with
    | .row => false
    | .xreg => decide (64 ≤ v.d.val)
    | .pair => decide (16 ≤ v.d.val)) ||
  (match f.a, v.a with
    | .row, _ => false
    | .lane, .row n => decide (64 ≤ n.val)
    | .lane, .ko => true
    | .mov, .ko => (match v.b with | .scal _ => true | .idx _ => false)
    | .mov, .row n => (match v.b with | .scal _ => n.val != 0 | .idx _ => false)) ||
  (match f.b, v.b with
    | .none, .idx n => n.val != 0
    | .none, .scal _ => true
    | .selector, .scal _ => true
    | .scalar, .idx _ => true
    | .mov, .idx n => n.val != 0
    | _, _ => false) ||
  (match f.c with
    | .none => v.c.val != 0
    | .row => false
    | .srcType => decide (64 ≤ v.c.val)) ||
  (f.noMask && v.mask.val != 0) || f.illb v

/-- ILLOP of a V operation at decode (spec/04 R101, spec/08 R208). -/
def VForm.wrong (f : VForm) (v : VArgs) : Bool :=
  !f.types v.ty ||
  (match f.d with
    | .row => false
    | .xreg => decide (56 ≤ v.d.val)
    | .pair => v.d.val % 2 == 1 || v.d.val == 0) ||
  (match f.a, v.a with
    | .lane, .row n => (Src.ofCode n.val).isNone
    | _, _ => false) ||
  f.illop v

def VForm.check (f : VForm) (v : VArgs) : Option DErr :=
  if f.bad v then some .illb else if f.wrong v then some .illop else none

def fBin (t : VTy → Bool) : VForm := { b := .rowScal, types := t }
def fTri (t : VTy → Bool) : VForm := { b := .rowScal, c := .row, types := t }
def fUn (t : VTy → Bool) : VForm := { types := t }
def fAmt (t : VTy → Bool) : VForm := { b := .amount, types := t }

def fVmx : VForm where
  b := .selector
  c := .row
  noMask := true
  types := VTypes.fm
  illb := fun v => decide (16 ≤ v.b.val)
  illop := vmxIllop

def fVunmx : VForm where
  b := .selector
  c := .row
  noMask := true
  types := VTypes.float
  illb := fun v => decide (32 ≤ v.b.val)
  illop := vunmxIllop

/-- The V instructions, their opcodes (spec/04 R126), field uses (spec/08) and arguments. -/
def Instr.vform : Instr → Option (Nat × VForm × VArgs)
  | .vadd v => some (0x01, fBin VTypes.arith, v)
  | .vsub v => some (0x02, fBin VTypes.arith, v)
  | .vmul v => some (0x03, fBin VTypes.arith, v)
  | .vfma v => some (0x04, fTri VTypes.arith, v)
  | .vfms v => some (0x05, fTri VTypes.arith, v)
  | .vmin v => some (0x06, fBin VTypes.arith, v)
  | .vmax v => some (0x07, fBin VTypes.arith, v)
  | .vabs v => some (0x08, fUn VTypes.arith, v)
  | .vneg v => some (0x09, fUn VTypes.arith, v)
  | .vmov v => some (0x0A, { a := VAUse.mov, b := VBUse.mov, types := VTypes.any }, v)
  | .vand v => some (0x10, fBin VTypes.any, v)
  | .vor v => some (0x11, fBin VTypes.any, v)
  | .vxor v => some (0x12, fBin VTypes.any, v)
  | .vnot v => some (0x13, fUn VTypes.any, v)
  | .vshl v => some (0x14, fBin VTypes.int, v)
  | .vshr v => some (0x15, fBin VTypes.int, v)
  | .vsar v => some (0x16, fBin VTypes.int, v)
  | .vceq v => some (0x18, fBin VTypes.arith, v)
  | .vclt v => some (0x19, fBin VTypes.arith, v)
  | .vcle v => some (0x1A, fBin VTypes.arith, v)
  | .vsel v => some (0x1B, fTri VTypes.any, v)
  | .vcvt v => some (0x20, { b := .selector, c := .srcType, types := VTypes.any, illop := vcvtIllop }, v)
  | .vmx v => some (0x21, fVmx, v)
  | .vunmx v => some (0x22, fVunmx, v)
  | .vrcp v => some (0x28, fUn VTypes.float, v)
  | .vrsq v => some (0x29, fUn VTypes.float, v)
  | .vsqrt v => some (0x2A, fUn VTypes.float, v)
  | .vexp2 v => some (0x2B, fUn VTypes.float, v)
  | .vlog2 v => some (0x2C, fUn VTypes.float, v)
  | .vtanh v => some (0x2D, fUn VTypes.float, v)
  | .vsigm v => some (0x2E, fUn VTypes.float, v)
  | .vrsum v => some (0x30, fUn VTypes.arith, v)
  | .vrmax v => some (0x31, fUn VTypes.arith, v)
  | .vrmin v => some (0x32, fUn VTypes.arith, v)
  | .vargmax v => some (0x33, fUn VTypes.arith, v)
  | .vtopk v => some (0x34, { b := .topk, c := .row, types := VTypes.topk, illop := vtopkIllop }, v)
  | .vperm v => some (0x38, fBin VTypes.any, v)
  | .vrot v => some (0x39, fAmt VTypes.any, v)
  | .vbcast v => some (0x3A, fAmt VTypes.any, v)
  | .vext v => some (0x3B, { d := .xreg, b := .amount, noMask := true, types := VTypes.ext }, v)
  | .vins v => some (0x3C, { a := .lane, b := .scalar, types := VTypes.any }, v)
  | .vany v => some (0x40, { d := .pair, types := VTypes.any }, v)
  | .vall v => some (0x41, { d := .pair, types := VTypes.any }, v)
  | _ => none

/-! ### Fields of a syllable (spec/04 R95, R96) -/

/-- The class fields of a main syllable below the guard, with the extension if X is 1. -/
def fX (w : Syl) : Nat := w.toNat / 2 ^ 30 % 2
def fOp (w : Syl) : Nat := w.toNat / 2 ^ 23 % 128
def fPG (w : Syl) : Nat := w.toNat / 2 ^ 19 % 16
def fD (w : Syl) : Nat := w.toNat / 2 ^ 13 % 64
def fA (w : Syl) : Nat := w.toNat / 2 ^ 7 % 64
def fB (w : Syl) : Nat := w.toNat / 2 % 64
def fI (w : Syl) : Nat := w.toNat % 2

abbrev Dec := Except DErr Instr

/-- The instruction, unless a field that must be zero is not. -/
def zeroOr (z : Bool) (r : Dec) : Dec := if z then r else .error .illb

def xreg (n : Nat) (f : XReg → Dec) : Dec := if h : n < 56 then f ⟨n, h⟩ else .error .illop
def src (n : Nat) (f : Src → Dec) : Dec :=
  match Src.ofCode n with
  | some s => f s
  | none => .error .illop
def fin {n : Nat} (k : Nat) (f : Fin n → Dec) : Dec := if h : k < n then f ⟨k, h⟩ else .error .illop
/-- An even predicate number 2 to 14 (spec/06 R158). -/
def pairOf (n : Nat) (f : Pair → Dec) : Dec :=
  if n % 2 = 1 then .error .illop
  else if h : n / 2 - 1 < 7 then (if n = 0 then .error .illop else f ⟨n / 2 - 1, h⟩) else .error .illop
def pairOpt (n : Nat) (f : Option Pair → Dec) : Dec :=
  if n = 0 then f none else pairOf n (fun p => f (some p))
/-- Operand B or IDX with BI and X: spec/04 R96. The generic ILLB checks of BI and X come first (`genericBad`). -/
def opndB (w : Syl) (ext : Syl) (f : Opnd → Dec) : Dec :=
  if fI w = 0 then src (fB w) (fun s => f (.reg s))
  else if fX w = 0 then f (.short (BitVec.ofNat 6 (fB w)))
  else f (.long ext)
def immB (w : Syl) (ext : Syl) (f : Imm → Dec) : Dec :=
  zeroOr (fI w == 1) (if fX w = 0 then f (.short (BitVec.ofNat 6 (fB w))) else f (.long ext))

/-- ILLB of every S and L syllable: X without BI, or BI and X with a nonzero B or IDX (spec/04 R100). -/
def genericBad (w : Syl) : Bool := fX w == 1 && (fI w == 0 || fB w != 0)

def noB (w : Syl) : Bool := fB w == 0 && fI w == 0 && fX w == 0
def noX (w : Syl) : Bool := fX w == 0

/-! ### S slot (spec/04 R123, spec/06) -/

def sDab (w e : Syl) (f : XReg → Src → Opnd → Instr) : Dec :=
  xreg (fD w) fun d => src (fA w) fun a => opndB w e fun b => .ok (f d a b)
def sDa (w : Syl) (f : XReg → Src → Instr) : Dec :=
  zeroOr (noB w) <| xreg (fD w) fun d => src (fA w) fun a => .ok (f d a)
def sPab (w e : Syl) (f : Pair → Src → Opnd → Instr) : Dec :=
  zeroOr (fD w < 16) <| pairOf (fD w) fun p => src (fA w) fun a => opndB w e fun b => .ok (f p a b)
def sPred (w : Syl) (f : Fin 16 → Fin 16 → Bool → Fin 16 → Bool → Instr) : Dec :=
  zeroOr (fD w < 16 && fA w < 32 && fB w < 32 && fI w == 0 && fX w == 0) <|
    fin (fD w) fun d => fin (fA w % 16) fun a => fin (fB w % 16) fun b =>
      .ok (f d a (fA w / 16 == 1) b (fB w / 16 == 1))
/-- Conversions: the type selector is a short immediate (spec/06 R161). -/
def sCvt (w : Syl) (f : XReg → Src → Fin 4 → Instr) : Dec :=
  zeroOr (fI w == 1 && fX w == 0) <|
    xreg (fD w) fun d => src (fA w) fun a => fin (fB w) fun t => .ok (f d a t)
def sSys (w e : Syl) (f : Imm → Instr) : Dec :=
  zeroOr (fD w == 0 && fA w == 0) <| immB w e fun b => .ok (f b)

def decSop (op : Nat) (w e : Syl) : Dec :=
  match op with
  | 0x01 => sDab w e .add
  | 0x02 => sDab w e .sub
  | 0x03 => sDab w e .mul
  | 0x04 => sDab w e .mulh
  | 0x05 => sDab w e .mulhn
  | 0x06 => sDab w e .and
  | 0x07 => sDab w e .or
  | 0x08 => sDab w e .xor
  | 0x09 => sDab w e .andn
  | 0x0A => sDab w e .shl
  | 0x0B => sDab w e .shr
  | 0x0C => sDab w e .sar
  | 0x0D => sDab w e .rotl
  | 0x0E => sDab w e .min
  | 0x0F => sDab w e .max
  | 0x10 => sDab w e .minn
  | 0x11 => sDab w e .maxn
  | 0x12 => sDab w e .sext
  | 0x13 => sDab w e .zext
  | 0x14 => sDa w .clz
  | 0x15 => sDa w .ctz
  | 0x16 => sDa w .popc
  | 0x17 => sDab w e .bfx
  | 0x18 => sDab w e .bfi
  | 0x19 => zeroOr (fA w == 0) <| immB w e fun b => xreg (fD w) fun d => .ok (.li d b)
  | 0x1A => immB w e fun b => xreg (fD w) fun d => src (fA w) fun a => .ok (.lih d a b)
  | 0x20 => sPab w e .cmpeq
  | 0x21 => sPab w e .cmpne
  | 0x22 => sPab w e .cmplt
  | 0x23 => sPab w e .cmple
  | 0x24 => sPab w e .cmpltn
  | 0x25 => sPab w e .cmplen
  | 0x26 => sPab w e .cmptst
  | 0x28 => sPred w .pand
  | 0x29 => sPred w .por
  | 0x2A => sPred w .pxor
  | 0x30 => sDab w e .fadd
  | 0x31 => sDab w e .fsub
  | 0x32 => sDab w e .fmul
  | 0x33 => sDab w e .fma
  | 0x34 => sDab w e .fdiv
  | 0x35 => sDa w .fsqrt
  | 0x36 => sDab w e .fmin
  | 0x37 => sDab w e .fmax
  | 0x38 => sPab w e .fcmpeq
  | 0x39 => sPab w e .fcmplt
  | 0x3A => sPab w e .fcmple
  | 0x3B => sCvt w .fcvtfi
  | 0x3C => sCvt w .fcvtif
  | 0x40 => sDab w e .qmk
  | 0x41 => sDa w .qnum
  | 0x42 => sDa w .qden
  | 0x43 => sDa w .qflr
  | 0x44 => sDa w .qceil
  | 0x45 => sDa w .qfromf
  | 0x46 => sDa w .qtof
  | 0x48 => zeroOr (fD w < 4 && fA w == 0) <| fin (fD w) fun n => opndB w e fun b => .ok (.lcset n b)
  | 0x49 => zeroOr (fA w < 4 && noB w) <| xreg (fD w) fun d => fin (fA w) fun n => .ok (.lcget d n)
  | 0x4A => zeroOr (fD w < 16 && fA w < 4 && fB w < 4 && fI w == 0 && fX w == 0) <|
      pairOpt (fD w) fun p => fin (fA w) fun r => fin (fB w) fun dn => .ok (.lcnext p r dn)
  | 0x4C => zeroOr (fA w == 0 && fI w == 1 && fX w == 0) <|
      xreg (fD w) fun d => fin (fB w) fun sel => .ok (.rdid d sel)
  | 0x4D => zeroOr (fA w == 0 && noB w) <| xreg (fD w) fun d => .ok (.rdfst d)
  | 0x4E => zeroOr (fD w == 0 && noB w) <| src (fA w) fun a => .ok (.wrfst a)
  | 0x4F => zeroOr (fD w < 16 && noB w) <| fin (fD w) fun n => src (fA w) fun a => .ok (.sgset n a)
  | 0x50 => zeroOr (noB w) <| fin (fD w) fun k => src (fA w) fun a => .ok (.vstp k a)
  | 0x51 => zeroOr (fD w < 8 && noB w) <| fin (fD w) fun n => src (fA w) fun a => .ok (.fmset n a)
  | 0x52 => zeroOr (fA w < 8 && noB w) <| xreg (fD w) fun d => fin (fA w) fun n => .ok (.fmget d n)
  | 0x58 => zeroOr (fD w < 8 && fA w == 0) <| fin (fD w) fun t => immB w e fun b => .ok (.bprep t b)
  | 0x59 => zeroOr (fD w < 8 && fA w == 0) <| fin (fD w) fun t => immB w e fun b => .ok (.bprepL t b)
  | 0x5A => zeroOr (fD w < 8 && noB w) <| fin (fD w) fun t => src (fA w) fun a => .ok (.bprepi t a)
  | 0x5B => zeroOr (fD w < 8 && noB w) <| fin (fD w) fun t => src (fA w) fun a => .ok (.bprepiL t a)
  | 0x5C => sSys w e .sysc
  | 0x5D => sSys w e .brk
  | 0x70 => zeroOr (fA w == 0) <| immB w e fun n => xreg (fD w) fun d => .ok (.rdcr d n)
  | 0x71 => zeroOr (fD w == 0) <| immB w e fun n => src (fA w) fun a => .ok (.wrcr n a)
  | 0x72 => zeroOr (fD w == 0 && fA w == 0 && noB w) (.ok .rfe)
  | 0x73 => zeroOr (fD w == 0 && fA w == 0 && noB w) (.ok .halt)
  | _ => .error .illop

def decS (w e : Syl) : Dec := zeroOr (!genericBad w) (decSop (fOp w) w e)

/-! ### L slot (spec/04 R124, spec/07, spec/11 R299, R307) -/

def lLd (w e : Syl) (f : XReg → Src → Opnd → Instr) : Dec := sDab w e f
def lSt (w e : Syl) (f : Src → Src → Opnd → Instr) : Dec :=
  src (fD w) fun v => src (fA w) fun a => opndB w e fun b => .ok (f v a b)
def lNone (w : Syl) (i : Instr) : Dec := zeroOr (fD w == 0 && fA w == 0 && noB w) (.ok i)
/-- `[xc]` with a register in IDX: spec/11 R299. -/
def lDci (w : Syl) (f : XReg → Src → Src → Instr) : Dec :=
  zeroOr (fI w == 0 && fX w == 0) <|
    xreg (fD w) fun d => src (fA w) fun c => src (fB w) fun i => .ok (f d c i)

def decLop (op : Nat) (w e : Syl) : Dec :=
  match op with
  | 0x01 => lLd w e .ldN8
  | 0x02 => lLd w e .ldN16
  | 0x03 => lLd w e .ldN32
  | 0x04 => lLd w e .ldN64
  | 0x05 => lSt w e .stN8
  | 0x06 => lSt w e .stN16
  | 0x07 => lSt w e .stN32
  | 0x08 => lSt w e .stN64
  | 0x09 => lLd w e .ldsN8
  | 0x0A => lLd w e .ldsN16
  | 0x0B => lLd w e .ldsN32
  | 0x0C => lLd w e .ldsN64
  | 0x0D => lSt w e .stsN8
  | 0x0E => lSt w e .stsN16
  | 0x0F => lSt w e .stsN32
  | 0x10 => lSt w e .stsN64
  | 0x18 => lLd w e .amoadd
  | 0x19 => lLd w e .amoswp
  | 0x1A => lLd w e .amocas
  | 0x1B => lLd w e .amomin
  | 0x1C => lLd w e .amomax
  | 0x1D => lLd w e .amoand
  | 0x1E => lLd w e .amoor
  | 0x20 => lNone w .fenceCore
  | 0x21 => lNone w .fenceDie
  | 0x22 => lNone w .fenceDev
  | 0x23 => lNone w .fenceFab
  | 0x24 => lNone w .ifence
  | 0x28 => zeroOr (fD w == 0) <| src (fA w) fun q => opndB w e fun v => .ok (.qpush q v)
  | 0x29 => zeroOr (noB w) <| xreg (fD w) fun d => src (fA w) fun q => .ok (.qpop d q)
  | 0x2A => zeroOr (fI w == 0 && fX w == 0 && fB w < 16) <|
      xreg (fD w) fun d => pairOf (fB w) fun p => src (fA w) fun q => .ok (.qtry d p q)
  | 0x2C => lDci w .tspawn
  | 0x2D => lNone w .tend
  | 0x30 => zeroOr (fI w == 0 && fX w == 0 && fB w < 16) <|
      xreg (fD w) fun d => pairOpt (fB w) fun p => src (fA w) fun c => .ok (.sframe d p c)
  | 0x31 => lDci w .strunc
  | 0x32 => lDci w .sadv
  | 0x33 => zeroOr (fI w == 1 && fX w == 0) <|
      xreg (fD w) fun d => fin (fB w) fun sel => src (fA w) fun c => .ok (.scur d c sel)
  | 0x34 => zeroOr (fI w == 0 && fX w == 0 && fD w < 16) <|
      pairOf (fD w) fun p => src (fA w) fun c => src (fB w) fun v => .ok (.sgen p c v)
  | 0x38 => zeroOr (noB w) <| xreg (fD w) fun d => src (fA w) fun b => .ok (.smpl d b)
  | 0x39 => zeroOr (noB w) <| xreg (fD w) fun d => src (fA w) fun b => .ok (.sacc d b)
  | 0x3A => zeroOr (noB w && fA w == 0) <| xreg (fD w) fun d => .ok (.srng d)
  | _ => .error .illop

def decL (w e : Syl) : Dec := zeroOr (!genericBad w) (decLop (fOp w) w e)

/-! ### Y slot (spec/07 R186 to R193, spec/11 R283, R292) -/

def yIdx (w : Syl) : Nat := w.toNat / 2 ^ 11 % 256
def yArg (w : Syl) : Nat := w.toNat % 2 ^ 10
def yRS (w : Syl) : Nat := w.toNat / 2 ^ 10 % 2

def extHigh (e : Syl) : Nat := e.toNat / 2 ^ 16
def ext16 (e : Syl) : BitVec 16 := BitVec.ofNat 16 e.toNat

/-- Threshold of the waits: spec/07 R187. -/
def yThr (w e : Syl) (f : Thr → Dec) : Dec :=
  if yRS w = 1 then
    zeroOr (fX w == 0 && yArg w < 64) <| src (yArg w) fun s => f (.reg s)
  else if fX w = 0 then f (.short (BitVec.ofNat 10 (yArg w)))
  else zeroOr (yArg w == 0 && extHigh e == 0) (f (.long (ext16 e)))

def yWait (w e : Syl) (f : Fin 32 → Thr → Instr) : Dec :=
  zeroOr (yIdx w < 32) <| fin (yIdx w) fun n => yThr w e fun t => .ok (f n t)

def cmbOf (n : Nat) (f : Cmb → Dec) : Dec :=
  match n with
  | 0 => f .all | 1 => f .any | 2 => f .sum | 3 => f .min | 4 => f .max
  | _ => .error .illop

/-- Fields of an agreement: spec/11 R283. -/
def yAg (w e : Syl) (hintOk : Bool) (f : AgArgs → Instr) : Dec :=
  zeroOr (fX w == 1 && w.toNat / 2 ^ 9 % 4 == 0 && (hintOk || w.toNat / 2 ^ 8 % 2 == 0)) <|
    cmbOf (w.toNat / 2 ^ 16 % 8) fun cmb =>
    fin (w.toNat / 2 ^ 11 % 4) fun mb => fin (w.toNat / 2 ^ 6 % 4) fun tc =>
    src (w.toNat % 64) fun v =>
    let pr := w.toNat / 2 ^ 13 % 8
    pairOpt (2 * pr) fun p => .ok (f ⟨cmb, p, mb, tc, v, e⟩)

/-- The Y map: spec/07 R186 to R194, spec/11. `barr` and `yield` have no use for X, and X = 1 in them is ILLB: the model's choice (log 118). -/
def decYop (op : Nat) (w e : Syl) : Dec :=
  match op with
  | 0x01 => yWait w e .wait
  | 0x02 => yWait w e .waity
  | 0x03 => zeroOr (yIdx w < 32) <| fin (yIdx w) fun n =>
      if fX w = 0 then .ok (.post n (.short (BitVec.ofNat 10 (yArg w))) (yRS w == 1))
      else zeroOr (extHigh e == 0) (.ok (.post n (.long (ext16 e)) (yRS w == 1)))
  | 0x04 => zeroOr (yIdx w < 32 && yArg w < 64 && (fX w == 0 || extHigh e == 0)) <|
      fin (yIdx w) fun n => src (yArg w) fun t =>
      .ok (.postr n t (if fX w = 0 then none else some (ext16 e)) (yRS w == 1))
  | 0x05 => zeroOr (fX w == 0 && yIdx w < 64 && yArg w == 0 && yRS w == 0) <|
      fin (yIdx w) fun n => .ok (.barr n)
  | 0x06 => yAg w e false .agree
  | 0x07 => yAg w e true fun a => .agreep a (w.toNat / 2 ^ 8 % 2 == 1)
  | 0x08 => yAg w e false .agreeT
  | 0x09 => zeroOr (fX w == 0 && w.toNat / 2 ^ 6 % 32 == 0) <|
      xreg (w.toNat % 64) fun d => fin (w.toNat / 2 ^ 11 % 4) fun m =>
      fin (w.toNat / 2 ^ 13 % 64) fun sel => .ok (.agst d m sel)
  | 0x0A => zeroOr (fX w == 0 && yIdx w == 0 && yArg w == 0 && yRS w == 0) (.ok .yield)
  | _ => .error .illop

def decY (w e : Syl) : Dec := decYop (fOp w) w e

/-! ### P slot (spec/02 R56, spec/04 R99) -/

def frndOf (n : Nat) (f : Frnd → Dec) : Dec :=
  match n with
  | 0 => f .rne | 1 => f .rtz | 2 => f .rup | 3 => f .rdn | 4 => f .rna | 5 => f .sto
  | _ => .error .illop
def satOf (n : Nat) (f : Sat → Dec) : Dec :=
  match n with
  | 0 => f .satf | 1 => f .wrap | 2 => f .ovfi | _ => .error .illop
def qrndOf (n : Nat) (f : Qrnd → Dec) : Dec :=
  match n with
  | 0 => f .qn | 1 => f .qd | 2 => f .qu | 3 => f .qz | 4 => f .qm | _ => .error .illop

def decP (w : Syl) : Dec :=
  zeroOr (fX w == 0 && w.toNat % 2 ^ 11 == 0) <|
    if fOp w = 0 then
      frndOf (w.toNat / 2 ^ 20 % 8) fun r => satOf (w.toNat / 2 ^ 18 % 4) fun s =>
      qrndOf (w.toNat / 2 ^ 15 % 8) fun q => fin (w.toNat / 2 ^ 11 % 16) fun n => .ok (.pfx r s q n)
    else .error .illop

/-! ### V slots (spec/04 R97, R98, R126, spec/08) -/

/-- The constructor of a V opcode: spec/04 R126. -/
def vCtor (op : Nat) : Option (VArgs → Instr) :=
  match op with
  | 0x01 => some .vadd | 0x02 => some .vsub | 0x03 => some .vmul | 0x04 => some .vfma
  | 0x05 => some .vfms | 0x06 => some .vmin | 0x07 => some .vmax | 0x08 => some .vabs
  | 0x09 => some .vneg | 0x0A => some .vmov
  | 0x10 => some .vand | 0x11 => some .vor | 0x12 => some .vxor | 0x13 => some .vnot
  | 0x14 => some .vshl | 0x15 => some .vshr | 0x16 => some .vsar
  | 0x18 => some .vceq | 0x19 => some .vclt | 0x1A => some .vcle | 0x1B => some .vsel
  | 0x20 => some .vcvt | 0x21 => some .vmx | 0x22 => some .vunmx
  | 0x28 => some .vrcp | 0x29 => some .vrsq | 0x2A => some .vsqrt | 0x2B => some .vexp2
  | 0x2C => some .vlog2 | 0x2D => some .vtanh | 0x2E => some .vsigm
  | 0x30 => some .vrsum | 0x31 => some .vrmax | 0x32 => some .vrmin | 0x33 => some .vargmax
  | 0x34 => some .vtopk
  | 0x38 => some .vperm | 0x39 => some .vrot | 0x3A => some .vbcast | 0x3B => some .vext
  | 0x3C => some .vins
  | 0x40 => some .vany | 0x41 => some .vall
  | _ => none

def vKA (w : Syl) : Nat := w.toNat % 2
def vA (w : Syl) : Nat := w.toNat / 2 % 512
def vD (w : Syl) : Nat := w.toNat / 2 ^ 10 % 512
def eMK (e : Syl) : Nat := e.toNat % 32
def eBS (e : Syl) : Nat := e.toNat / 2 ^ 5 % 2
def eView (e : Syl) : Nat := e.toNat / 2 ^ 6 % 4
def eType (e : Syl) : Nat := e.toNat / 2 ^ 8 % 16
def eC (e : Syl) : Nat := e.toNat / 2 ^ 12 % 512
def eB (e : Syl) : Nat := e.toNat / 2 ^ 21 % 512

/-- ILLB of the V syllables whatever the opcode: spec/04 R100. -/
def vGenericBad (w e : Syl) : Bool :=
  fX w == 0 || e.toNat / 2 ^ 30 != 0 || (vKA w == 1 && vA w != 0) || decide (17 ≤ eMK e) ||
  (eBS e == 1 && decide (64 ≤ eB e))

/-- Operand B before its use is known. -/
def vB (e : Syl) : Option VB :=
  if eBS e = 1 then (Src.ofCode (eB e)).map .scal
  else some (.idx ⟨eB e, Nat.mod_lt _ (by decide)⟩)

def vArgs (w e : Syl) (ty : VTy) (b : VB) : VArgs where
  ty := ty
  mask := ⟨eMK e % 17, Nat.mod_lt _ (by decide)⟩
  d := ⟨vD w, Nat.mod_lt _ (by decide)⟩
  a := if vKA w = 1 then .ko else .row ⟨vA w, Nat.mod_lt _ (by decide)⟩
  b := b
  c := ⟨eC e, Nat.mod_lt _ (by decide)⟩

/-- ILLB that the unused fields raise, looked for even when the type or an operand code is also illegal: the raw
B field stands in for a code that names no operand. -/
def decV (w e : Syl) : Dec :=
  if vGenericBad w e then .error .illb
  else match vCtor (fOp w) with
    | none => .error .illop
    | some mk =>
      let b := (vB e).getD (.scal .sq)
      let ty := (VTy.ofCode (eType e) (eView e)).getD .s64
      let i := mk (vArgs w e ty b)
      match i.vform with
      | none => .error .illop
      | some (_, f, v) =>
        if f.bad v then .error .illb
        else if (vB e).isNone || (VTy.ofCode (eType e) (eView e)).isNone || f.wrong v then .error .illop
        else .ok i

/-! ### M slot (spec/09 R226) -/

def mER (w : Syl) : Nat := w.toNat / 2 ^ 9 % 16
def mW (w : Syl) : Nat := w.toNat / 2 ^ 8 % 2
def mLow (w : Syl) : Nat := w.toNat % 2 ^ 8

/-- A start with or without an operand pair: spec/09 R226. -/
def mGo (w : Syl) (f : Option (Fin 14 × Src) → Instr) : Dec :=
  zeroOr (fX w == 0) <|
    if mW w = 1 then fin (mER w) fun er => src (fD w) fun a => .ok (f (some (er, a)))
    else zeroOr (fD w == 0 && mER w == 0) (.ok (f none))

def decMop (op : Nat) (w e : Syl) : Dec :=
  match op with
  | 0x01 => zeroOr (fX w == 0 && mW w == 0) <| fin (mER w) fun er => src (fD w) fun a => .ok (.mset er a)
  | 0x02 => zeroOr (fX w == 1 && mW w == 0 && fD w == 0) <| fin (mER w) fun er => .ok (.mseti er e)
  | 0x03 => zeroOr (fX w == 0) <| fin (mER w) fun er => xreg (fD w) fun d => .ok (.mget d er (mW w == 1))
  | 0x04 => zeroOr (fX w == 0 && mW w == 0 && fD w == 0 && mER w == 0) (.ok .mclr)
  | 0x05 => zeroOr (fX w == 0 && mW w == 0 && mER w == 0) <| src (fD w) fun a => .ok (.mlatch a)
  | 0x08 => mGo w .mgoBf16
  | 0x09 => mGo w .mgoF16
  | 0x0A => mGo w .mgoW8
  | 0x0B => mGo w .mgoS8
  | 0x0C => mGo w .mgoW4
  | 0x0D => mGo w .mgoS4
  | 0x10 => mGo w .mjoinBf16
  | 0x11 => mGo w .mjoinF16
  | 0x12 => mGo w .mjoinW8
  | 0x13 => mGo w .mjoinS8
  | 0x14 => mGo w .mjoinW4
  | 0x15 => mGo w .mjoinS4
  | 0x18 => zeroOr (fX w == 0 && mW w == 0 && fD w == 0 && mER w == 0) (.ok .mgol)
  | _ => .error .illop

/-- The assigned M opcodes: spec/04 R127. -/
def mOps : List Nat :=
  [0x01, 0x02, 0x03, 0x04, 0x05, 0x08, 0x09, 0x0A, 0x0B, 0x0C, 0x0D, 0x10, 0x11, 0x12, 0x13, 0x14, 0x15, 0x18]

/-- ER 14 and 15 are reserved, and bits 7:0 of an instruction must be zero: ILLB (spec/04 R96, R100). An unassigned opcode names no
instruction that could declare bits so: ILLOP (spec/00 R8, spec/04 R122). -/
def decM (w e : Syl) : Dec := zeroOr (mER w < 14 && (mLow w == 0 || !mOps.contains (fOp w))) (decMop (fOp w) w e)

/-! ### C slots (spec/10 R250) -/

def cER (w : Syl) : Nat := w.toNat / 2 ^ 3 % 16
def cW (w : Syl) : Nat := w.toNat / 2 ^ 2 % 2

def cGo (w : Syl) (f : XReg → Option (Fin 9 × Src) → Instr) : Dec :=
  zeroOr (fX w == 0) <|
    if cW w = 1 then fin (cER w) fun er => xreg (fD w) fun t => src (fA w) fun a => .ok (f t (some (er, a)))
    else zeroOr (fA w == 0 && cER w == 0) <| xreg (fD w) fun t => .ok (f t none)

/-- Starts and `cdis` with a token and no pair. -/
def cTok (w : Syl) (f : XReg → Src → Instr) : Dec :=
  zeroOr (fX w == 0 && cW w == 0 && cER w == 0) <|
    xreg (fD w) fun t => src (fA w) fun a => .ok (f t a)

def decCop (op : Nat) (w e : Syl) : Dec :=
  match op with
  | 0x01 => zeroOr (fX w == 0 && cW w == 0 && fD w == 0) <|
      fin (cER w) fun er => src (fA w) fun a => .ok (.cset er a)
  | 0x02 => zeroOr (fX w == 1 && cW w == 0 && fD w == 0 && fA w == 0) <|
      fin (cER w) fun er => .ok (.cseti er e)
  | 0x03 => zeroOr (fX w == 0 && fD w == 0) <|
      fin (cER w) fun er => xreg (fA w) fun d => .ok (.cget d er (cW w == 1))
  | 0x04 => zeroOr (fX w == 0 && cW w == 0 && fA w == 0 && cER w == 0) <|
      xreg (fD w) fun t => .ok (.cdis t)
  | 0x05 => zeroOr (fX w == 1 && cW w == 0 && fD w == 0 && cER w == 0 && e.toNat / 2 ^ 5 % 8 == 0 &&
        e.toNat / 2 ^ 9 % 128 == 0) <|
      src (fA w) fun t => fin (e.toNat % 32) fun f =>
      .ok (.cpost t f (BitVec.ofNat 16 (extHigh e)) (e.toNat / 2 ^ 8 % 2 == 1))
  | 0x08 => cGo w .cgo
  | 0x09 => cGo w .cgath
  | 0x0A => cGo w .cscat
  | 0x0B => cTok w .cfill
  | 0x0C => cGo w .cbcast
  | 0x0D => cGo w .cdx
  | 0x0E => cGo w .cpfd
  | 0x10 => zeroOr (fX w == 1 && cW w == 0 && fA w == 0 && cER w == 0 && e.toNat / 2 ^ 5 % 2048 == 0) <|
      xreg (fD w) fun t => fin (e.toNat % 32) fun f => .ok (.carm t f (BitVec.ofNat 16 (extHigh e)))
  | 0x11 => cGo w .cmred
  | 0x12 => cGo w .ckvc
  | 0x13 => cGo w .cnet
  | 0x14 => cTok w .bgo
  | _ => .error .illop

/-- The assigned C opcodes: spec/04 R127. -/
def cOps : List Nat :=
  [0x01, 0x02, 0x03, 0x04, 0x05, 0x08, 0x09, 0x0A, 0x0B, 0x0C, 0x0D, 0x0E, 0x10, 0x11, 0x12, 0x13, 0x14]

/-- ER 9 to 15 are reserved, and bits 1:0 of an instruction must be zero: ILLB (spec/04 R96, R100). An unassigned opcode names no
instruction that could declare bits so: ILLOP (spec/00 R8, spec/04 R122). -/
def decC (w e : Syl) : Dec := zeroOr (cER w < 9 && (w.toNat % 4 == 0 || !cOps.contains (fOp w))) (decCop (fOp w) w e)

/-- The decoder of a slot. -/
def decSlot (sl : Slot) (w e : Syl) : Dec :=
  match sl with
  | .p => decP w
  | .y => decY w e
  | .s => decS w e
  | .l => decL w e
  | .v0 | .v1 => decV w e
  | .m => decM w e
  | .c0 | .c1 => decC w e

/-! ### Bundles (spec/04 R93, R94, R100 to R102) -/

def slots : List Slot := [.p, .y, .s, .l, .v0, .v1, .m, .c0, .c1]

/-- Bit of a slot in the template, bit 8 P to bit 0 C1: spec/04 R94. -/
def Slot.tbit : Slot → Nat
  | .p => 8 | .y => 7 | .s => 6 | .l => 5 | .v0 => 4 | .v1 => 3 | .m => 2 | .c0 => 1 | .c1 => 0

/-- SLOT field of a trap record: spec/20 R387. -/
def Slot.num : Slot → Nat
  | .p => 1 | .y => 2 | .s => 3 | .l => 4 | .v0 => 5 | .v1 => 6 | .m => 7 | .c0 => 8 | .c1 => 9

def hdrOf (w : Syl) : Hdr where
  e := w.getLsbD 31
  t := w.extractLsb' 22 9
  rc := w.extractLsb' 18 4
  d := w.getLsbD 17
  k := w.getLsbD 16
  q := w.getLsbD 15
  a := w.getLsbD 14
  w := w.getLsbD 13
  z := w.getLsbD 12
  j := w.getLsbD 11
  tb := ⟨w.toNat / 2 ^ 8 % 8, Nat.mod_lt _ (by decide)⟩
  pn := w.getLsbD 7
  pg := ⟨w.toNat / 2 ^ 3 % 16, Nat.mod_lt _ (by decide)⟩

/-- Slots of a template, in order. -/
def Hdr.slots (h : Hdr) : List Slot :=
  if h.e then [] else Sys2Proof.slots.filter fun sl => h.t.getLsbD sl.tbit

/-- ILLB of the header alone: spec/04 R100. -/
def hdrBad (w : Syl) : Bool :=
  let h := hdrOf w
  w.toNat % 8 != 0 || (h.e && h.t != 0) || (!h.e && h.t == 0) || (h.q && !h.k) || (h.a && !h.q) ||
  (h.k && h.rc != 0) || (!h.j && (h.tb.val != 0 || h.pn || h.pg.val != 0))

/-- The syllables of the slots `ss`, paired with their main and extension words; none while a word is missing. -/
def split : List Slot → List Syl → Option (List (Slot × Syl × Option Syl))
  | [], _ => some []
  | sl :: ss, w :: ws =>
    if fX w = 1 && sl != .p then
      match ws with
      | e :: ws' => (split ss ws').map ((sl, w, some e) :: ·)
      | [] => none
    else (split ss ws).map ((sl, w, none) :: ·)
  | _ :: _, [] => none

/-- How many syllables the bundle is known to need, from those fetched so far (spec/04 R119). -/
def needed (ss : List Slot) (ws : List Syl) : Nat :=
  match ss, ws with
  | [], _ => 0
  | sl :: ss', w :: ws' => if fX w = 1 && sl != .p then 2 + needed ss' (ws'.drop 1) else 1 + needed ss' ws'
  | _ :: _, [] => 1

/-- One slot's decode, with the stop-bit rule of spec/04 R100. -/
def decOne (last : Bool) (p : Slot × Syl × Option Syl) : Except (DErr × Nat) SlotOp :=
  if p.2.1.getLsbD 31 != last then .error (.illb, p.1.num)
  else match decSlot p.1 p.2.1 (p.2.2.getD 0) with
    | .ok i => .ok { slot := p.1, guard := ⟨fPG p.2.1 % 16, Nat.mod_lt _ (by decide)⟩, op := i }
    | .error e => .error (e, p.1.num)

/-- The guard of a P syllable is none (spec/04 R99): its slot is never guarded off. -/
def fixGuard (o : SlotOp) : SlotOp := if o.slot == .p then { o with guard := 0 } else o

def decAll : List (Slot × Syl × Option Syl) → List (Except (DErr × Nat) SlotOp)
  | [] => []
  | p :: ps => (decOne ps.isEmpty p).map fixGuard :: decAll ps

def okOps : List (Except (DErr × Nat) SlotOp) → List SlotOp
  | [] => []
  | .ok o :: r => o :: okOps r
  | .error _ :: r => okOps r

def firstErr (k : DErr) : List (Except (DErr × Nat) SlotOp) → Option Nat
  | [] => none
  | .error (e, n) :: r => if e = k then some n else firstErr k r
  | .ok _ :: r => firstErr k r

/-- The once-only and agreement instructions, which need K = 1 on a core: spec/07 R177, spec/11 R283, R298. -/
def Instr.onceOnly : Instr → Bool
  | .amoadd .. | .amoswp .. | .amocas .. | .amomin .. | .amomax .. | .amoand .. | .amoor ..
  | .qpop .. | .qtry .. | .tspawn .. | .tend | .barr .. | .yield
  | .agree .. | .agreep .. | .agreeT .. | .sframe .. | .strunc .. | .sgen .. => true
  | _ => false

def Instr.isAgree : Instr → Bool
  | .agree .. | .agreep .. | .agreeT .. => true
  | _ => false

/-- `sysc`, `brk` and `rfe`, whose bundle holds no slot but S and P: spec/07 R197, R198. -/
def Instr.lone : Instr → Bool
  | .sysc .. | .brk .. | .rfe => true
  | _ => false

/-- Operations that run only on Saffron: spec/04 R124. -/
def Instr.saffronOnly : Instr → Bool
  | .smpl .. | .sacc .. | .srng .. => true
  | _ => false

/-- Operations that Saffron does not run: spec/04 R128. -/
def Instr.notSaffron : Instr → Bool
  | .agree .. | .agreep .. | .agreeT .. | .agst .. | .yield | .tspawn .. | .tend | .barr .. | .waity .. | .qpop .. =>
    true
  | _ => false

/-- The opcodes marked privileged: spec/04 R123. -/
def Instr.privileged : Instr → Bool
  | .rdcr .. | .wrcr .. | .rfe | .halt => true
  | _ => false

/-- A bundle that may give up the core: spec/07 R190. -/
def releases (h : Hdr) : Instr → Bool
  | .barr .. | .waity .. | .yield => true
  | .qpop .. => h.q
  | _ => false

/-- ILLOP of an operation for the bundle it stands in, on a core: spec/07 R177, R190, R197, spec/06 R170. -/
def bundleWrong (h : Hdr) (o : SlotOp) : Bool :=
  (o.op.onceOnly && !h.k) ||
  (o.op.lone && (!h.k || h.j || h.slots.any fun sl => sl != .s && sl != .p)) ||
  (o.op == .halt && !h.k) ||
  (releases h o.op && (!h.q || h.slots.any fun sl =>
    sl == .s || sl == .v0 || sl == .v1 || sl == .m || sl == .c0 || sl == .c1)) ||
  o.op.saffronOnly

def saffronWrong (h : Hdr) (o : SlotOp) : Bool :=
  o.op.notSaffron || ((o.op.lone || o.op == .halt) && !h.k)

def saffronBad (h : Hdr) : Bool :=
  h.k || h.q || h.a || h.z || h.t.toNat % 32 != 0

/-- The operations of a bundle's slots that decode by themselves, for the checks that rank with ILLOP. -/
def soloOps (ws : List Syl) : List SlotOp :=
  match ws with
  | [] => []
  | hw :: rest => match split (hdrOf hw).slots rest with
    | some ps => okOps (decAll ps)
    | none => []

/-- A bundle from its syllables: the bundle, or the decode trap and the slot it names (0 the header), ILLB before
ILLOP and the first offender in template order (spec/04 R102). -/
def decodeBundle (saffron : Bool) (ws : List Syl) : Except (DErr × Nat) Bundle :=
  match ws with
  | [] => .error (.illb, 0)
  | hw :: rest =>
    let h := hdrOf hw
    if hdrBad hw || (saffron && saffronBad h) then .error (.illb, 0)
    else match split h.slots rest with
      | none => .error (.illb, 0)
      | some ps =>
        let rs := decAll ps
        let ops := okOps rs
        match firstErr .illb rs with
        | some n => .error (.illb, n)
        | none =>
          let wrong := if saffron then saffronWrong h else bundleWrong h
          match firstErr .illop (rs.map fun r => match r with
              | .ok o => if wrong o then .error (.illop, o.slot.num) else .ok o
              | .error x => .error x) with
          | some n => .error (.illop, n)
          | none => .ok { hdr := h, ops := ops, len := 4 * ws.length }

/-! ### The encoder, from the same tables -/

def Opnd.bits : Opnd → Nat × Nat × Nat
  | .reg r => (r.code, 0, 0)
  | .short v => (v.toNat, 1, 0)
  | .long _ => (0, 1, 1)
def Opnd.ext : Opnd → Option Syl
  | .long v => some v
  | _ => none
def Imm.opnd : Imm → Opnd
  | .short v => .short v
  | .long v => .long v

/-- A main syllable of the S and L shape, without stop and guard. -/
def mkS (op d a b bi x : Nat) : Nat := x * 2 ^ 30 + op * 2 ^ 23 + d * 2 ^ 13 + a * 2 ^ 7 + b * 2 + bi

abbrev Enc := Option (Nat × Option Syl)

def eDab (op d a : Nat) (b : Opnd) : Enc := some (mkS op d a b.bits.1 b.bits.2.1 b.bits.2.2, b.ext)
def eDa (op d a : Nat) : Enc := some (mkS op d a 0 0 0, none)
def eSel (op d a b : Nat) : Enc := some (mkS op d a b 1 0, none)
def ePred (op : Nat) (d a : Fin 16) (na : Bool) (b : Fin 16) (nb : Bool) : Enc :=
  some (mkS op d.val (a.val + 16 * na.toNat) (b.val + 16 * nb.toNat) 0 0, none)
def Pair.opt : Option Pair → Nat
  | none => 0
  | some p => p.even

def encS : Instr → Enc
  | .add d a b => eDab 0x01 d.val a.code b
  | .sub d a b => eDab 0x02 d.val a.code b
  | .mul d a b => eDab 0x03 d.val a.code b
  | .mulh d a b => eDab 0x04 d.val a.code b
  | .mulhn d a b => eDab 0x05 d.val a.code b
  | .and d a b => eDab 0x06 d.val a.code b
  | .or d a b => eDab 0x07 d.val a.code b
  | .xor d a b => eDab 0x08 d.val a.code b
  | .andn d a b => eDab 0x09 d.val a.code b
  | .shl d a b => eDab 0x0A d.val a.code b
  | .shr d a b => eDab 0x0B d.val a.code b
  | .sar d a b => eDab 0x0C d.val a.code b
  | .rotl d a b => eDab 0x0D d.val a.code b
  | .min d a b => eDab 0x0E d.val a.code b
  | .max d a b => eDab 0x0F d.val a.code b
  | .minn d a b => eDab 0x10 d.val a.code b
  | .maxn d a b => eDab 0x11 d.val a.code b
  | .sext d a b => eDab 0x12 d.val a.code b
  | .zext d a b => eDab 0x13 d.val a.code b
  | .clz d a => eDa 0x14 d.val a.code
  | .ctz d a => eDa 0x15 d.val a.code
  | .popc d a => eDa 0x16 d.val a.code
  | .bfx d a b => eDab 0x17 d.val a.code b
  | .bfi d a b => eDab 0x18 d.val a.code b
  | .li d b => eDab 0x19 d.val 0 b.opnd
  | .lih d a b => eDab 0x1A d.val a.code b.opnd
  | .cmpeq p a b => eDab 0x20 p.even a.code b
  | .cmpne p a b => eDab 0x21 p.even a.code b
  | .cmplt p a b => eDab 0x22 p.even a.code b
  | .cmple p a b => eDab 0x23 p.even a.code b
  | .cmpltn p a b => eDab 0x24 p.even a.code b
  | .cmplen p a b => eDab 0x25 p.even a.code b
  | .cmptst p a b => eDab 0x26 p.even a.code b
  | .pand d a na b nb => ePred 0x28 d a na b nb
  | .por d a na b nb => ePred 0x29 d a na b nb
  | .pxor d a na b nb => ePred 0x2A d a na b nb
  | .fadd d a b => eDab 0x30 d.val a.code b
  | .fsub d a b => eDab 0x31 d.val a.code b
  | .fmul d a b => eDab 0x32 d.val a.code b
  | .fma d a b => eDab 0x33 d.val a.code b
  | .fdiv d a b => eDab 0x34 d.val a.code b
  | .fsqrt d a => eDa 0x35 d.val a.code
  | .fmin d a b => eDab 0x36 d.val a.code b
  | .fmax d a b => eDab 0x37 d.val a.code b
  | .fcmpeq p a b => eDab 0x38 p.even a.code b
  | .fcmplt p a b => eDab 0x39 p.even a.code b
  | .fcmple p a b => eDab 0x3A p.even a.code b
  | .fcvtfi d a t => eSel 0x3B d.val a.code t.val
  | .fcvtif d a t => eSel 0x3C d.val a.code t.val
  | .qmk d a b => eDab 0x40 d.val a.code b
  | .qnum d a => eDa 0x41 d.val a.code
  | .qden d a => eDa 0x42 d.val a.code
  | .qflr d a => eDa 0x43 d.val a.code
  | .qceil d a => eDa 0x44 d.val a.code
  | .qfromf d a => eDa 0x45 d.val a.code
  | .qtof d a => eDa 0x46 d.val a.code
  | .lcset n b => eDab 0x48 n.val 0 b
  | .lcget d n => eDa 0x49 d.val n.val
  | .lcnext p r dn => some (mkS 0x4A (Pair.opt p) r.val dn.val 0 0, none)
  | .rdid d sel => eSel 0x4C d.val 0 sel.val
  | .rdfst d => eDa 0x4D d.val 0
  | .wrfst a => eDa 0x4E 0 a.code
  | .sgset n a => eDa 0x4F n.val a.code
  | .vstp k a => eDa 0x50 k.val a.code
  | .fmset n a => eDa 0x51 n.val a.code
  | .fmget d n => eDa 0x52 d.val n.val
  | .bprep t b => eDab 0x58 t.val 0 b.opnd
  | .bprepL t b => eDab 0x59 t.val 0 b.opnd
  | .bprepi t a => eDa 0x5A t.val a.code
  | .bprepiL t a => eDa 0x5B t.val a.code
  | .sysc b => eDab 0x5C 0 0 b.opnd
  | .brk b => eDab 0x5D 0 0 b.opnd
  | .rdcr d n => eDab 0x70 d.val 0 n.opnd
  | .wrcr n a => eDab 0x71 0 a.code n.opnd
  | .rfe => eDa 0x72 0 0
  | .halt => eDa 0x73 0 0
  | _ => none

def eDci (op d a b : Nat) : Enc := some (mkS op d a b 0 0, none)

def encL : Instr → Enc
  | .ldN8 d a b => eDab 0x01 d.val a.code b
  | .ldN16 d a b => eDab 0x02 d.val a.code b
  | .ldN32 d a b => eDab 0x03 d.val a.code b
  | .ldN64 d a b => eDab 0x04 d.val a.code b
  | .stN8 v a b => eDab 0x05 v.code a.code b
  | .stN16 v a b => eDab 0x06 v.code a.code b
  | .stN32 v a b => eDab 0x07 v.code a.code b
  | .stN64 v a b => eDab 0x08 v.code a.code b
  | .ldsN8 d a b => eDab 0x09 d.val a.code b
  | .ldsN16 d a b => eDab 0x0A d.val a.code b
  | .ldsN32 d a b => eDab 0x0B d.val a.code b
  | .ldsN64 d a b => eDab 0x0C d.val a.code b
  | .stsN8 v a b => eDab 0x0D v.code a.code b
  | .stsN16 v a b => eDab 0x0E v.code a.code b
  | .stsN32 v a b => eDab 0x0F v.code a.code b
  | .stsN64 v a b => eDab 0x10 v.code a.code b
  | .amoadd d a b => eDab 0x18 d.val a.code b
  | .amoswp d a b => eDab 0x19 d.val a.code b
  | .amocas d a b => eDab 0x1A d.val a.code b
  | .amomin d a b => eDab 0x1B d.val a.code b
  | .amomax d a b => eDab 0x1C d.val a.code b
  | .amoand d a b => eDab 0x1D d.val a.code b
  | .amoor d a b => eDab 0x1E d.val a.code b
  | .fenceCore => eDa 0x20 0 0
  | .fenceDie => eDa 0x21 0 0
  | .fenceDev => eDa 0x22 0 0
  | .fenceFab => eDa 0x23 0 0
  | .ifence => eDa 0x24 0 0
  | .qpush q v => eDab 0x28 0 q.code v
  | .qpop d q => eDa 0x29 d.val q.code
  | .qtry d p q => eDci 0x2A d.val q.code p.even
  | .tspawn d b q => eDci 0x2C d.val b.code q.code
  | .tend => eDa 0x2D 0 0
  | .sframe d p c => eDci 0x30 d.val c.code (Pair.opt p)
  | .strunc d c i => eDci 0x31 d.val c.code i.code
  | .sadv d c n => eDci 0x32 d.val c.code n.code
  | .scur d c sel => eSel 0x33 d.val c.code sel.val
  | .sgen p c v => eDci 0x34 p.even c.code v.code
  | .smpl d b => eDa 0x38 d.val b.code
  | .sacc d b => eDa 0x39 d.val b.code
  | .srng d => eDa 0x3A d.val 0
  | _ => none

def mkY (op x idx rs arg : Nat) : Nat := x * 2 ^ 30 + op * 2 ^ 23 + idx * 2 ^ 11 + rs * 2 ^ 10 + arg

def eThr (op f : Nat) : Thr → Enc
  | .short n => some (mkY op 0 f 0 n.toNat, none)
  | .long n => some (mkY op 1 f 0 0, some (n.setWidth 32))
  | .reg s => some (mkY op 0 f 1 s.code, none)

def Cmb.code : Cmb → Nat
  | .all => 0 | .any => 1 | .sum => 2 | .min => 3 | .max => 4

def eAg (op : Nat) (a : AgArgs) (hint : Bool) : Enc :=
  some (2 ^ 30 + op * 2 ^ 23 + a.cmb.code * 2 ^ 16 + Pair.opt a.pr / 2 * 2 ^ 13 + a.mb.val * 2 ^ 11 +
    hint.toNat * 2 ^ 8 + a.tc.val * 2 ^ 6 + a.v.code, some a.site)

def encY : Instr → Enc
  | .wait f n => eThr 0x01 f.val n
  | .waity f n => eThr 0x02 f.val n
  | .post f (.short n) set => some (mkY 0x03 0 f.val set.toNat n.toNat, none)
  | .post f (.long n) set => some (mkY 0x03 1 f.val set.toNat 0, some (n.setWidth 32))
  | .postr f t none set => some (mkY 0x04 0 f.val set.toNat t.code, none)
  | .postr f t (some n) set => some (mkY 0x04 1 f.val set.toNat t.code, some (n.setWidth 32))
  | .barr n => some (mkY 0x05 0 n.val 0 0, none)
  | .agree a => eAg 0x06 a false
  | .agreep a h => eAg 0x07 a h
  | .agreeT a => eAg 0x08 a false
  | .agst d m sel => some (mkY 0x09 0 (4 * sel.val + m.val) 0 d.val, none)
  | .yield => some (mkY 0x0A 0 0 0 0, none)
  | _ => none

def Frnd.code : Frnd → Nat
  | .rne => 0 | .rtz => 1 | .rup => 2 | .rdn => 3 | .rna => 4 | .sto => 5
def Sat.code : Sat → Nat
  | .satf => 0 | .wrap => 1 | .ovfi => 2
def Qrnd.code : Qrnd → Nat
  | .qn => 0 | .qd => 1 | .qu => 2 | .qz => 3 | .qm => 4

def encP : Instr → Enc
  | .pfx r s q n => some (r.code * 2 ^ 20 + s.code * 2 ^ 18 + q.code * 2 ^ 15 + n.val * 2 ^ 11, none)
  | _ => none

def VA.bits : VA → Nat × Nat
  | .row n => (n.val, 0)
  | .ko => (0, 1)
def VB.bs : VB → Nat
  | .idx _ => 0
  | .scal _ => 1

def encV (i : Instr) : Enc :=
  match i.vform with
  | none => none
  | some (op, _, v) =>
    some (2 ^ 30 + op * 2 ^ 23 + v.d.val * 2 ^ 10 + v.a.bits.1 * 2 + v.a.bits.2,
      some (BitVec.ofNat 32 (v.b.val * 2 ^ 21 + v.c.val * 2 ^ 12 + v.ty.code.1 * 2 ^ 8 + v.ty.code.2 * 2 ^ 6 +
        v.b.bs * 2 ^ 5 + v.mask.val)))

def mkM (op x a er w : Nat) : Nat := x * 2 ^ 30 + op * 2 ^ 23 + a * 2 ^ 13 + er * 2 ^ 9 + w * 2 ^ 8
def eMgo (op : Nat) : Option (Fin 14 × Src) → Enc
  | none => some (mkM op 0 0 0 0, none)
  | some (er, a) => some (mkM op 0 a.code er.val 1, none)

def encM : Instr → Enc
  | .mset er a => some (mkM 0x01 0 a.code er.val 0, none)
  | .mseti er v => some (mkM 0x02 1 0 er.val 0, some v)
  | .mget d er act => some (mkM 0x03 0 d.val er.val act.toNat, none)
  | .mclr => some (mkM 0x04 0 0 0 0, none)
  | .mlatch a => some (mkM 0x05 0 a.code 0 0, none)
  | .mgoBf16 w => eMgo 0x08 w
  | .mgoF16 w => eMgo 0x09 w
  | .mgoW8 w => eMgo 0x0A w
  | .mgoS8 w => eMgo 0x0B w
  | .mgoW4 w => eMgo 0x0C w
  | .mgoS4 w => eMgo 0x0D w
  | .mjoinBf16 w => eMgo 0x10 w
  | .mjoinF16 w => eMgo 0x11 w
  | .mjoinW8 w => eMgo 0x12 w
  | .mjoinS8 w => eMgo 0x13 w
  | .mjoinW4 w => eMgo 0x14 w
  | .mjoinS4 w => eMgo 0x15 w
  | .mgol => some (mkM 0x18 0 0 0 0, none)
  | _ => none

def mkC (op x t a er w : Nat) : Nat := x * 2 ^ 30 + op * 2 ^ 23 + t * 2 ^ 13 + a * 2 ^ 7 + er * 2 ^ 3 + w * 2 ^ 2
def eCgo (op : Nat) (t : XReg) : Option (Fin 9 × Src) → Enc
  | none => some (mkC op 0 t.val 0 0 0, none)
  | some (er, a) => some (mkC op 0 t.val a.code er.val 1, none)

def encC : Instr → Enc
  | .cset er a => some (mkC 0x01 0 0 a.code er.val 0, none)
  | .cseti er v => some (mkC 0x02 1 0 0 er.val 0, some v)
  | .cget d er act => some (mkC 0x03 0 0 d.val er.val act.toNat, none)
  | .cdis t => some (mkC 0x04 0 t.val 0 0 0, none)
  | .cpost t f n set => some (mkC 0x05 1 0 t.code 0 0,
      some (BitVec.ofNat 32 (n.toNat * 2 ^ 16 + set.toNat * 2 ^ 8 + f.val)))
  | .cgo t w => eCgo 0x08 t w
  | .cgath t w => eCgo 0x09 t w
  | .cscat t w => eCgo 0x0A t w
  | .cfill t a => some (mkC 0x0B 0 t.val a.code 0 0, none)
  | .cbcast t w => eCgo 0x0C t w
  | .cdx t w => eCgo 0x0D t w
  | .cpfd t w => eCgo 0x0E t w
  | .carm t f n => some (mkC 0x10 1 t.val 0 0 0, some (BitVec.ofNat 32 (n.toNat * 2 ^ 16 + f.val)))
  | .cmred t w => eCgo 0x11 t w
  | .ckvc t w => eCgo 0x12 t w
  | .cnet t w => eCgo 0x13 t w
  | .bgo t a => some (mkC 0x14 0 t.val a.code 0 0, none)
  | _ => none

/-- The class encoder of a slot. -/
def encSlot (sl : Slot) (i : Instr) : Enc :=
  match sl with
  | .p => encP i
  | .y => encY i
  | .s => encS i
  | .l => encL i
  | .v0 | .v1 => encV i
  | .m => encM i
  | .c0 | .c1 => encC i

/-- The words of an instruction in a slot: main syllable with stop and guard, and its extension. -/
def encode (sl : Slot) (stop : Bool) (guard : Fin 16) (i : Instr) : Option (List Syl) :=
  (encSlot sl i).map fun p =>
    BitVec.ofNat 32 (p.1 + stop.toNat * 2 ^ 31 + (if sl = .p then 0 else guard.val * 2 ^ 19)) :: p.2.toList

def Hdr.word (h : Hdr) : Syl :=
  BitVec.ofNat 32 (h.e.toNat * 2 ^ 31 + h.t.toNat * 2 ^ 22 + h.rc.toNat * 2 ^ 18 + h.d.toNat * 2 ^ 17 +
    h.k.toNat * 2 ^ 16 + h.q.toNat * 2 ^ 15 + h.a.toNat * 2 ^ 14 + h.w.toNat * 2 ^ 13 + h.z.toNat * 2 ^ 12 +
    h.j.toNat * 2 ^ 11 + h.tb.val * 2 ^ 8 + h.pn.toNat * 2 ^ 7 + h.pg.val * 2 ^ 3)

/-! ### The word of an opcode-table row -/

/-- The slot whose class a bare syllable is read in. A syllable does not hold its class (the header does, spec/04
R94), and the classes share opcodes (R122): the model reads P for opcode 0, else the first of S, L, Y, V, M and C
that decodes it (log 8). -/
def rowSlot (w e : Syl) : Option Slot :=
  [Slot.p, .s, .l, .y, .v0, .m, .c0].find? fun sl =>
    (match decSlot sl w e with
      | .ok _ => true
      | .error _ => false)

def sylAt (w k : Nat) : Syl := BitVec.ofNat 32 (w / 2 ^ (32 * k))

/-- The instruction read from a table row's bits: bits 31:0 the main syllable, bits 63:32 the extension, which
is zero where the table gives the row one syllable. -/
def decodeTableWord (nbits w : Nat) : Option Instr :=
  let w' := w % 2 ^ nbits
  match rowSlot (sylAt w' 0) (sylAt w' 1) with
  | none => none
  | some sl =>
    match decSlot sl (sylAt w' 0) (sylAt w' 1) with
    | .ok i => some i
    | .error _ => none

end Sys2Proof
end

