-- ==== Sys2Proof/WellFormed.lean ====
section
/-!
DEFINITION. Well-formed instructions: the checks that the types of the syntax do not make. A V operation meets the
field and type rules of spec/08 R204 to R225; an event names an agent, a die or a queue that exists (spec/01 R11, R12).
-/
namespace Sys2Proof

/-- Agents of spec/01 R11: cores 0 to 71 and Saffrons 72 to 80 of dies 0 to 7. -/
def agentOk (who : Nat) : Bool := decide (who / 128 < 8) && decide (who % 128 ≤ 80)
def coreOk (who : Nat) : Bool := decide (who / 128 < 8) && decide (who % 128 < 72)
def saffronOk (who : Nat) : Bool := agentOk who && decide (72 ≤ who % 128)

/-- Well-formedness of an instruction or event. -/
def Instr.wf (i : Instr) : Bool :=
  match i.vform with
  | some (_, f, v) => (f.check v).isNone
  | none =>
    match i with
    | .queueMessageAppend q c _ => decide (q < 128) && decide (c < 65536)
    | .flueMove q => decide (q < 128)
    | .targetFillCompletion t => decide (t < 8)
    | .preemptionRequest q => decide (q < 64)
    | .agreementContributionArrival g _ _ => decide (g < 256)
    | .lateLimitExpiry g _ => decide (g < 256)
    | .agreementOutcomeDelivery g _ _ => decide (g < 256)
    | .reportCopyWrite g _ _ _ => decide (g < 256)
    | .groupInvalidate g => decide (g < 256)
    | .heartbeatArrival dv => decide (dv < 4096)
    | .deviceLoss dv => decide (dv < 4096)
    | .frameArrival n _ => decide (n < 16)
    | .tasksetFirstArrival h _ | .tasksetActivation h _ | .condActivation h _
    | .whileActivation h _ | .joinActivation h _ | .endActivation h _ => decide (h < 256)
    | .queueEnable q => decide (q < 64)
    | .damperCharge c b _ => decide (c < 65536) && decide (b < 3)
    | .damperRefill c b => decide (c < 65536) && decide (b < 3)
    | .chimneyLinkDown k => decide (k < 2)
    | .chimneyLinkUp k => decide (k < 2)
    | _ => true

/-- An operation of a bundle's slots, as against an event. -/
def Instr.slotOp : Instr → Bool
  | .exposedResultLanding .. | .loadCompletion .. | .copyCompletion .. | .cnetCompletion ..
  | .landingPostDelivery .. | .cpostDelivery .. | .armedCopyFire .. | .flagPostDelivery ..
  | .queueMessageAppend .. | .flueMove .. | .targetFillCompletion .. | .preemptionRequest ..
  | .agreementContributionArrival .. | .lateLimitExpiry .. | .agreementOutcomeDelivery .. | .reportCopyWrite ..
  | .groupInvalidate .. | .heartbeatArrival .. | .deviceLoss .. | .frameArrival .. | .rxSegmentArrival ..
  | .rxRemoteRead .. | .bellowsMessageArrival .. | .graphLaunch .. | .tasksetFirstArrival ..
  | .tasksetActivation .. | .condActivation .. | .whileActivation .. | .joinActivation .. | .endActivation ..
  | .tlbInvalidate .. | .engineRestart .. | .queueEnable .. | .registerPageWindowWrite .. | .registerWrite ..
  | .hostMemoryAccess .. | .hostCompletionTimeout .. | .clockStep .. | .bringUpStage .. | .softErrorRollback ..
  | .machineCheck .. | .damperCharge .. | .damperRefill .. | .chimneyLinkDown .. | .chimneyLinkUp ..
  | .hostWindowAccess .. | .spdmRequest .. | .weakStoreReachesHome .. | .bundleIssue | .trapEntry
  | .hearthLanding | .mjoinRendezvous | .mjoinWaitLimitExpiry | .fenceCompletion | .taskRetirement
  | .taskDispatch | .forcedRollback | .saveCompletion | .yieldThresholdExpiry | .heartbeatSend | .bellowsSend
  | .bellowsRecv | .bellowsRrs | .bellowsCopy | .bellowsWait | .bellowsPost | .bellowsLoop | .bellowsEndl
  | .bellowsHalt | .saffronRequestTake | .notifyRead | .tlbInvalidateCompletion | .dieFence | .dieOpen
  | .attest | .ckpt | .mailboxInvalidCommand | .hubLinkFailure | .thermalFence | .coolantLoss | .moduleReset
  | .softErrorCorrected | .hubLinkRetrain | .coreRestart => false
  | _ => true

end Sys2Proof
end

