-- ==== Sys2Proof/Machine/Num.lean ====
section
/-!
DEFINITION. Number formats and arithmetic of spec/02: exact values, one rounding function, the floating formats, narrow
formats and MX16, conversions to integers, and the flags each result sets. Everything is exact integer arithmetic.
-/
namespace Sys2Proof.Machine

/-! ### Flags: bits 7:0 of FST (spec/02 R63) -/

abbrev Fl := BitVec 8
def fNV : Fl := 0x01
def fDZ : Fl := 0x02
def fOF : Fl := 0x04
def fUF : Fl := 0x08
def fNX : Fl := 0x10
def fSAT : Fl := 0x20
def fQZD : Fl := 0x40
def fQNX : Fl := 0x80

def flIf (b : Bool) (f : Fl) : Fl := if b then f else 0

/-- The bundle's rounding choices, with the generator output an STO rounding draws (spec/02 R56, R58). -/
structure Rnd where
  mode : Frnd := .rne
  sat  : Sat := .satf
  r    : Nat := 0
deriving DecidableEq, Repr

/-! ### Exact values -/

/-- A datum's value: a NaN (signalling or not), an infinity, or (−1)^s × n × 2^e. -/
inductive FV where
  | nan (sig : Bool)
  | inf (s : Bool)
  | fin (s : Bool) (n : Nat) (e : Int)
deriving DecidableEq, Repr

/-- n × 2^k, floor for negative k. -/
def shl2 (n : Nat) (k : Int) : Nat := if 0 ≤ k then n * 2 ^ k.toNat else n / 2 ^ (-k).toNat

/-- Exponent of n/d × 2^e: the E with 2^E ≤ n/d × 2^e < 2^(E+1), for n, d > 0. -/
def ilog2 (n d : Nat) (e : Int) : Int :=
  let l : Int := (n.log2 : Int) - d.log2
  let ge : Bool := if 0 ≤ l then decide (d * 2 ^ l.toNat ≤ n) else decide (d ≤ n * 2 ^ (-l).toNat)
  (if ge then l else l - 1) + e

/-- Digits of a square root from the highest bit down. -/
def isqrtAux (n : Nat) : Nat → Nat → Nat
  | 0, r => r
  | k + 1, r => isqrtAux n k (if (r + 2 ^ k) * (r + 2 ^ k) ≤ n then r + 2 ^ k else r)

/-- ⌊√n⌋. -/
def isqrt (n : Nat) : Nat := isqrtAux n (n.log2 / 2 + 1) 0

/-- One rounding of the magnitude n/d × 2^e (plus less than one unit of n if `sticky`) to a multiple of 2^q: the
multiple, and whether it is inexact (spec/02 R58). A tie under RNE goes to the even multiple, in a format with no mantissa
bit too (log 81). -/
def roundTo (m : Rnd) (neg : Bool) (n d : Nat) (e : Int) (sticky : Bool) (q : Int) : Nat × Bool :=
  let k := e - q
  let num := if 0 ≤ k then n * 2 ^ k.toNat else n
  let den := if 0 ≤ k then d else d * 2 ^ (-k).toNat
  let t := num / den
  let r := num % den
  let inexact := decide (r ≠ 0) || sticky
  let up : Bool := match m.mode with
    | .rne => decide (den < 2 * r) || (decide (2 * r = den) && (sticky || decide (t % 2 = 1)))
    | .rtz => false
    | .rup => !neg && inexact
    | .rdn => neg && inexact
    | .rna => decide (den ≤ 2 * r)
    | .sto => decide (2 ^ 24 ≤ r * 2 ^ 24 / den + m.r)
  (if up then t + 1 else t, inexact)

/-! ### Formats with infinities: bf16, f16, f32, A80 (spec/02 R37) -/

structure FFmt where
  eb : Nat
  fb : Nat
deriving DecidableEq, Repr

def fmtBf16 : FFmt := ⟨8, 7⟩
def fmtF16 : FFmt := ⟨5, 10⟩
def fmtF32 : FFmt := ⟨8, 23⟩
def fmtA80 : FFmt := ⟨13, 66⟩

def FFmt.bias (f : FFmt) : Nat := 2 ^ (f.eb - 1) - 1
def FFmt.emin (f : FFmt) : Int := 1 - (f.bias : Int)
def FFmt.signBit (f : FFmt) : Nat := 2 ^ (f.eb + f.fb)
/-- The canonical quiet NaN: spec/02 R39. -/
def FFmt.qnan (f : FFmt) : Nat := (2 ^ f.eb - 1) * 2 ^ f.fb + 2 ^ (f.fb - 1)
def FFmt.inf (f : FFmt) (s : Bool) : Nat := (2 ^ f.eb - 1) * 2 ^ f.fb + (if s then f.signBit else 0)
def FFmt.maxFin (f : FFmt) (s : Bool) : Nat := (2 ^ f.eb - 1) * 2 ^ f.fb - 1 + (if s then f.signBit else 0)
def FFmt.zero (f : FFmt) (s : Bool) : Nat := if s then f.signBit else 0

/-- Value of a code: spec/02 R37, R39. -/
def FFmt.val (f : FFmt) (c : Nat) : FV :=
  let s := decide (c / f.signBit % 2 = 1)
  let ex := c / 2 ^ f.fb % 2 ^ f.eb
  let fr := c % 2 ^ f.fb
  if ex = 2 ^ f.eb - 1 then
    if fr = 0 then .inf s else .nan (fr / 2 ^ (f.fb - 1) == 0)
  else if ex = 0 then .fin s fr (f.emin - f.fb)
  else .fin s (2 ^ f.fb + fr) ((ex : Int) - f.bias - f.fb)

/-- Round n/d × 2^e (with `sticky`) once to the format: code and flags (spec/02 R38, R59). -/
def FFmt.round (f : FFmt) (m : Rnd) (s : Bool) (n d : Nat) (e : Int) (sticky : Bool) : Nat × Fl :=
  if n = 0 && !sticky then (f.zero s, 0)
  else
    let ex := ilog2 n d e
    let u := roundTo m s n d e sticky (ex - f.fb)
    let exU := if u.1 = 2 ^ (f.fb + 1) then ex + 1 else ex
    if (f.bias : Int) < exU then
      ((match m.sat with | .satf => f.maxFin s | _ => f.inf s), fOF ||| fNX)
    else
      let k : Nat := (ex - f.emin).toNat
      let q := f.emin - f.fb + k
      let v := roundTo m s n d e sticky q
      (v.1 + k * 2 ^ f.fb + (if s then f.signBit else 0),
        flIf v.2 fNX ||| flIf (v.2 && decide (exU < f.emin) && u.1 != 0) fUF)

def FFmt.roundFV (f : FFmt) (m : Rnd) : FV → Nat × Fl
  | .nan sig => (f.qnan, flIf sig fNV)
  | .inf s => (f.inf s, 0)
  | .fin s n e => f.round m s n 1 e false

/-! ### Exact sums, products and comparisons -/

def FV.neg : FV → FV
  | .nan g => .nan g
  | .inf s => .inf !s
  | .fin s n e => .fin (!s) n e

def sgn (s : Bool) (n : Nat) : Int := if s then -(n : Int) else n

/-- Exact sum of two finite values. `rdn` gives the sign of an exact cancellation (IEEE 754-2019, spec/02 R38). -/
def finAdd (rdn : Bool) (s1 : Bool) (n1 : Nat) (e1 : Int) (s2 : Bool) (n2 : Nat) (e2 : Int) : FV :=
  if n1 = 0 && n2 = 0 then .fin (if s1 == s2 then s1 else rdn) 0 0
  else if n1 = 0 then .fin s2 n2 e2
  else if n2 = 0 then .fin s1 n1 e1
  else
    let e := min e1 e2
    let t := sgn s1 (n1 * 2 ^ (e1 - e).toNat) + sgn s2 (n2 * 2 ^ (e2 - e).toNat)
    if t = 0 then .fin rdn 0 0 else .fin (decide (t < 0)) t.natAbs e

/-- Exact sum and its NV flag. -/
def fvAdd (rdn : Bool) : FV → FV → FV × Fl
  | .nan a, .nan b => (.nan false, flIf (a || b) fNV)
  | .nan a, _ => (.nan false, flIf a fNV)
  | _, .nan b => (.nan false, flIf b fNV)
  | .inf a, .inf b => if a == b then (.inf a, 0) else (.nan false, fNV)
  | .inf a, _ => (.inf a, 0)
  | _, .inf b => (.inf b, 0)
  | .fin s1 n1 e1, .fin s2 n2 e2 => (finAdd rdn s1 n1 e1 s2 n2 e2, 0)

def fvMul : FV → FV → FV × Fl
  | .nan a, .nan b => (.nan false, flIf (a || b) fNV)
  | .nan a, _ => (.nan false, flIf a fNV)
  | _, .nan b => (.nan false, flIf b fNV)
  | .inf a, .inf b => (.inf (a != b), 0)
  | .inf a, .fin s n _ => if n = 0 then (.nan false, fNV) else (.inf (a != s), 0)
  | .fin s n _, .inf b => if n = 0 then (.nan false, fNV) else (.inf (s != b), 0)
  | .fin s1 n1 e1, .fin s2 n2 e2 => (.fin (s1 != s2) (n1 * n2) (e1 + e2), 0)

/-- Round a result already combined, keeping its flags. -/
def FFmt.out (f : FFmt) (m : Rnd) (p : FV × Fl) : Nat × Fl :=
  match p.1 with
  | .nan _ => (f.qnan, p.2)
  | v => let r := f.roundFV m v; (r.1, r.2 ||| p.2)

def Rnd.isRdn (m : Rnd) : Bool := m.mode == .rdn

def FFmt.add (f : FFmt) (m : Rnd) (a b : FV) : Nat × Fl := f.out m (fvAdd m.isRdn a b)
def FFmt.sub (f : FFmt) (m : Rnd) (a b : FV) : Nat × Fl := f.out m (fvAdd m.isRdn a b.neg)
def FFmt.mul (f : FFmt) (m : Rnd) (a b : FV) : Nat × Fl := f.out m (fvMul a b)
/-- a × b + c, one rounding. A 0 × ∞ product sets NV even beside a NaN addend (log 21). -/
def FFmt.fma (f : FFmt) (m : Rnd) (a b c : FV) : Nat × Fl :=
  let p := fvMul a b
  let r := fvAdd m.isRdn p.1 c
  f.out m (r.1, r.2 ||| p.2)

/-- a / b (spec/02 R38; spec/06 R160). -/
def FFmt.div (f : FFmt) (m : Rnd) : FV → FV → Nat × Fl
  | .nan a, .nan b => (f.qnan, flIf (a || b) fNV)
  | .nan a, _ => (f.qnan, flIf a fNV)
  | _, .nan b => (f.qnan, flIf b fNV)
  | .inf _, .inf _ => (f.qnan, fNV)
  | .inf a, .fin s _ _ => (f.inf (a != s), 0)
  | .fin s _ _, .inf b => (f.zero (s != b), 0)
  | .fin s1 n1 e1, .fin s2 n2 e2 =>
    if n2 = 0 then (if n1 = 0 then (f.qnan, fNV) else (f.inf (s1 != s2), fDZ))
    else f.round m (s1 != s2) n1 n2 (e1 - e2) false

/-- √(n × 2^e) as a root of at least `bits` bits, its exponent, and whether it is inexact. -/
def sqrtParts (n : Nat) (e : Int) (bits : Nat) : Nat × Int × Bool :=
  let sh : Nat := 2 * bits + (if (e % 2 = 0) then 0 else 1)
  let num := n * 2 ^ sh
  let r := isqrt num
  (r, (e - sh) / 2, r * r != num)

def FFmt.sqrt (f : FFmt) (m : Rnd) : FV → Nat × Fl
  | .nan a => (f.qnan, flIf a fNV)
  | .inf s => if s then (f.qnan, fNV) else (f.inf false, 0)
  | .fin s n e =>
    if n = 0 then (f.zero s, 0)
    else if s then (f.qnan, fNV)
    else
      let r := sqrtParts n e 200
      f.round m false r.1 1 r.2.1 r.2.2

/-- Order of two values that are not NaNs; zeros compare equal unless `zs` (−0 below +0). -/
def fvLt (zs : Bool) : FV → FV → Bool
  | .inf a, .inf b => a && !b
  | .inf a, _ => a
  | _, .inf b => !b
  | .fin s1 n1 e1, .fin s2 n2 e2 =>
    if n1 = 0 && n2 = 0 then zs && s1 && !s2
    else
      let e := min e1 e2
      decide (sgn s1 (n1 * 2 ^ (e1 - e).toNat) < sgn s2 (n2 * 2 ^ (e2 - e).toNat))
  | _, _ => false

def FV.isNan : FV → Bool
  | .nan _ => true
  | _ => false
def FV.isSnan : FV → Bool
  | .nan g => g
  | _ => false
def FV.isInf : FV → Bool
  | .inf _ => true
  | _ => false

def fvEq (a b : FV) : Bool := !a.isNan && !b.isNan && !fvLt false a b && !fvLt false b a
def fvCmpLt (a b : FV) : Bool := !a.isNan && !b.isNan && fvLt false a b
def fvCmpLe (a b : FV) : Bool := !a.isNan && !b.isNan && !fvLt false b a

/-- min and max deliver one operand's code, the canonical NaN for any NaN (spec/06 R160, spec/08 R211). -/
def FFmt.minmax (f : FFmt) (wantMax : Bool) (ca cb : Nat) : Nat × Fl :=
  let a := f.val ca
  let b := f.val cb
  if a.isNan || b.isNan then (f.qnan, flIf (a.isSnan || b.isSnan) fNV)
  else
    let lt := fvLt true a b
    (if wantMax then (if lt then cb else ca) else (if lt then ca else if fvLt true b a then cb else ca), 0)

/-! ### Conversions to integers (spec/02 R59, R60) -/

structure ITy where
  signed : Bool
  bits   : Nat
deriving DecidableEq, Repr

def ITy.lo (t : ITy) : Int := if t.signed then -(2 ^ (t.bits - 1) : Int) else 0
def ITy.hi (t : ITy) : Int := if t.signed then 2 ^ (t.bits - 1) - 1 else 2 ^ t.bits - 1

/-- Round n/d × 2^e to an integer, clamp to the type: NV alone beyond the range (log 80), else NX when inexact. -/
def toInt (t : ITy) (m : Rnd) (s : Bool) (n d : Nat) (e : Int) : Int × Fl :=
  let r := roundTo m s n d e false 0
  let v := sgn s r.1
  if v < t.lo then (t.lo, fNV) else if t.hi < v then (t.hi, fNV) else (v, flIf r.2 fNX)

def fvToInt (t : ITy) (m : Rnd) : FV → Int × Fl
  | .nan _ => (0, fNV)
  | .inf s => (if s then t.lo else t.hi, fNV)
  | .fin s n e => toInt t m s n 1 e

/-- An integer lane narrowed to a type: clamped with SAT, or its low bits under WRAP. -/
def narrowInt (t : ITy) (sat : Sat) (v : Int) : Int × Fl :=
  if t.lo ≤ v && v ≤ t.hi then (v, 0)
  else match sat with
    | .wrap =>
      let w := (v % 2 ^ t.bits)
      (if t.signed && decide (t.hi < w) then w - 2 ^ t.bits else w, 0)
    | _ => (if v < t.lo then t.lo else t.hi, fSAT)

/-! ### Narrow formats (spec/02 R41 to R46) -/

structure NFmt where
  width : Nat
  sgn   : Bool
  exp   : Nat
  spec  : Nat
  bias  : Int
deriving DecidableEq, Repr

def NFmt.ofReg (w : BitVec 32) : NFmt where
  width := (w.extractLsb' 0 4).toNat
  sgn := w.getLsbD 4
  exp := (w.extractLsb' 8 3).toNat
  spec := (w.extractLsb' 12 2).toNat
  bias := (w.extractLsb' 16 8).toInt

/-- Mantissa width. -/
def NFmt.man (f : NFmt) : Nat := f.width - f.sgn.toNat - f.exp

/-- Valid formats: spec/02 R42, with the register's reserved bits zero. -/
def NFmt.valid (f : NFmt) : Bool :=
  decide (2 ≤ f.width) && decide (f.width ≤ 8) && decide (f.sgn.toNat + f.exp ≤ f.width) &&
  (f.exp != 0 || f.spec == 0) &&
  (f.spec != 1 || (decide (2 ≤ f.exp) && decide (1 ≤ f.man))) &&
  (f.spec != 2 || decide (1 ≤ f.exp)) &&
  (f.spec != 3 || (f.width == 4 && f.sgn && f.exp == 2))

/-- A narrow code's meaning: an escape, or a value. -/
inductive NVal where
  | esc
  | v (x : FV)
deriving DecidableEq, Repr

def NFmt.emin (f : NFmt) : Int := 1 - f.bias
/-- Code of the largest finite magnitude, for EXP > 0 (spec/02 R44). -/
def NFmt.maxMag (f : NFmt) : Nat :=
  match f.spec with
  | 1 => 2 ^ (f.exp + f.man) - 2 ^ f.man - 1
  | 2 => 2 ^ (f.exp + f.man) - 2
  | _ => 2 ^ (f.exp + f.man) - 1

/-- Value of a magnitude code with EXP > 0: n × 2^e. -/
def NFmt.mag (f : NFmt) (c : Nat) : Nat × Int :=
  let ex := c / 2 ^ f.man
  let fr := c % 2 ^ f.man
  if ex = 0 then (fr, f.emin - f.man) else (2 ^ f.man + fr, (ex : Int) - f.bias - f.man)

/-- Value of a code: spec/02 R43, R44. -/
def NFmt.val (f : NFmt) (c0 : Nat) : NVal :=
  let c := c0 % 2 ^ f.width
  if f.exp = 0 then
    let i : Int := if f.sgn && decide (2 ^ (f.width - 1) ≤ c) then (c : Int) - 2 ^ f.width else c
    .v (.fin (decide (i < 0)) i.natAbs (-f.bias))
  else
    let s := f.sgn && decide (2 ^ (f.width - 1) ≤ c)
    let mg := c % 2 ^ (f.exp + f.man)
    if f.spec = 3 && c = 8 then .esc
    else if mg ≤ f.maxMag then let p := f.mag mg; .v (.fin s p.1 p.2)
    else if f.spec = 1 && mg = 2 ^ (f.exp + f.man) - 2 ^ f.man then .v (.inf s)
    else .v (.nan (decide (0 < f.man) && mg / 2 ^ (f.man - 1) % 2 == 0))

/-- The code a NaN converts to: sign 0 and, under SPEC 1, the top fraction bit alone (log 82). -/
def NFmt.nanCode (f : NFmt) : Nat :=
  if f.spec = 1 then 2 ^ (f.exp + f.man) - 2 ^ f.man + 2 ^ (f.man - 1) else 2 ^ (f.exp + f.man) - 1

def NFmt.signed (f : NFmt) (s : Bool) (mg : Nat) : Nat := mg + (if s && f.sgn then 2 ^ (f.width - 1) else 0)

/-- A result beyond the range: the narrow rows of spec/02 R59 and the infinities of R61. -/
def NFmt.over (f : NFmt) (m : Rnd) (s : Bool) : Nat × Fl :=
  if f.exp = 0 then
    (if f.sgn then (if s then 2 ^ (f.width - 1) else 2 ^ (f.width - 1) - 1) else 2 ^ f.width - 1, fSAT ||| fNX)
  else
    (match f.spec, m.sat with
      | 1, .satf => f.signed s f.maxMag
      | 1, _ => f.signed s (2 ^ (f.exp + f.man) - 2 ^ f.man)
      | 2, .ovfi => f.nanCode
      | _, _ => f.signed s f.maxMag, fOF ||| fNX)

/-- Round to the codes of a narrow format: spec/02 R61. A negative value below the smallest normal that rounds to no zero sets SAT and NX
of an unsigned format and no UF: the model's choice (log 109). -/
def NFmt.round (f : NFmt) (m : Rnd) (s : Bool) (n : Nat) (e : Int) : Nat × Fl :=
  if n = 0 then (if f.exp = 0 || f.spec = 3 then 0 else f.signed s 0, 0)
  else if f.exp = 0 then
    let r := roundTo m s n 1 e false (-f.bias)
    if s && !f.sgn then (0, if r.1 = 0 then flIf r.2 fNX else fSAT ||| fNX)
    else
      let lim := if f.sgn then (if s then 2 ^ (f.width - 1) else 2 ^ (f.width - 1) - 1) else 2 ^ f.width - 1
      if lim < r.1 then f.over m s
      else (if s && r.1 != 0 then 2 ^ f.width - r.1 else r.1, flIf r.2 fNX)
  else
    let ex := ilog2 n 1 e
    let u := roundTo m s n 1 e false (ex - f.man)
    let exU := if u.1 = 2 ^ (f.man + 1) then ex + 1 else ex
    let k : Nat := (ex - f.emin).toNat
    let v := roundTo m s n 1 e false (f.emin - f.man + k)
    let mg := v.1 + k * 2 ^ f.man
    let fl := flIf v.2 fNX ||| flIf (v.2 && decide (exU < f.emin) && u.1 != 0) fUF
    if s && !f.sgn then (0, if v.1 = 0 then fl else fSAT ||| fNX)
    else if f.maxMag < mg then f.over m s
    else if mg = 0 && f.spec = 3 then (0, fl)
    else (f.signed s mg, fl)

/-- Conversion to a narrow format: spec/02 R61. Minus infinity to an unsigned format gives +0 with SAT and NX (log 83). -/
def NFmt.conv (f : NFmt) (m : Rnd) : FV → Nat × Fl
  | .nan sig => if f.spec = 1 || f.spec = 2 then (f.nanCode, flIf sig fNV) else (0, fNV)
  | .inf s =>
    if s && !f.sgn then (0, fSAT ||| fNX)
    else if f.spec = 1 then (f.signed s (2 ^ (f.exp + f.man) - 2 ^ f.man), 0)
    else f.over m s
  | .fin s n e => f.round m s n e

/-- Unbiased exponent of the largest finite value: spec/02 R62. Where that value is zero, the exponent of one unit of its last
place (log 84). -/
def NFmt.emaxElem (f : NFmt) : Int :=
  if f.exp = 0 then (f.width : Int) - f.sgn.toNat - 1 - f.bias
  else let p := f.mag f.maxMag; ilog2 (max p.1 1) 1 p.2

/-! ### Lanes -/

end Sys2Proof.Machine

namespace Sys2Proof
open Machine

/-- Datum bits of a type (spec/02 R53, R55). A narrow type's width comes from its format register. -/
def VTy.datum (fmw : Nat) : VTy → Nat
  | .s64 | .n64 => 64
  | .a80 => 80
  | .s32 | .n32 | .f32 | .q32 => 32
  | .s16 | .n16 | .bf16 | .f16 => 16
  | .s8 | .n8 => 8
  | .fm _ => fmw

def VTy.ffmt : VTy → Option FFmt
  | .bf16 => some fmtBf16
  | .f16 => some fmtF16
  | .f32 => some fmtF32
  | .a80 => some fmtA80
  | _ => none

end Sys2Proof

namespace Sys2Proof.Machine

/-- Lane i of a view of lane width w. -/
def laneOf (r : Row) (w i : Nat) : Nat := (r.toNat >>> (w * i)) % 2 ^ w

def toSigned (w v : Nat) : Int := if 2 ^ (w - 1) ≤ v then (v : Int) - 2 ^ w else v

/-- An integer lane's value: the whole lane, signed or unsigned by type (spec/02 R54, spec/08 R211). -/
def laneInt (t : VTy) (v : Nat) : Int := if t.isSigned then toSigned t.width v else v

/-- Reduce an integer modulo 2^w. -/
def wrapNat (w : Nat) (v : Int) : Nat := (v % 2 ^ w).toNat

/-! ### Stochastic generators (spec/02 R58) -/

def sgStep (x0 : Word) : Word :=
  let x1 := x0 ^^^ (x0 <<< 13)
  let x2 := x1 ^^^ (x1 >>> 7)
  x2 ^^^ (x2 <<< 17)

def sgOut (x : Word) : Nat := (x >>> 40).toNat

end Sys2Proof.Machine
end

