-- ==== Sys2Proof/Machine/State.lean ====
section
/-!
DEFINITION. The machine's state as plain data, the two ways a step can stop, and the state after module reset.
One core (or Saffron) stands in focus at `here`; the others are parked under their keys. A key is 128 × die + window
core index (spec/01 R11); index 127 is the die-level agent. Log entries 1 to 8 name what is the model's own.
-/
namespace Sys2Proof.Machine

/-- Why a step faults. -/
inductive Fault where
  /-- Raised by an event whose agent, die, queue or index spec/01 R11 and R12 say does not exist. Safe: the hardware
  has no such agent, so nothing it does is left out. -/
  | noAgent (key : Nat)
deriving DecidableEq, Repr

/-- Why a step has no meaning. -/
inductive Refusal where
  /-- Raised by an arm of `exec` that has no meaning yet. Safe: nothing is claimed of it. -/
  | notModelled (mnemonic : String)
deriving DecidableEq, Repr

/-! ### The live scalar state (spec/03 R91) -/

/-- A target-buffer entry: spec/03 R81, R88. `copy` holds while its copy of the target bundles serves, `filling` while
its fill runs (spec/04 R114, R121). `top` holds bits 63:48 of a target that is not canonical, until its fetch faults
(spec/07 R196). -/
structure TBuf where
  valid   : Bool := false
  addr    : BitVec 48 := 0
  top     : Option (BitVec 16) := none
  link    : Bool := false
  copy    : Bool := false
  filling : Bool := false
deriving DecidableEq, Repr

/-- A negative status of a token, with what TOKF records of a fault status (spec/10 R256, R257): physical register, code as written, starting bundle, first
failing address. -/
structure FTok where
  reg    : Nat
  code   : Nat
  status : Int
  start  : Word
  faddr  : Word
  /-- a bundle has read it -/
  seen   : Bool := false
deriving DecidableEq, Repr

/-- The items restored by a rollback: spec/03 R91, by physical register number. -/
structure Live where
  x     : Vector Word 56
  sq    : Word
  lq    : Word
  gq    : Word
  p     : BitVec 16
  lc    : Vector (BitVec 32) 4
  stage : Bool
  xwo   : Fin 32
  pwo   : Fin 8
  fst   : BitVec 16
  fm    : Vector (BitVec 32) 8
  sg    : Vector Word 16
  tb    : Vector TBuf 8
  portS : Word
  portL : Word
  portV : Vector Word 2
  portM : Word
  portC : Vector Word 2
  /-- Hearth shadow and active sets, MA to MCOOP (spec/03 R86) -/
  hs    : Vector Word 14
  ha    : Vector Word 14
  /-- formats FA and FB that the explicit start read (spec/09 R241) -/
  hf    : Vector (BitVec 32) 2
  /-- C0 and C1 shadow and active sets, CSRC to CSTEP -/
  cs    : Vector (Vector Word 9) 2
  ca    : Vector (Vector Word 9) 2
  ftok  : List FTok
deriving DecidableEq, Repr

/-! ### Work in flight -/

/-- One write of an exposed result (spec/04 R106, R107). A row write names the bits it covers and its lane width. -/
inductive LWrite where
  | x (r : Fin 56) (v : Word)
  | p (r : Fin 16) (v : Bool)
  | sq (v : Word)
  | lc (n : Fin 4) (v : BitVec 32)
  | row (n : Fin 512) (lane : Nat) (en v : Row)
  | flags (f : BitVec 8)
deriving DecidableEq, Repr

/-- What a trap records: spec/20 R386, R387. -/
structure TrapInfo where
  cause  : Nat
  detail : BitVec 32 := 0
  slot   : Nat := 0
  pcb    : Word
  addr   : Word := 0
  tstart : Word := 0
  seq    : Nat := 0
  /-- results of a performed once-only instruction (spec/11 R291): TRES0, TRES1, TRES2 -/
  once   : Option (Word × Word × BitVec 2) := none
  /-- resume address of SYSC and BRK (spec/07 R197) -/
  resume : Option Word := none
  held   : Bool := false
  rdiv   : Bool := false
deriving DecidableEq, Repr

/-- An exposed operation in flight: issued in cycle `issued`, landed by cycle `due`. -/
structure Landing where
  seq    : Nat
  pcb    : Word
  slot   : Slot
  issued : Nat
  due    : Nat
  landed : Bool
  ws     : List LWrite
deriving DecidableEq, Repr

/-- A load issued and not yet performed: its bytes by physical address, with those a store of this core supplies (spec/07
R173, R175); its bytes are read when it completes. -/
structure Ld where
  bytes  : List (Nat × Option Byte)
  strong : Bool
  /-- page attribute CL: 0 lets L1 copies serve weak loads (spec/12 R324) -/
  cl     : Nat
  /-- acquire floor when it issued, and its place in the write order then -/
  acq    : Nat
  seq    : Nat
  /-- entries that the withholding buffer held as it issued: younger ones supply nothing -/
  held   : Nat := 0
deriving DecidableEq, Repr

/-- A scoreboarded result not yet written: a load, an atomic, a queue or a stream result (spec/03 R75, spec/07 R173). -/
structure Outst where
  seq   : Nat
  pcb   : Word
  ld    : Option Ld
  xd    : Option (Fin 56)
  val   : Word
  lq    : Option Word
  pair  : Option (Fin 16 × Fin 16 × Bool)
  fault : Option TrapInfo
  host  : Bool
  /-- an exposed result writes the same register meanwhile (spec/12 R319) -/
  clash : Bool := false
deriving DecidableEq, Repr

/-- The master an access is made for: spec/18 R351, R352. -/
structure Acc where
  key   : Nat
  ctx   : Nat
  part  : Nat
  accid : Nat
  root  : Word
  priv  : Bool
  /-- Flue quota of its context as the task, the handler or the request started with it (spec/18 R341) -/
  quota : Nat := 0
deriving DecidableEq, Repr

/-- A post to a flag: agent key, flag, amount, set (spec/07 R188). -/
structure Post where
  key  : Nat
  flag : Nat
  amt  : Nat
  set  : Bool
deriving DecidableEq, Repr

/-- Entries of the withholding buffer: spec/01 R16, spec/10 R260. -/
inductive WEntry where
  | store (ea : Word) (pa : Nat) (data : List Byte) (strong : Bool) (acc : Acc)
  | push (qv msg : Word) (acc : Acc)
  | post (xt : Word) (own : Bool) (p : Post) (acc : Acc)
  | land (id : Nat)
  | cpost (id : Nat)
  | cdis (slot : Nat) (tok : Nat)
  | carm (id : Nat)
  | cnet (id : Nat)
  | bgo (id : Nat)
deriving DecidableEq, Repr

/-- A released store or post that has not yet been performed (spec/12 R318, R325, spec/07 R189). -/
inductive Released where
  | store (pa : Nat) (data : List Byte) (acc : Acc)
  | post (p : Post) (acc : Acc)
deriving DecidableEq, Repr

/-- The starts of spec/10 that run as copies. -/
inductive CopyOp where
  | go | gath | scat | fill | bcast | dx | pfd | arm | mred | kvc | net | bgo
deriving DecidableEq, Repr

/-- Where a copy stands: withheld until release, armed, running, or ended and kept for its landing post. -/
inductive CopyState where
  | withheld | armed | running | ended
deriving DecidableEq, Repr

/-- Result of a copy: its writes in order of work (oldest first), its status, rows done, first failing address; and for each write
the row that made it, where that is kept. -/
structure CRes where
  ws     : List (Nat × Byte)
  status : Int
  done   : Nat
  faddr  : Word
  rows   : List Nat := []
deriving DecidableEq, Repr

/-- What a Bellows step or a frame has still to write, which others may see in part: the moment of the step, its number, and the writes
(spec/12 R330). -/
structure Rest where
  at0  : Nat
  step : Nat := 0
  ws   : List (Nat × Byte)
deriving DecidableEq, Repr

/-- A frame whose payload and entry are on their way to their homes: the die that took it, what remains of it, and the place and the value
of the stream's TAIL, which follows (spec/21 R415). -/
structure Frame where
  die  : Nat
  ctx  : Nat
  rest : Rest
  pa   : Nat
  tail : Nat
deriving DecidableEq, Repr

/-- A copy (spec/10 R255 to R281). -/
structure Copy where
  id      : Nat
  slot    : Nat
  op      : CopyOp
  state   : CopyState
  img     : Vector Word 9
  pat     : Word
  tok     : Option Nat
  code    : Nat
  pcb     : Word
  acc     : Acc
  /-- owner: 0 a handler, else a task's number plus one -/
  task    : Nat
  banks   : BitVec 64
  flag    : Nat
  thr     : Nat
  /-- armed, and its threshold met (spec/10 R270) -/
  hit     : Bool
  /-- place in the order of starts (spec/10 R256) -/
  ord     : Nat
  /-- first row of a restarted copy (spec/18 R359) -/
  row0    : Nat
  /-- status fixed at issue: an empty copy, a bank violation (spec/10 R255, R259) -/
  early   : Option Int
  /-- place in the write history and acquire floor at the start -/
  hseq    : Nat
  acq     : Nat
  /-- bytes that stores of this core, not yet at home at the start, supply (spec/07 R175) -/
  fwd     : List (Nat × Byte)
  /-- places of the bytes of those stores that have not reached their homes yet -/
  onWay   : List Nat := []
  sinceCk : Bool
  disc    : Bool
  /-- status once ended -/
  status  : Int
  /-- first failing address, once ended -/
  faddr   : Word
  /-- its status has been written to its token -/
  tokDone : Bool
  /-- bytes written, while an earlier copy of the slot still runs (spec/10 R262) -/
  wrote   : List Nat
  /-- its landing post: none, withheld, released, discarded -/
  land    : Option Bool
  /-- moment at which its threshold was met (spec/10 R270) -/
  hitAt   : Nat := 0
  /-- its landing post goes to the remote device of its destination (spec/10 R267) -/
  far     : Bool := false
  /-- what is still to be written of a copy of which other agents have seen part (spec/12 R330) -/
  rest    : Option CRes := none
  /-- the moment of the first of those parts -/
  at0     : Option Nat := none
  /-- the rows of which a part has been seen lie below this one (spec/10 R275) -/
  upTo    : Nat := 0
  /-- a reduction that lost a die after its start (spec/10 R275) -/
  cut     : Bool := false
  /-- the engine fault log of its slot holds its record (spec/18 R359) -/
  logged  : Bool := false
  /-- what it still writes is undefined: its interval broke the rule of spec/05 R147 (spec/20 R394) -/
  junk    : Bool := false
deriving DecidableEq, Repr

/-- A `cpost` from issue to delivery (spec/10 R268). -/
structure CPost where
  id       : Nat
  slot     : Nat
  pcb      : Word
  post     : Post
  acc      : Acc
  released : Bool
  /-- copies it waits for -/
  after    : List Nat
deriving DecidableEq, Repr

/-- A Hearth operation in flight (spec/09 R237 to R240). -/
structure HOp where
  seq    : Nat
  pcb    : Word
  op     : Nat
  img    : Vector Word 14
  fa     : BitVec 32
  fb     : BitVec 32
  banks  : BitVec 64
  acc    : Acc
  /-- place in the write order and acquire floor at the start -/
  hseq   : Nat
  acq    : Nat
  issued : Nat
  due    : Nat
  /-- `mlatch`: the scratchpad offset of its tile (spec/09 R248) -/
  latch  : Option Nat
  /-- translations its start made: virtual page, physical page, attribute CL (spec/09 R234) -/
  pages  : List (Nat × Nat × Nat)
  /-- bytes that stores of this core, not yet at home, supply (spec/07 R175) -/
  fwd    : List (Nat × Byte)
  /-- places of the bytes of those stores that have not reached their homes yet -/
  onWay  : List Nat := []
  /-- blocks whose sums have been added (spec/09 R247) -/
  blk    : Nat
  /-- B-store ranges that the Hearth filled before it runs: offset, length and place in the write order (spec/09 R248) -/
  bfloor : List (Nat × Nat × Nat)
  /-- operand bytes that its steps have read: space and place, each byte read once (spec/09 R234) -/
  got    : List ((Nat × Nat) × Byte) := []
deriving DecidableEq, Repr

/-- A member's arrival at a rendezvous: tick, opcode, the active set and formats it will start, its banks, and whether the rendezvous
has completed (spec/09 R244). -/
structure Join where
  tick  : Nat
  op    : Nat
  img   : Vector Word 14
  fa    : BitVec 32
  fb    : BitVec 32
  banks : BitVec 64
  go    : Bool
deriving DecidableEq, Repr

/-- An ember row with its replace and touch bits and form tag (true float): spec/09 R237. -/
structure Ember where
  v     : Row := 0
  touch : BitVec 128 := 0
  repl  : BitVec 128 := 0
  form  : Option Bool := none
deriving DecidableEq, Repr

/-- One entry of the once record: destination, second result, pair (spec/07 R178, spec/11 R290, R298). -/
structure OnceRec where
  done : Bool := false
  val  : Word := 0
  aux  : Word := 0
  pair : Option Bool := none
  /-- an agreement performed whose outcome is pending (spec/01 R25) -/
  wait : Bool := false
  /-- the trap its results already raised (spec/11 R291) -/
  trapped : Bool := false
  /-- an outcome that came while its bundle was not on the core: its AGREE record is logged as it reaches the bundle (spec/20 R404) -/
  fresh   : Bool := false
  /-- cause of a trap its results are still to raise, as one that ranked earlier was taken (spec/11 R291); 0 none -/
  owed    : Nat := 0
deriving DecidableEq, Repr

/-- A sticky record (spec/04 R108): guard and operation, its V indices and the `carm` threshold. -/
structure Sticky where
  guard : Fin 16
  op    : Instr
  pcb   : Word
  thr   : Int := 0
deriving DecidableEq, Repr

/-- An agreement that has contributed and not been delivered (spec/01 R25 to R28). -/
structure AgWait where
  g     : Nat
  m     : Nat
  mb    : Nat
  seq   : Nat
  gqPhys : Option (Fin 16 × Fin 16)
  trapping : Bool
  hint  : Option Bool
  since : Nat
  pcb   : Word
  /-- place of its bundle in the issue order, where its trap ranks -/
  bseq  : Nat
  /-- its bundle has issued and waits for the outcome; a rollback clears it until the bundle issues again -/
  on    : Bool
deriving DecidableEq, Repr

/-- Effects at the end of a bundle (spec/06 R167 to R170, spec/07 R195), or of an issue of it (`ag`). -/
inductive EobWrite where
  | sg (n : Fin 16) (v : Word)
  | vstp (k : Fin 2) (v : Word)
  | fm (n : Fin 8) (v : BitVec 32)
  | tb (n : Fin 8) (a : Word) (link : Bool)
  /-- `wrcr` of PBOUND, and of a word of LIVEMASK (spec/06 R170) -/
  | pbound (v : Word)
  | mask (k : Fin 8) (v : Word)
  /-- outcome of an agreement known as it issues: `gq` and the physical pair with its even member's value (spec/11 R290) -/
  | ag (v : Word) (pair : Option (Fin 16 × Fin 16 × Bool))
deriving DecidableEq, Repr

/-- What a WAITING task waits for: spec/01 R19. -/
inductive TWait where
  | none
  | barrier (die n : Nat)
  | flag (key f thr : Nat)
  | queue (die q : Nat)
  | agree (g m seq : Nat)
deriving DecidableEq, Repr

/-- A start of C1 that waits in the second piece of a split bundle for its own bank set (spec/04 R118): the operation, the
scalar state its operands are read from, and whether the bundle's transfer is taken. -/
structure Late where
  op    : Instr
  again : Bool
  thr   : Int
  guard : Fin 16
  live  : Live
  take  : Bool
deriving DecidableEq, Repr

/-- The bundle being issued. -/
structure Iss where
  live   : Bool := false
  pcb    : Word := 0
  next   : Word := 0
  /-- its syllables, fetched whole before any slot issues (spec/04 R119) -/
  ws     : List Syl := []
  /-- its checkpoint's actions are done -/
  ck     : Bool := false
  q      : Bool := false
  rep    : Nat := 0
  slot   : Slot := .s
  piece  : Nat := 0
  frnd   : Frnd := .rne
  sat    : Sat := .satf
  qrnd   : Qrnd := .qn
  seed   : Fin 16 := 0
  /-- a sticky re-issue or later repeat (spec/04 R112) -/
  again  : Bool := false
  thr    : Int := 0
  /-- the timebase as the bundle reads it in a replay (spec/20 R405) -/
  tqv    : Option Word := none
  eob    : List EobWrite := []
  /-- give up the core after this issue, waiting for this; `none` inside is a `yield` (spec/07 R190) -/
  leave  : Option TWait := none
  /-- stop for good after this issue: `tend` or `halt` -/
  ending : Nat := 0
  late : Option Late := none
deriving DecidableEq, Repr

/-- What a core is doing. -/
inductive Phase where
  /-- no task -/
  | idle
  /-- a task or a Saffron request issues bundles -/
  | run
  /-- a trap handler runs (spec/20 R390) -/
  | handler
  /-- a save is in progress; `next` is the state the task enters -/
  | saving
  /-- the task has ended and waits to retire (spec/01 R20) -/
  | ending
  /-- stopped by `halt` or a double trap (spec/06 R170, spec/20 R392) -/
  | stopped
deriving DecidableEq, Repr

/-- A pre-emption request (spec/19 R370). -/
structure Req where
  cross : Bool
  task  : Nat
  tick  : Nat
deriving DecidableEq, Repr

/-- Rows and bytes the interval read and wrote: the rule of spec/05 R147, R148 and its sanction spec/20 R394. -/
structure Trk where
  rdRows : List Nat := []
  wrRows : List Nat := []
  /-- rows that the present issue has written, with its reads as operands -/
  wrNow  : List Nat := []
  srcs   : List (Nat × Nat) := []
  dsts   : List (Nat × Nat) := []
  broken : Bool := false
  /-- rows and byte ranges that the next checkpoint makes undefined -/
  poison : List Nat := []
  poisonB : List (Nat × Nat) := []
deriving DecidableEq, Repr

/-- A Saffron request being served (spec/11 R304). -/
structure SReq where
  msg  : Word
  stat : Word
  rdy  : BitVec 32
  tag  : Word
deriving DecidableEq, Repr

/-- A core, or a Saffron, with everything that belongs to it. -/
structure Core where
  phase   : Phase
  live    : Live
  dup     : Live
  pc      : Word
  flags   : Vector (BitVec 16) 32
  /-- place in the write order at which each flag last changed (spec/07 R189) -/
  fseq    : Vector Nat 32
  /-- accumulator-plane rows written since dispatch, v0 to v511 (an unlisted row is undefined, log 5) -/
  rows    : List (Nat × Row)
  /-- rows that a copy or a window wrote in the present issue cycle, as they stood before (spec/08 R210) -/
  rowOld  : List (Nat × Row)
  ember   : List (Nat × Ember)
  bstore  : List Host.Cell
  epoch   : Nat
  -- in flight
  cyc     : Nat
  seq     : Nat
  land    : List Landing
  outst   : List Outst
  hops    : List HOp
  copies  : List Copy
  /-- next number of a copy, a `cpost` or a start -/
  nid     : Nat
  cposts  : List CPost
  whb     : List WEntry
  rel     : List Released
  /-- withheld host writes that the host will not complete in time (spec/07 R202), by place in the buffer -/
  hostLate : List Nat
  once    : Vector OnceRec 2
  once2   : Vector OnceRec 2
  sticky  : Vector (Option Sticky) 5
  agw     : Option AgWait
  runAhead : Bool
  heldTrap : Option TrapInfo
  pend    : Option TrapInfo
  fence   : Option Nat
  drain   : Bool
  iss     : Iss
  joinAt  : Option Join
  -- fetch and history
  ifseq   : Nat
  acq     : Nat
  lastWr  : List (Nat × Nat)
  /-- tokens written and not yet read: register, bytes of the copy, place in the write order (spec/10 R258) -/
  tacq    : List (Nat × List Nat × Nat)
  -- control registers
  tcw     : Word
  pbound  : Word
  acnt    : Nat
  livemask : BitVec 512
  ptroot  : Word
  accid   : Nat
  /-- Flue quota of the context as the task started with it (spec/18 R341) -/
  quota   : Nat
  /-- root and Flue quota of context 0 as the running handler reads them (spec/20 R390) -/
  hroot   : Word
  hquota  : Nat
  trtcw   : Word
  trpc    : Word
  semap   : BitVec 18
  tcause  : Word
  tbund   : Word
  taddr   : Word
  tckpt   : Word
  tres0   : Word
  tres1   : Word
  tres2   : Word
  tstart  : Word
  ttick   : Word
  -- scheduling
  task    : Option Nat
  prio    : Nat
  req     : Option Req
  saveTo  : Nat
  saveWhy : Nat
  ckpt    : Word
  ckKeep  : Bool
  soft    : Nat
  icnt    : Nat
  icntCk  : Nat
  trk     : Trk
  -- Saffron
  sr      : Word
  sreq    : Option SReq
  srqf    : Word
deriving DecidableEq, Repr

/-! ### Scheduler, groups, engines -/

/-- States of a task: spec/01 R19 (RETIRED tasks leave the list). -/
inductive TState where
  | queued | ready | running | waiting | saved
deriving DecidableEq, Repr

/-- Agreement status of a membership (spec/11 R292): sel 0 and sel 2. -/
structure AgStat where
  sel0 : Word := 0
  sel2 : Word := 0
deriving DecidableEq, Repr

/-- What the die holds for a task off its core (spec/03 R91, spec/20 R397). -/
structure HeldSt where
  once : Vector OnceRec 2
  hs   : Vector Word 14
  ha   : Vector Word 14
  hf   : Vector (BitVec 32) 2
  cs   : Vector (Vector Word 9) 2
  ca   : Vector (Vector Word 9) 2
  ftok : List FTok
  pc   : Word
  agw  : Option AgWait
  icnt : Nat
  /-- rollbacks of soft errors to the checkpoint that it resumes from (spec/20 R401) -/
  soft : Nat
  /-- rows and bytes that the interval, once it has run again, leaves undefined (spec/20 R394) -/
  poison  : List Nat
  poisonB : List (Nat × Nat)
  /-- the core that it ran on: its own window's bytes move with the task -/
  ran     : Nat
deriving DecidableEq, Repr

/-- An accepted task (spec/01 R17, spec/19 R366). The list order is the queue order. -/
structure Task where
  id     : Nat
  desc   : BitVec 512
  die    : Nat
  queue  : Nat
  state  : TState
  wait   : TWait
  ready  : Nat
  yielded : Bool
  pin    : Option Nat
  /-- graph node that spawned it: launch number, node, activation -/
  node   : Option (Nat × Nat × Nat)
  /-- its activation has completed (spec/19 R364) -/
  act    : Bool
  /-- it has been dispatched before -/
  begun  : Bool
  held   : Option HeldSt
  ag     : Vector AgStat 4
deriving DecidableEq, Repr

/-- A launch in progress on a die (spec/19 R361 to R365). Counts are per node: arrivals, iterations (of a TASKSET the
activations whose descriptors were read), activations. -/
structure Launch where
  /-- its own number, which its tasks name -/
  id     : Nat
  h      : Nat
  gaddr  : Word
  ctx    : Nat
  arr    : List (Nat × Nat)
  iters  : List (Nat × Nat)
  acts   : List (Nat × Nat)
  /-- retirements left for an activation of a node: node, activation, left -/
  left   : List (Nat × Nat × Nat)
  /-- descriptors a node has still to enqueue: node, activation, those left -/
  todo   : List (Nat × Nat × List (BitVec 512))
  /-- ended, and its notification still to be pushed; RUNS then -/
  ended  : Bool
  fault  : Bool
  runs   : Nat
deriving DecidableEq, Repr

/-- Home state of one sequence number of a group (spec/11 R287). -/
structure AgHome where
  g       : Nat
  seq     : Nat
  key     : Option (BitVec 32 × Cmb × Fin 4 × Int)
  contr   : List (Nat × Int × BitVec 32)
  t0      : Nat
  td      : Nat
  expired : Bool
  decided : Option AgOut
  /-- members whose decision is still to be delivered -/
  todo    : List (Nat × AgOut)
  /-- members that contributed late -/
  late    : List (Nat × BitVec 32)
  /-- records sent to the copies on member devices: device and record (spec/15 R336) -/
  copies  : List (Nat × List Byte)
  /-- its record stands in this device's report area -/
  wrote   : Bool := false
deriving DecidableEq, Repr

/-- A Bellows program in progress (spec/11 R310 to R316). -/
structure BRun where
  id    : Nat
  key   : Nat
  copy  : Nat
  acc   : Acc
  prog  : Word
  step  : Nat
  /-- blc0 to blc3: count, iteration, step after LOOP -/
  blc   : Vector (Nat × Nat × Nat) 4
  hopovf : Bool
  hop   : Nat
  nonfinite : Bool
  /-- peers on other devices whose acknowledgement is still to come -/
  sent  : List Nat
  inbox : List BMsg
  /-- addresses that its steps have written (spec/12 R331) -/
  wrote : List Nat := []
  /-- what its steps have still to write, oldest first (spec/12 R330, R331) -/
  rest  : List Rest := []
deriving DecidableEq, Repr

/-- A message with the context of its pusher (spec/07 R182). -/
structure Msg where
  ctx : Nat
  val : Word
deriving DecidableEq, Repr

/-- A message queue's contents (spec/19 R378 to R380). -/
structure MQ where
  die  : Nat
  q    : Nat
  ring : List Msg
  flue : List Msg
  /-- messages that have left the Flue ring: the oldest one's place in it (log 20) -/
  fhead : Nat := 0
deriving DecidableEq, Repr

/-- A cached translation (spec/18 R356): context, leaf entry, level, virtual page base. -/
structure TlbE where
  ctx  : Nat
  va   : Nat
  lev  : Nat
  pte  : Word
deriving DecidableEq, Repr

/-- A byte a write replaced: address, old value, tick, order in the coherence order (spec/12 R317, R324). -/
structure Hist where
  seq  : Nat
  addr : Nat
  old  : Byte
  tick : Nat
  /-- moment of the write, by the model's counter; that of its first part for a copy that lands in parts (spec/09 R247) -/
  step : Nat := 0
deriving DecidableEq, Repr

/-- A Damper balance (spec/19 R371). `part` holds core-ticks that do not yet make a unit of TIME. -/
structure Bal where
  die : Nat
  ctx : Nat
  b   : Nat
  en  : Bool
  cap : Int
  rate : Int
  bal : Int
  part : Nat
deriving DecidableEq, Repr

/-- A notification (spec/21 R410). -/
structure Note where
  die  : Nat
  word : Word
deriving DecidableEq, Repr

/-- An event the outside world or a chosen agent makes next: agent key and event. -/
structure Ev where
  who : Nat
  ev  : Instr
deriving DecidableEq, Repr

/-- The state of the module. -/
structure State where
  /-- key of the agent in focus -/
  here    : Nat
  core    : Core
  /-- the other agents that have left their reset state -/
  parked  : List (Nat × Core)
  /-- free-value counter: the model's own (log 3) -/
  ctr     : Nat
  agenda  : List Ev
  tick    : Nat
  mhz     : Nat
  device  : Nat
  /-- DRAM, host memory and scratchpads by physical address -/
  mem     : List Host.Cell
  hist    : List Hist
  wseq    : Nat
  /-- die control registers that differ from reset: (die × 2^20 + offset, value) -/
  dreg    : List (Nat × Word)
  tlb     : List TlbE
  /-- place in the write order at which each barrier (die × 64 + number) last completed a phase (spec/12 R327) -/
  barAt   : List (Nat × Nat)
  tasks   : List Task
  nextId  : Nat
  launches : List (Nat × Launch)
  mqs     : List MQ
  rp      : List (Nat × Nat)
  bals    : List Bal
  homes   : List AgHome
  /-- contributions on their way to the home: group, member -/
  agMail  : List (Nat × Nat × Contrib)
  mseq    : List ((Nat × Nat) × Nat)
  absent  : List Nat
  /-- ticks at which a loss, a departure or an expiry last reached the home of a group: no contribution comes after it in its tick
  (spec/11 R287) -/
  goneAt  : List (Nat × Nat)
  /-- groups whose entry has read VALID 0, with the place in the write order then: what they had open is set apart, to be decided LOST (spec/19
  R376) -/
  invSeen : List (Nat × Nat)
  /-- copies of report records that have come from another device's home: group and sequence number, and whether each was written
  (spec/15 R336) -/
  rptGot  : List ((Nat × Nat) × Bool)
  /-- die and context of the last task of a group that ran here, in which a report is written (log 53) -/
  grpCtx  : List (Nat × Nat × Nat)
  beats   : List (Nat × Nat)
  lost    : List Nat
  beatTick : Nat
  links   : BitVec 16
  /-- dies fenced whose members have still to be lost (spec/18 R351, spec/11 R289) -/
  fencing : BitVec 8
  hubDown : BitVec 8
  bruns   : List (Nat × BRun)
  staging : List (Nat × BMsg)
  /-- frames that land in parts -/
  frames  : List Frame
  /-- bytes of messages that a die's staging holds, as system software sized it (spec/11 R314, log 93) -/
  stageCap : Nat
  notes   : List Note
  msix    : List Nat
  hostRd  : List Byte
  /-- status with which what came last to a receive segment answers its sender: 0, −2 or −3 (spec/21 R414, R415) -/
  rxStat  : Int
  hostacc : BitVec 8
  mbcmd   : Word
  mbarg   : Word
  /-- the running mailbox command: its OPC and MBARG as GO started it (spec/21 R419) -/
  mbjob   : Option (Nat × Word)
  mbstat  : Word
  bootstat : Word
  hot     : BitVec 8
deriving DecidableEq, Repr

/-! ### Reset -/

/-- Dispatch values of fm0 to fm7: spec/02 R45. -/
def fmReset : Vector (BitVec 32) 8 := #v[0x00013214, 0x00072418, 0x000F1518, 0x00000014, 0, 0, 0, 0]

/-- Dispatch values of sg0 to sg15: spec/02 R58. -/
def sgReset : Vector Word 16 :=
  #v[0x9E3779B97F4A7C15, 0x9E3779B97F4A7C16, 0x9E3779B97F4A7C17, 0x9E3779B97F4A7C18,
     0x9E3779B97F4A7C19, 0x9E3779B97F4A7C1A, 0x9E3779B97F4A7C1B, 0x9E3779B97F4A7C1C,
     0x9E3779B97F4A7C1D, 0x9E3779B97F4A7C1E, 0x9E3779B97F4A7C1F, 0x9E3779B97F4A7C20,
     0x9E3779B97F4A7C21, 0x9E3779B97F4A7C22, 0x9E3779B97F4A7C23, 0x9E3779B97F4A7C24]

/-- The scalar state at dispatch, but for x2 (spec/03 R90); the model's value at module reset too (log 2). R90 names no value of `sq`, `lq` and
`gq` at a first dispatch: zero is the model's choice (log 2). -/
def Live.reset : Live where
  x := .replicate 56 0
  sq := 0
  lq := 0
  gq := 0
  p := 0
  lc := .replicate 4 0
  stage := false
  xwo := 0
  pwo := 0
  fst := 0
  fm := fmReset
  sg := sgReset
  tb := .replicate 8 {}
  portS := 0
  portL := 0
  portV := .replicate 2 0
  portM := 0
  portC := .replicate 2 0
  hs := .replicate 14 0
  ha := .replicate 14 0
  hf := .replicate 2 0
  cs := .replicate 2 (.replicate 9 0)
  ca := .replicate 2 (.replicate 9 0)
  ftok := []

/-- A core after module reset. -/
def Core.reset : Core where
  phase := .idle
  live := .reset
  dup := .reset
  pc := 0
  flags := .replicate 32 0
  fseq := .replicate 32 0
  rows := []
  rowOld := []
  ember := []
  bstore := []
  epoch := 0
  cyc := 0
  seq := 0
  land := []
  outst := []
  hops := []
  copies := []
  nid := 0
  cposts := []
  whb := []
  rel := []
  hostLate := []
  once := .replicate 2 {}
  once2 := .replicate 2 {}
  sticky := .replicate 5 none
  agw := none
  runAhead := false
  heldTrap := none
  pend := none
  fence := none
  drain := false
  iss := {}
  joinAt := none
  ifseq := 0
  acq := 0
  lastWr := []
  tacq := []
  tcw := 0
  pbound := 0
  acnt := 0
  livemask := 0
  ptroot := 0
  accid := 0
  quota := 0
  hroot := 0
  hquota := 0
  trtcw := 0
  trpc := 0
  semap := 0
  tcause := 0
  tbund := 0
  taddr := 0
  tckpt := 0
  tres0 := 0
  tres1 := 0
  tres2 := 0
  tstart := 0
  ttick := 0
  task := none
  prio := 0
  req := none
  saveTo := 0
  saveWhy := 0
  ckpt := 0
  ckKeep := false
  soft := 0
  icnt := 0
  icntCk := 0
  trk := {}
  sr := 0
  sreq := none
  srqf := 0

/-- The module as it leaves reset: dies fenced, no core dispatchable, bring-up not begun (spec/18 R347, R350, spec/21
R420). Values the manual gives are its own; every other field stands at the value of log 2, 3 or 4. -/
def State.reset : State where
  here := 0
  core := .reset
  parked := []
  ctr := 0
  agenda := []
  tick := 0
  mhz := 700
  device := 0
  mem := []
  hist := []
  wseq := 0
  dreg := []
  tlb := []
  barAt := []
  tasks := []
  nextId := 0
  launches := []
  mqs := []
  rp := []
  bals := []
  homes := []
  agMail := []
  mseq := []
  absent := []
  goneAt := []
  invSeen := []
  rptGot := []
  grpCtx := []
  beats := []
  lost := []
  beatTick := 0
  links := 0
  fencing := 0
  hubDown := 0
  bruns := []
  staging := []
  frames := []
  stageCap := 16777216
  notes := []
  msix := []
  hostRd := []
  rxStat := 0
  hostacc := 0
  mbcmd := 0
  mbarg := 0
  mbjob := none
  mbstat := 0
  bootstat := 0
  hot := 0

end Sys2Proof.Machine
end

