-- ==== Sys2Proof/Machine/Mem.lean ====
section
/-!
DEFINITION. Memory: bytes by physical address in one canonical form, the write history that bounds weak reads (spec/12
R317, R324), the die control registers, regions, partitions, access tables and translation (spec/07 R172, spec/18).
-/
namespace Sys2Proof.Machine

/-! ### Bytes -/

/-- What an unlisted byte reads as (log 4). -/
def memDefault : Byte := 0

/-- Value at an address of a rising list of cells. -/
def cellGet (dflt : Byte) : List Host.Cell → Nat → Byte
  | [], _ => dflt
  | c :: m, a => if c.1 = a then c.2 else if a < c.1 then dflt else cellGet dflt m a

/-- Put a byte at an address; `keep` says whether the value is listed (an entry equal to the default is not). -/
def cellSet (keep : Bool) : List Host.Cell → Nat → Byte → List Host.Cell
  | [], a, v => if keep then [(a, v)] else []
  | c :: m, a, v =>
    if c.1 = a then (if keep then (a, v) :: m else m)
    else if a < c.1 then (if keep then (a, v) :: c :: m else c :: m)
    else c :: cellSet keep m a v

def memGet (m : List Host.Cell) (a : Nat) : Byte := cellGet memDefault m a
def memSet (m : List Host.Cell) (a : Nat) (v : Byte) : List Host.Cell := cellSet (v != memDefault) m a v

/-- The canonical form: addresses strictly rising, and no entry equal to the default. -/
def Memory.wf : List Host.Cell → Bool
  | [] => true
  | c :: m => c.2 != memDefault && (match m with
      | [] => true
      | d :: _ => decide (c.1 < d.1)) && Memory.wf m

/-- Little-endian word of a list of bytes (spec/00 R4). -/
def leNat : List Byte → Nat
  | [] => 0
  | b :: bs => b.toNat + 256 * leNat bs

/-- The n low bytes of a number, lowest first. -/
def leBytes (n : Nat) (v : Nat) : List Byte :=
  match n with
  | 0 => []
  | k + 1 => BitVec.ofNat 8 v :: leBytes k (v / 256)

def rdBytes (m : List Host.Cell) (a n : Nat) : List Byte := (List.range n).map fun i => memGet m (a + i)
def rdNat (m : List Host.Cell) (a n : Nat) : Nat := leNat (rdBytes m a n)

/-! ### The state's counters and free values -/

/-- A free value of width w under a tag: the counter picks its place (log 3). -/
def State.free (s : State) (w tag : Nat) : BitVec w := Config.freeBits w (s.ctr * 2 ^ 64 + tag)
def State.freeNat (s : State) (tag : Nat) : Nat := (s.free 64 tag).toNat
/-- Advance the free-value counter. -/
def State.bump (s : State) : State := { s with ctr := s.ctr + 1 }

/-- Choose one of a list by a free value; one candidate needs none. -/
def choose {α : Type} (n : Nat) (x : α) : List α → α
  | [] => x
  | l => ((x :: l)[n % (l.length + 1)]?).getD x

/-! ### Agents -/

def keyDie (k : Nat) : Nat := k / 128
def keyIdx (k : Nat) : Nat := k % 128
def keyCluster (k : Nat) : Nat := if 72 ≤ keyIdx k then keyIdx k - 72 else keyIdx k / 8
def isSaffron (k : Nat) : Bool := decide (72 ≤ keyIdx k) && decide (keyIdx k ≤ 80)

def lookupCore : List (Nat × Core) → Nat → Core
  | [], _ => .reset
  | p :: ps, k => if p.1 = k then p.2 else lookupCore ps k

def storeCore : List (Nat × Core) → Nat → Core → List (Nat × Core)
  | [], k, c => [(k, c)]
  | p :: ps, k, c => if p.1 = k then (k, c) :: ps else p :: storeCore ps k c

def State.coreOf (s : State) (k : Nat) : Core := if k = s.here then s.core else lookupCore s.parked k
def State.setCore (s : State) (k : Nat) (c : Core) : State :=
  if k = s.here then { s with core := c } else { s with parked := storeCore s.parked k c }
def State.modCore (s : State) (k : Nat) (f : Core → Core) : State := s.setCore k (f (s.coreOf k))

/-- Bring an agent into focus. -/
def State.focus (s : State) (k : Nat) : State :=
  if k = s.here then s
  else { s with here := k, core := lookupCore s.parked k, parked := storeCore s.parked s.here s.core }

/-- Keys of every agent with a record. -/
def State.keys (s : State) : List Nat := s.here :: (s.parked.map (·.1)).filter (· != s.here)

/-! ### Die control registers (spec/18 R346, spec/19 R360) -/

/-- Offsets of registers that one module holds once, whatever die's window reaches them: GRPBASE (spec/19 R374), the
receive segments (spec/21 R414), HBCTL and PWRCAP (R417, R423). -/
def moduleReg (off : Nat) : Bool :=
  off == 0x2220 || (decide (0x4100 ≤ off) && decide (off < 0x4310))

def dregDefault (off : Nat) : Word :=
  if off = 0x0008 then 0x300
  else if off = 0x4200 then BitVec.ofNat 64 (4 * 2 ^ 32 + 100000)
  else if off = 0x4300 then 6500
  else 0

def dkey (die off : Nat) : Nat := (if moduleReg off then 0 else die) * 2 ^ 20 + off

def assocGet {β : Type} (dflt : β) : List (Nat × β) → Nat → β
  | [], _ => dflt
  | p :: ps, k => if p.1 = k then p.2 else assocGet dflt ps k

/-- Rising insertion or replacement. -/
def assocSet {β : Type} : List (Nat × β) → Nat → β → List (Nat × β)
  | [], k, v => [(k, v)]
  | p :: ps, k, v =>
    if p.1 = k then (k, v) :: ps else if k < p.1 then (k, v) :: p :: ps else p :: assocSet ps k v

def State.dget (s : State) (die off : Nat) : Word := assocGet (dregDefault off) s.dreg (dkey die off)
def State.dset (s : State) (die off : Nat) (v : Word) : State := { s with dreg := assocSet s.dreg (dkey die off) v }
def State.dgetN (s : State) (die off hi lo : Nat) : Nat := natBits (s.dget die off).toNat hi lo

def offPARTCTL : Nat := 0x0008
def offCTXBASE : Nat := 0x0010
def offACCBASE : Nat := 0x0018
def offTLBINV : Nat := 0x0020
def offERESTART : Nat := 0x0040
def offAGE : Nat := 0x2200
def offGTBASE : Nat := 0x2208
def offCRBASE : Nat := 0x2210
def offCRPTR : Nat := 0x2218
def offGRPBASE : Nat := 0x2220
def offLREJ : Nat := 0x2228
def offTRAPVEC : Nat := 0x3000
def offREPCTL : Nat := 0x3008
def offREPBASE : Nat := 0x3010
def offREPPTR : Nat := 0x3018
def offSECNT : Nat := 0x3020
def offFABBASE : Nat := 0x4000
def offRXSEG : Nat := 0x4100
def offHBCTL : Nat := 0x4200
def offPWRCAP : Nat := 0x4300
def offTQCTL (q : Nat) : Nat := 0x2000 + 8 * q
def offBAR (k : Nat) : Nat := 0x2400 + 8 * k
def offMQCTL (q : Nat) : Nat := 0x2800 + 16 * q
def offMQFLUE (q : Nat) : Nat := 0x2808 + 16 * q
def offEFLOG (core slot : Nat) : Nat := 0x8000 + 0x100 * core + 0x80 * slot

def bootStage (w : Word) : Nat := natBits w.toNat 15 8

/-- Stage 4 of the bring-up is done: the CXL link is trained and BAR0 is available (spec/21 R420); the host reaches the
module from then on (log 105). -/
def State.bar0Up (s : State) : Bool :=
  decide (4 < bootStage s.bootstat) || (bootStage s.bootstat == 4 && natBits s.bootstat.toNat 7 0 == 0)

/-- FENCE closes the hub port; FENCED reads 1 once what the port had accepted is done (spec/18 R350). -/
def State.fenced (s : State) (die : Nat) : Bool := (s.dget die offPARTCTL).getLsbD 8
def State.partOf (s : State) (die : Nat) : Nat := s.dgetN die offPARTCTL 2 0

/-! ### Physical regions (spec/07 R172, spec/03 R87) -/

/-- A place in the on-chip window map. -/
inductive Win where
  | bstore (key off : Nat)
  | l1 (key off : Nat)
  | plane (key : Nat) (bank : Nat) (ember : Bool) (off : Nat)
  | regs (key : Nat) (dup : Bool) (off : Nat)
  | hearth (key : Nat) (shadow : Bool) (off : Nat)
  | copyRegs (key slot : Nat) (shadow : Bool) (off : Nat)
  | flags (key off : Nat)
  | srqf (key off : Nat)
  | scratch (die off : Nat)
  | control (die off : Nat)
deriving DecidableEq, Repr

/-- Where a physical address leads. -/
inductive Loc where
  | dram (die : Nat)
  | remote (dev off : Nat)
  | host
  | win (w : Win)
  | bad (kind : Nat)
deriving DecidableEq, Repr

def inRange (x lo n : Nat) : Bool := decide (lo ≤ x) && decide (x < lo + n)

/-- A core window (spec/03 R87) or a Saffron window (R89); kind 5 outside the listed ranges. -/
def coreWin (key off : Nat) : Loc :=
  if isSaffron key then
    if inRange off 0x800000 0x1000 then .win (.regs key false (off - 0x800000))
    else if inRange off 0x840000 64 then .win (.flags key (off - 0x840000))
    else if inRange off 0x850000 8 then .win (.srqf key (off - 0x850000))
    else .bad 5
  else if off < 0x200000 then .win (.bstore key off)
  else if inRange off 0x200000 0x100000 then .win (.l1 key off)
  else if inRange off 0x300000 0x40000 then .win (.l1 key off)
  else if inRange off 0x400000 0x50000 then .win (.plane key 0 false (off - 0x400000))
  else if inRange off 0x500000 0x50000 then .win (.plane key 0 true (off - 0x500000))
  else if inRange off 0x600000 0x50000 then .win (.plane key 1 false (off - 0x600000))
  else if inRange off 0x700000 0x50000 then .win (.plane key 1 true (off - 0x700000))
  else if inRange off 0x800000 0x1000 then .win (.regs key false (off - 0x800000))
  else if inRange off 0x810000 0x1000 then .win (.regs key true (off - 0x810000))
  else if inRange off 0x820000 0x100 then .win (.hearth key false (off - 0x820000))
  else if inRange off 0x820100 0x100 then .win (.hearth key true (off - 0x820100))
  else if inRange off 0x830000 0x80 then .win (.copyRegs key 0 false (off - 0x830000))
  else if inRange off 0x830080 0x80 then .win (.copyRegs key 0 true (off - 0x830080))
  else if inRange off 0x830100 0x80 then .win (.copyRegs key 1 false (off - 0x830100))
  else if inRange off 0x830180 0x80 then .win (.copyRegs key 1 true (off - 0x830180))
  else if inRange off 0x840000 64 then .win (.flags key (off - 0x840000))
  else .bad 5

/-- The die-level window: cluster scratchpads below 9 × 0x200_0000 (24 MiB of each), control at 0x10_0000_0000 and
above (spec/03 R89, spec/18 R346). -/
def dieWin (die off : Nat) : Loc :=
  if 0x1000000000 ≤ off then .win (.control die (off - 0x1000000000))
  else if off / 0x2000000 < 9 && decide (off % 0x2000000 < 25165824) then .win (.scratch die off)
  else .bad 5

def locate (pa : Nat) : Loc :=
  match pa / 2 ^ 48 % 16 with
  | 0x0 =>
    if natBits pa 47 39 != 0 then .bad 3
    else if 48 ≤ natBits pa 35 30 then .bad 1
    else .dram (natBits pa 38 36)
  | 0x8 => .remote (natBits pa 47 36) (pa % 2 ^ 36)
  | 0xE => .host
  | 0xF =>
    let die := natBits pa 47 45
    let idx := natBits pa 44 38
    let off := pa % 2 ^ 38
    if idx ≤ 80 then coreWin (die * 128 + idx) off
    else if idx = 127 then dieWin die off
    else .bad 5
  | _ => .bad 3

/-- Window address of a core's range, and of a scratchpad offset. -/
def winAddr (key off : Nat) : Nat := 0xF * 2 ^ 48 + keyDie key * 2 ^ 45 + keyIdx key * 2 ^ 38 + off
def scratchAddr (die cl off : Nat) : Nat := 0xF * 2 ^ 48 + die * 2 ^ 45 + 127 * 2 ^ 38 + cl * 0x2000000 + off

/-- The die whose unit serves an address. -/
def locDie : Loc → Option Nat
  | .dram d => some d
  | .win (.scratch d _) => some d
  | .win (.control d _) => some d
  | .win (.bstore k _) | .win (.l1 k _) | .win (.plane k _ _ _) | .win (.regs k _ _) | .win (.hearth k _ _)
  | .win (.copyRegs k _ _ _) | .win (.flags k _) | .win (.srqf k _) => some (keyDie k)
  | _ => none

def winKey : Win → Option Nat
  | .bstore k _ | .l1 k _ | .plane k _ _ _ | .regs k _ _ | .hearth k _ _ | .copyRegs k _ _ _ | .flags k _
  | .srqf k _ => some k
  | _ => none

/-! ### Access tables, partitions, fences (spec/18 R350 to R352) -/

/-- Reads, writes, both, fetches. -/
inductive AKind where
  | rd | wr | rw | fetch
deriving DecidableEq, Repr

def AKind.reads : AKind → Bool
  | .wr => false
  | _ => true
def AKind.writes : AKind → Bool
  | .wr | .rw => true
  | _ => false

/-- The 128-bit entry of an ACCID at a target, read through a die's ACCBASE. -/
def State.accEntry (s : State) (die target accid : Nat) : Nat :=
  rdNat s.mem ((s.dget die offACCBASE).toNat + 0x1000 * target + 16 * accid) 16

/-- Masters of no partition: the host, and the boot and security processor (spec/18 R351). -/
def noPart : Nat := 8
def bspPart : Nat := 9

def Acc.ofHost (accid : Nat) : Acc := { key := 0, ctx := 0, part := noPart, accid := accid, root := 0, priv := true }
/-- The boot and security processor: ACCID 0 (spec/18 R352). -/
def Acc.ofBsp : Acc := { Acc.ofHost 0 with part := bspPart }

def Acc.isBsp (a : Acc) : Bool := a.part == bspPart
def Acc.isHost (a : Acc) : Bool := a.part == noPart || a.isBsp

/-- Refused by fence or partition: kind 4. The control offsets of a fenced die are reached by the host, the boot and security
processor and masters of context 0, whatever their partition; while its hub link has failed by the processor alone (spec/18
R351). -/
def State.pathShut (s : State) (a : Acc) (l : Loc) : Bool :=
  match locDie l with
  -- the host lies beyond the hub port (spec/18 R350)
  | none => l == .host && !a.isHost && s.fenced (keyDie a.key)
  | some d =>
    let ctl := (match l with | .win (.control _ _) => true | _ => false)
    let apart := !a.isHost && a.part != s.partOf d
    if ctl then
      if s.hubDown.getLsbD d then !a.isBsp
      else if s.fenced d then !(a.isHost || a.ctx == 0) else apart
    else
      let cross := a.isHost || keyDie a.key != d
      (cross && (s.fenced d || (!a.isHost && s.fenced (keyDie a.key)))) || apart

/-- Granted by the access tables: kind 1 otherwise (spec/18 R352). The hub's table is read through the master's die, and through the
target's for the host, which stands on none (log 12). -/
def State.granted (s : State) (a : Acc) (k : AKind) (pa : Nat) (l : Loc) : Bool :=
  if a.accid = 0 then true
  else
    match locDie l with
    | none => true
    | some d =>
      let hubOk := if a.isHost then (s.accEntry d 1 a.accid).testBit d
        else keyDie a.key == d || (s.accEntry (keyDie a.key) 1 a.accid).testBit d
      let own := match l with
        | .dram _ =>
          let e := s.accEntry d 0 a.accid
          let g := natBits pa 35 30
          (!k.reads || e.testBit g) && (!k.writes || e.testBit (64 + g))
        | .win (.scratch _ _) => (s.accEntry d 4 a.accid).testBit 2
        | .win (.control _ _) => (s.accEntry d 4 a.accid).testBit 3
        | .win w => (match winKey w with
            | some key => (s.accEntry d 4 a.accid).testBit (if isSaffron key then 1 else 0)
            | none => true)
        | _ => true
      hubOk && own

/-- Who makes an access: the L slot, a copy engine, the Hearth or fetch. -/
inductive By where
  | lslot (strong : Bool) | copy | hearth | fetch
deriving DecidableEq, Repr

/-- Check of one address of an access after translation: the DETAIL kind of a refusal (spec/20 R389), if any. -/
def State.refuse (s : State) (a : Acc) (k : AKind) (by' : By) (pa : Nat) : Option Nat :=
  let l := locate pa
  match l with
  | .bad n => some n
  | .remote _ _ =>
    (match by' with | .copy => none | _ => some 3)
  | .host =>
    (match by' with
      | .lslot true => some 3
      | .hearth => some 3
      | _ => if s.pathShut a l then some 4 else none)
  | .win w =>
    (match by' with
      | .lslot true => some 3
      | .hearth => some 3
      | .lslot false =>
        if winKey w = some a.key then some 5
        else if s.pathShut a l then some 4 else if s.granted a k pa l then none else some 1
      | _ => if s.pathShut a l then some 4 else if s.granted a k pa l then none else some 1)
  | .dram _ => if s.pathShut a l then some 4 else if s.granted a k pa l then none else some 1

/-! ### Context table (spec/18 R341) -/

def State.ctxAt (s : State) (die ctx : Nat) : Nat := (s.dget die offCTXBASE).toNat + 128 * ctx
def State.ctxRoot (s : State) (die ctx : Nat) : Word := BitVec.ofNat 64 (rdNat s.mem (s.ctxAt die ctx) 8)
def State.ctxCfg (s : State) (die ctx : Nat) : Nat := rdNat s.mem (s.ctxAt die ctx + 8) 8

/-- Flue quota of a context (spec/19 R380). -/
def State.ctxQuota (s : State) (die ctx : Nat) : Nat := rdNat s.mem (s.ctxAt die ctx + 0x78) 4

/-- The master that acts for a context on a die, by its entry there. -/
def State.ctxAcc (s : State) (key ctx : Nat) (priv : Bool) : Acc :=
  let cfg := s.ctxCfg (keyDie key) ctx
  { key := key, ctx := ctx, part := natBits cfg 34 32, accid := natBits cfg 15 8,
    root := s.ctxRoot (keyDie key) ctx, priv := priv, quota := s.ctxQuota (keyDie key) ctx }

/-! ### Groups (spec/19 R374, R376) -/

def State.grpAt (s : State) (g : Nat) : Nat := (s.dget 0 offGRPBASE).toNat + 64 * (g % 256)
def State.gctl (s : State) (g : Nat) : Nat := rdNat s.mem (s.grpAt g) 8
def State.gValid (s : State) (g : Nat) : Bool := (s.gctl g).testBit 63

/-- Groups for which this device keeps something open. -/
def State.openGroups (s : State) : List Nat :=
  (s.homes.filter fun h => decide (h.seq < 2 ^ 32)).map (·.g) ++ s.agMail.map (·.1) ++ s.mseq.map (·.1.1) ++ s.absent

/-- A LOST answer with no decision behind it: its status names LOST as the decided outcome and no contributor, the model's choice (log
121). -/
def lostOut (seq : Nat) : AgOut :=
  { own := 3, decided := 3, c := 0, cond := false, missing := false, clamped := false, ncontr := 0, seq := seq, report := 0 }

def AgHome.fresh (g seq tick : Nat) (key : BitVec 32 × Cmb × Fin 4 × Int) : AgHome :=
  { g := g, seq := seq, key := some key, contr := [], t0 := tick, td := 0, expired := false, decided := none, todo := [],
    late := [], copies := [] }

/-- Records that stand past every sequence number begin here: no contribution meets them. -/
def State.pastSeqs (s : State) (g : Nat) : Nat :=
  2 ^ 32 * (1 + ((s.homes.filter fun h => h.g == g).map fun h => h.seq / 2 ^ 32).foldl max 0)

/-- The contributions of a group still under way, as one decided record that answers each LOST. -/
def State.unsent (s : State) (g key : Nat) : List AgHome :=
  match s.agMail.filter fun p => p.1 == g with
  | [] => []
  | p :: ps =>
    [{ AgHome.fresh g key s.tick (p.2.2.site, p.2.2.cmb, p.2.2.tc, p.2.2.t) with
       key := none, decided := some (lostOut key), todo := (p :: ps).map fun q => (q.2.1, lostOut q.2.2.seq) }]

/-- The group's entry reads VALID 0: what it has open is set apart at once, to be decided LOST as the memory stood then, and it starts afresh
when it is re-formed (spec/19 R376, log 71). -/
def State.setApart (s : State) (g : Nat) : State :=
  let k := s.pastSeqs g
  { s with
    homes := (s.homes.map fun h => if h.g == g && h.seq < 2 ^ 32 then { h with seq := h.seq + k } else h) ++ s.unsent g (2 * k)
    agMail := s.agMail.filter fun p => p.1 != g
    mseq := s.mseq.filter fun p => p.1.1 != g
    rptGot := s.rptGot.filter fun p => p.1.1 != g
    absent := s.absent.filter (· != g)
    invSeen := s.invSeen ++ [(g, s.wseq)] }

/-- Open groups whose entry reads VALID 0 at this moment are set apart, whatever the entry reads later. -/
def State.seeInvalid (s : State) : State := ((s.openGroups.filter fun g => !s.gValid g).eraseDups).foldl State.setApart s

/-! ### Write history -/

/-- Byte as it stood at a place of the write order. -/
def byteAt (m : List Host.Cell) (h : List Hist) (n a : Nat) : Byte :=
  -- `hist` is newest first: the last match at or after n holds the value of that time
  h.foldl (fun v e => if e.addr = a && decide (n ≤ e.seq) then e.old else v) (memGet m a)

/-- Memory as it stood at a place of the write order. -/
def State.memBack (s : State) (n : Nat) : List Host.Cell :=
  s.hist.foldl (fun m e => if decide (n ≤ e.seq) then memSet m e.addr e.old else m) s.mem

def natAt (m : List Host.Cell) (h : List Hist) (n a k : Nat) : Nat :=
  leNat ((List.range k).map fun i => byteAt m h n (a + i))

/-! ### Translation (spec/18 R353 to R357) -/

/-- A translated address and its leaf. -/
structure Tr where
  pa  : Nat
  pte : Nat
deriving DecidableEq, Repr

def Tr.cl (t : Tr) : Nat := natBits t.pte 11 10

/-- How a translation ends: a page fault (spec/18 R355), a table behind a closed port or in another partition (R351), or a leaf. -/
inductive Walk where
  | fault | shut
  | leaf (t : Tr)
deriving DecidableEq, Repr

def Walk.tr : Walk → Option Tr
  | .leaf t => some t
  | _ => none

def tableOk (pa : Nat) : Bool :=
  match locate pa with
  | .dram _ => true
  | _ => false

/-- Level of a leaf of size code SZ, and log2 of a level's entry size. -/
def levOfSz (sz : Nat) : Nat := if sz ≤ 4 then 0 else if sz ≤ 8 then 1 else 2
def levBits (lev : Nat) : Nat := 12 + 9 * lev

/-- The form checks of a leaf: spec/18 R354, R355. -/
def leafOk (e lev : Nat) : Bool :=
  let sz := natBits e 5 2
  let pfn := natBits e 57 18
  natBits e 63 58 == 0 && natBits e 13 12 != 3 && natBits e 11 10 != 3 && natBits e 9 9 == 0 &&
  decide (sz ≤ 11) && levOfSz sz == lev && lev != 3 && pfn % 2 ^ (2 * sz) == 0

/-- The permissions an access needs of its leaf: spec/18 R355. -/
def leafGives (e : Nat) (k : AKind) (priv : Bool) : Bool :=
  (match k with
    | .rd => e.testBit 6
    | .wr => e.testBit 7
    | .rw => e.testBit 6 && e.testBit 7
    | .fetch => e.testBit 8) &&
  (priv || !e.testBit 17)

/-- Entries in the run of a leaf `e` of a level (spec/18 R354): a page of 2^(12 + 2·SZ) bytes fills an aligned run. -/
def runLen' (e lev : Nat) : Nat := 2 ^ (12 + 2 * natBits e 5 2 - levBits lev)

/-- A leaf whose run takes in the entry at `ea`, as it stood at place n: its address lies in the same table. -/
def claims (s : State) (n lev ea a : Nat) : Option Nat :=
  let e := natAt s.mem s.hist n a 8
  let k := 8 * runLen' e lev
  if e.testBit 0 && e.testBit 1 && leafOk e lev && a / k == ea / k then some e else none

/-- What stood at place n in the other entries of a run that the entry at `ea` belongs to: those of its own run, and leaves whose
run takes it in. An access may be translated by any of them where they differ (spec/18 R355). Only entries that were ever
written can claim it. -/
def runOthers (s : State) (n lev ea e : Nat) : List Nat :=
  let k := if e.testBit 0 && e.testBit 1 && leafOk e lev then runLen' e lev else 1
  let base := ea / (8 * k) * (8 * k)
  let own := if k ≤ 1 then [] else (List.range k).map fun i => natAt s.mem s.hist n (base + 8 * i) 8
  let written := (s.mem.map (·.1) ++ s.hist.map (·.addr)).filter fun a => a % 8 == 0 && a / 4096 == ea / 4096 && a != ea
  (own ++ written.filterMap (claims s n lev ea)).filter (· != e)

/-- One walk over tables as they stood at place n of the write order: the leaf that translates, its permissions unasked. `shut` says which
tables the path to them keeps from the walk. -/
def walkAt (s : State) (shut : Loc → Bool) (n tag : Nat) (va : Nat) : Nat → Nat → Walk
  | 0, _ => .fault
  | lev + 1, table =>
    if !tableOk table then .fault
    else if shut (locate table) then .shut
    else
      let ea := table + 8 * natBits va (12 + 9 * lev + 8) (12 + 9 * lev)
      let e0 := natAt s.mem s.hist n ea 8
      let e := choose (s.freeNat (tag + 2 ^ 58)) e0 (runOthers s n lev ea e0)
      if !e.testBit 0 then .fault
      else if e.testBit 1 then
        if leafOk e lev then .leaf { pa := natBits e 57 18 * 2 ^ 12 + va % 2 ^ (12 + 2 * natBits e 5 2), pte := e } else .fault
      else if natBits e 63 58 != 0 || natBits e 17 2 != 0 then .fault
      else walkAt s shut n tag va lev (natBits e 57 18 * 2 ^ 12)

/-- No table is out of reach: a walk that a TLB has made already. -/
def noShut (_ : Loc) : Bool := false

/-- Addresses of the entries that walks of an address from some tables read, now or at a place from `floor` on. -/
def walkPath (s : State) (floor va : Nat) : Nat → List Nat → List Nat
  | 0, _ => []
  | lev + 1, tables =>
    let eas := (tables.filter tableOk).map (· + 8 * natBits va (12 + 9 * lev + 8) (12 + 9 * lev))
    let vals := eas.flatMap fun ea => rdNat s.mem ea 8 ::
      ((s.hist.filter fun h => decide (floor ≤ h.seq) && inRange h.addr ea 8).map fun h => natAt s.mem s.hist h.seq ea 8)
    eas ++ walkPath s floor va lev ((vals.filter fun e => e.testBit 0 && !e.testBit 1).map fun e => natBits e 57 18 * 2 ^ 12).eraseDups

def canonical (va : Word) : Bool := natBits va.toNat 63 47 == 0 || natBits va.toNat 63 47 == 2 ^ 17 - 1

/-- Completed invalidations are kept as entries of `tlb` whose `pte` is the place in the write order: no older table
entry serves a translation they match (spec/18 R356). -/
def State.tlbFloor (s : State) (ctx va : Nat) : Nat :=
  s.tlb.foldl (fun f e =>
    if e.ctx = ctx && (e.lev = 99 || va / 2 ^ (12 + 2 * e.lev) = e.va / 2 ^ (12 + 2 * e.lev)) then max f e.pte.toNat
    else f) 0

def rootOf (w : Nat) : Nat := natBits w 51 12 * 2 ^ 12

/-- Page-table roots that a context's entry on some die held at a place from `floor` on: tasks that ran then filled the TLBs. -/
def State.oldRoots (s : State) (ctx floor : Nat) : List Nat :=
  (List.range 8).flatMap fun d =>
    let ea := s.ctxAt d ctx
    (s.hist.filter fun h => decide (floor ≤ h.seq) && inRange h.addr ea 8).map fun h => rootOf (natAt s.mem s.hist h.seq ea 8)

/-- Leaves that a TLB may still hold for an address: those a walk found since the last completed invalidation, from the present
root or one the context had then (spec/18 R356). -/
def State.stale (s : State) (a : Acc) (v tag : Nat) : List Tr :=
  if s.hist.isEmpty then []
  else
    let root := rootOf a.root.toNat
    let floor := s.tlbFloor a.ctx v
    let roots := ((s.oldRoots a.ctx floor).filter (· != root)).eraseDups
    let path := walkPath s floor v 4 (root :: roots)
    let ns := (s.hist.filter fun h => decide (floor ≤ h.seq) && path.any fun p => p / 4096 == h.addr / 4096).map (·.seq)
    (ns.filterMap fun n => (walkAt s noShut n tag v 4 root).tr) ++
      roots.flatMap fun r => (s.wseq :: ns).filterMap fun n => (walkAt s noShut n tag v 4 r).tr

/-- What a walk of a canonical virtual address finds now, and what else a TLB may still hold: leaves of older tables, and where the walk
meets a closed path (R351) the leaf behind it. -/
def State.walks (s : State) (a : Acc) (v tag : Nat) : Walk × List Walk :=
  let root := rootOf a.root.toNat
  let fresh := walkAt s (s.pathShut a) s.wseq tag v 4 root
  let behind := if fresh = .shut then (walkAt s noShut s.wseq tag v 4 root).tr.toList else []
  (fresh, ((behind ++ s.stale a v tag).map .leaf).filter (· != fresh))

/-- The permissions of a leaf are asked of it. -/
def Walk.permit (w : Walk) (k : AKind) (priv : Bool) : Walk :=
  match w with
  | .leaf t => if leafGives t.pte k priv then w else .fault
  | _ => w

/-- Translate a canonical virtual address: by a walk now, or by a leaf that a TLB still holds, as a free value picks (spec/18 R355,
R356). -/
def State.translate (s : State) (a : Acc) (k : AKind) (va : Word) (tag : Nat) : Walk :=
  let w := s.walks a (va.toNat % 2 ^ 48) tag
  (choose (s.freeNat tag) w.1 w.2).permit k a.priv

/-- Check one address after its translation: its physical address and leaf, or the DETAIL kind. -/
def State.reach (s : State) (a : Acc) (k : AKind) (by' : By) : Walk → Except Nat Tr
  | .fault => .error 0
  | .shut => .error 4
  | .leaf t => match s.refuse a k by' t.pa with
    | some n => .error n
    | none => .ok t

/-- Translate and check one address. -/
def State.access (s : State) (a : Acc) (k : AKind) (by' : By) (va : Word) (tag : Nat) : Except Nat Tr :=
  if !canonical va then .error 2 else s.reach a k by' (s.translate a k va tag)

/-- The page of an address whose leaf is one of its translations. -/
def Tr.page (t : Tr) (v : Nat) : Nat := v / 2 ^ (12 + 2 * natBits t.pte 5 2)

/-- The rank that a free value gives a page and its leaf among the translations that serve an engine. -/
def State.leafRank (s : State) (v tag : Nat) : Walk → Nat
  | .leaf t => Config.leafRank s.ctr (t.page v) t.pte
  | _ => s.freeNat tag

/-- Translate for an engine that translates each page once (spec/10 R261): whichever byte of the page it meets, the page's leaf ranks
the same, and so serves all of them. -/
def State.translateOnce (s : State) (a : Acc) (k : AKind) (va : Word) (tag : Nat) : Walk :=
  let v := va.toNat % 2 ^ 48
  let w := s.walks a v tag
  (w.2.foldl (fun b x => if s.leafRank v tag b < s.leafRank v tag x then x else b) w.1).permit k a.priv

end Sys2Proof.Machine
end

