-- ==== Sys2Proof/Machine/Access.lean ====
section
/-!
DEFINITION. Reads and writes at their home: memory, the on-chip windows (spec/03 R87 to R89), the die control registers
(spec/18 R346 to R359, spec/19 R360 to R379, spec/20 R384, R403, spec/21 R413 to R423), flags and what a change of a flag
wakes (spec/03 R80, spec/07 R192, spec/10 R269).
-/
namespace Sys2Proof.Machine

/-! ### Tasks changing state -/

/-- Move the tasks that satisfy `p` to the head of the queue order, keeping their order (spec/19 R367). -/
def toHead (p : Task → Bool) (ts : List Task) : List Task := ts.filter p ++ ts.filter (fun t => !p t)
def toTail (p : Task → Bool) (ts : List Task) : List Task := ts.filter (fun t => !p t) ++ ts.filter p

/-- A WAITING task whose wait is over becomes READY at the head of its queue; one whose save still runs becomes READY
when the save completes (spec/19 R377). -/
def State.wake (s : State) (p : TWait → Bool) : State :=
  let hit := fun t : Task => t.wait != .none && p t.wait
  let ts := s.tasks.map fun t =>
    if hit t then
      let w := t.state == .waiting
      { t with wait := .none, state := (if w then .ready else t.state), ready := (if w then s.tick else t.ready) }
    else t
  let ids := (s.tasks.filter hit).map (·.id)
  { s with tasks := toHead (fun t => ids.contains t.id) ts }

/-! ### Flags -/

/-- Bytes of this core's stores that are withheld, or released and not yet at home, youngest first: what an engine that starts now
sees of them (spec/07 R175). -/
def Core.ownBytes (c : Core) : List (Nat × Byte) :=
  let r := c.rel.flatMap fun e => match e with
    | .store p d _ => (List.range d.length).map fun i => (p + i, (d[i]?).getD 0)
    | _ => []
  let w := c.whb.flatMap fun e => match e with
    | .store _ p d _ _ => (List.range d.length).map fun i => (p + i, (d[i]?).getD 0)
    | _ => []
  (r ++ w).reverse

/-- Start an armed or logged copy (spec/10 R269, spec/18 R359); it reads its sources no older than this moment (spec/14
R335). -/
def fireCopy (s : State) (ord : Nat) (c : Copy) : Copy :=
  let own := (s.coreOf c.acc.key).ownBytes
  { c with state := .running, ord := ord, hseq := s.wseq, acq := s.wseq, fwd := own, onWay := own.map (·.1), rest := none, at0 := none,
           wrote := [], upTo := 0, cut := false }

/-- A copy of a core starts now: the next in the order of starts, which is the module's. -/
def State.fire (s : State) (key id : Nat) : State :=
  { s.modCore key (fun c => { c with copies := c.copies.map fun y => if y.id == id then fireCopy s s.nextId y else y }) with
    nextId := s.nextId + 1 }

/-- A copy holds its banks from its start to the write of its token; one that is armed takes them as it fires (spec/10 R259, R269). -/
def Copy.holds (x : Copy) : Bool :=
  x.state == .running || (x.state == .ended && !x.tokDone) || (x.op == .net && x.state != .ended)

/-- Banks held in a cluster by the operations and copies of its cores. -/
def State.bankHeld (s : State) (key : Nat) : BitVec 64 :=
  (s.keys.filter fun k => k / 8 == key / 8 && decide (keyIdx k < 72)).foldl (fun (m : BitVec 64) k =>
    let c := s.coreOf k
    let m := c.hops.foldl (fun (m : BitVec 64) o => m ||| o.banks) m
    c.copies.foldl (fun (m : BitVec 64) x =>
      if x.holds then m ||| x.banks else m) m) 0

/-- Copies in flight in a slot: at most 16 (spec/10 R260). -/
def Core.inFlight (c : Core) (slot : Nat) : Nat := (c.copies.filter fun y => y.slot == slot && y.state == .running).length

/-- A copy in an arm entry may start: its threshold was met, and its banks and its slot are free. -/
def State.armFree (s : State) (key : Nat) (x : Copy) : Bool :=
  x.state == .armed && x.hit && (x.op == .net || s.bankHeld key &&& x.banks == 0) && decide ((s.coreOf key).inFlight x.slot < 16)

/-- An armed copy whose threshold is met fires at once, unless its banks or its slot are taken (spec/10 R269). -/
def State.fireMet (s : State) (key id : Nat) : State :=
  if (s.coreOf key).copies.any fun y => y.id == id && y.op == .arm && s.armFree key y then s.fire key id else s

/-- The threshold of an armed copy is met as a flag takes a value. -/
def Copy.met (x : Copy) (f : Nat) (v : BitVec 16) : Bool :=
  x.state == .armed && x.flag == f && decide (x.thr ≤ v.toNat) && !x.hit

/-- Set a flag: armed copies whose threshold it meets fire, in the order they were armed (spec/10 R270), and tasks waiting for it wake. -/
def State.setFlag (s : State) (key f : Nat) (v : BitVec 16) : State :=
  let c := s.coreOf key
  let cps := c.copies.map fun x => if x.met f v then { x with hit := true, hitAt := s.ctr } else x
  let flags := if h : f < 32 then c.flags.set f v else c.flags
  let s := s.setCore key { c with flags := flags, fseq := c.fseq.setIfInBounds f s.wseq, copies := cps }
  let s := ((c.copies.filter (·.met f v)).map (·.id)).foldl (fun s i => s.fireMet key i) s
  s.wake fun w => match w with
    | .flag k g thr => k == key && g == f && decide (thr ≤ v.toNat)
    | _ => false

def Core.flag (c : Core) (f : Nat) : BitVec 16 := (c.flags[f]?).getD 0

/-- Deliver a post: add, saturating at 0xFFFF, or set (spec/03 R80, spec/07 R188). -/
def State.doPost (s : State) (p : Post) : State :=
  let old := ((s.coreOf p.key).flag p.flag).toNat
  let v := if p.set then p.amt else min 65535 (old + p.amt)
  s.setFlag p.key p.flag (BitVec.ofNat 16 (min 65535 v))

/-! ### Memory bytes with history -/

/-- A write takes its place at a byte's home (spec/12 R317). -/
def State.wrByte (s : State) (a : Nat) (v : Byte) : State :=
  { s with
    mem := memSet s.mem a v
    hist := { seq := s.wseq, addr := a, old := memGet s.mem a, tick := s.tick, step := s.ctr } :: s.hist
    wseq := s.wseq + 1 }

def State.wrBytes (s : State) : Nat → List Byte → State
  | _, [] => s
  | a, b :: bs => (s.wrByte a b).wrBytes (a + 1) bs

def State.wrNat (s : State) (a n v : Nat) : State := s.wrBytes a (leBytes n v)

/-! ### Register pages and engine registers (spec/03 R86 to R88) -/

def vget {n : Nat} (v : Vector Word n) (i : Nat) : Word := (v[i]?).getD 0
def vset {n : Nat} (v : Vector Word n) (i : Nat) (x : Word) : Vector Word n := v.setIfInBounds i x

def boolW (b : Bool) (k : Nat) : Nat := if b then 2 ^ k else 0

/-- FST's reserved bits stay zero by its width. -/
def Live.fstWord (l : Live) : Word := l.fst.setWidth 64

def TBuf.word (t : TBuf) : Word :=
  BitVec.ofNat 64 (t.addr.toNat + boolW t.link 62 + boolW t.valid 63)

/-- The address a transfer goes to: a canonical one from its 48 bits (spec/07 R195, R196). -/
def TBuf.target (t : TBuf) : Word :=
  match t.top with
  | none => t.addr.signExtend 64
  | some h => h ++ t.addr

/-- The 64-bit word at offset 8i of a register page: spec/03 R88. x and p stand there by their physical numbers, whatever the rotation: the
model's choice (log 115). -/
def Live.page (l : Live) (tick : Nat) (i : Nat) : Word :=
  if i < 56 then (if i = 0 then 0 else vget l.x i)
  else if i = 56 then l.sq
  else if i = 57 then l.lq
  else if i = 58 then l.gq
  else if i = 59 then BitVec.ofNat 64 tick
  else if i = 64 then BitVec.ofNat 64 (l.p.toNat / 2 * 2 + 1)
  else if inRange i 65 4 then (((l.lc[i - 65]?).getD 0).setWidth 64)
  else if i = 69 then BitVec.ofNat 64 (l.xwo.val + l.pwo.val * 256 + boolW l.stage 16)
  else if i = 70 then l.fstWord
  else if inRange i 71 4 then
    BitVec.ofNat 64 (((l.fm[2 * (i - 71)]?).getD 0).toNat + ((l.fm[2 * (i - 71) + 1]?).getD 0).toNat * 2 ^ 32)
  else if inRange i 80 16 then vget l.sg (i - 80)
  else if inRange i 96 8 then ((l.tb[i - 96]?).getD {}).word
  else if i = 104 then l.portS
  else if i = 105 then l.portL
  else if i = 106 then vget l.portV 0
  else if i = 107 then vget l.portV 1
  else if i = 108 then l.portM
  else if i = 109 then vget l.portC 0
  else if i = 110 then vget l.portC 1
  else 0

/-- RSV bits of a format register read zero: spec/02 R41. -/
def fmMask (w : BitVec 32) : BitVec 32 := w &&& 0x00FF371F

/-- V operand port: RSV bits 31:9 stay zero (spec/04 R111). -/
def portVMask (w : Word) : Word := w &&& 0xFFFFFFFF000001FF

/-- Store a word of a register page. A write of a token register clears a kept fault status. -/
def Live.setPage (l : Live) (i : Nat) (v : Word) : Live :=
  if i < 56 then
    (if i = 0 then l else { l with x := vset l.x i v, ftok := l.ftok.filter (·.reg != i) })
  else if i = 56 then { l with sq := v }
  else if i = 57 then { l with lq := v }
  else if i = 58 then { l with gq := v }
  else if i = 64 then { l with p := v.setWidth 16 }
  else if inRange i 65 4 then { l with lc := l.lc.setIfInBounds (i - 65) (v.setWidth 32) }
  else if i = 69 then
    let xo : Fin 32 := ⟨v.toNat % 32, Nat.mod_lt _ (by decide)⟩
    let po : Fin 8 := ⟨v.toNat / 256 % 8, Nat.mod_lt _ (by decide)⟩
    { l with xwo := xo, pwo := po, stage := v.getLsbD 16 }
  else if i = 70 then { l with fst := v.setWidth 16 }
  else if inRange i 71 4 then
    let fm := l.fm.setIfInBounds (2 * (i - 71)) (fmMask (v.setWidth 32))
    { l with fm := fm.setIfInBounds (2 * (i - 71) + 1) (fmMask ((v >>> 32).setWidth 32)) }
  else if inRange i 80 16 then { l with sg := vset l.sg (i - 80) v }
  else if inRange i 96 8 then
    { l with tb := l.tb.setIfInBounds (i - 96) { valid := v.getLsbD 63, link := v.getLsbD 62, addr := v.setWidth 48 } }
  else if i = 104 then { l with portS := v }
  else if i = 105 then { l with portL := v }
  else if i = 106 then { l with portV := vset l.portV 0 (portVMask v) }
  else if i = 107 then { l with portV := vset l.portV 1 (portVMask v) }
  else if i = 108 then { l with portM := v }
  else if i = 109 then { l with portC := vset l.portC 0 v }
  else if i = 110 then { l with portC := vset l.portC 1 v }
  else l

/-- Bits that a Hearth register holds: its RSV fields read zero (spec/09 R228 to R232). -/
def hearthMask (er : Nat) : Word :=
  match er with
  | 0 => 0xC000FFFFFFFFFFFF
  | 1 => 0x000000007FFFFFFF
  | 2 => 0x000000007FFF01FF
  | 3 => 0x00000000000001FF
  | 4 => 0x000000000000FFFF
  | 5 => 0x0000000000000077
  | 6 => 0x8000FFFFFFFFFFFF
  | 7 => 0x8000000001FFFFFF
  | 8 => 0x00000000000101FF
  | 9 => 0xFFFFFFFFFFFFFFFF
  | 10 => 0x000000000000003F
  | 11 => 0x0000FFFFFFFFFFFF
  | 12 => 0xFFFFFFFFFFFFFFFF
  | 13 => 0xC0FF0FFF01FFFFFF
  | _ => 0

/-- Bits that a copy register holds: spec/10 R252 to R254. -/
def copyMask (er : Nat) : Word :=
  match er with
  | 0 | 1 | 4 => 0xC000FFFFFFFFFFFF
  | 2 => 0x000001FFFFFFFFFF
  | 3 => 0xFFFFFFFFFFFFFFFF
  | 5 => 0x00000000FFFFFFFF
  | 6 => 0xFFFFFFFFFFFFFFFF
  | 7 => 0xFF00E0FF000F0E00
  | 8 => 0xFFFFFFFFFFFFFFFF
  | _ => 0

/-! ### Plane rows (spec/03 R82, R87) -/

def rowGet (c : Core) (r : Nat) : Row :=
  match c.rows.find? (fun p => p.1 = r) with
  | some p => p.2
  | none => Config.undefRow c.epoch r

def rowSet (c : Core) (r : Nat) (v : Row) : Core := { c with rows := assocSet c.rows r v }

/-- A direct write of a row by a copy or a window: a V operation of the same issue cycle may still read it as it stood
(spec/08 R210). -/
def rowDirect (c : Core) (r : Nat) (v : Row) : Core :=
  rowSet (if c.rowOld.any (·.1 == r) then c else { c with rowOld := (r, rowGet c r) :: c.rowOld }) r v

/-- Lanes of a row write that keep the value of an overlapping write already landed, chosen lane by lane. -/
def keepLanes (bits : Row) (clash : Row) (lane : Nat) : Row :=
  let n := 10240 / max lane 1
  (List.range n).foldl (fun (m : Row) i =>
    let lm : Row := BitVec.ofNat 10240 ((2 ^ lane - 1) * 2 ^ (lane * i))
    if clash &&& lm != 0 && bits.getLsbD i then m ||| lm else m) 0

def emberGet (c : Core) (r : Nat) : Ember := assocGet {} c.ember r
def emberSet (c : Core) (r : Nat) (e : Ember) : Core := { c with ember := assocSet c.ember r e }

def rowByte (r : Row) (i : Nat) : Byte := BitVec.ofNat 8 (r.toNat >>> (8 * i))
def setField (w : Nat) (r : Nat) (i : Nat) (v : Nat) : Nat :=
  r - (((r >>> (w * i)) % 2 ^ w) <<< (w * i)) + ((v % 2 ^ w) <<< (w * i))
def rowSetByte (r : Row) (i : Nat) (b : Byte) : Row := BitVec.ofNat 10240 (setField 8 r.toNat i b.toNat)

def bget (c : Core) (off : Nat) : Byte := cellGet (Config.undefByte c.epoch off) c.bstore off
def bset (c : Core) (off : Nat) (v : Byte) : Core := { c with bstore := cellSet true c.bstore off v }

/-! ### Control registers: reads -/

/-- The core's slot-to-engine map with its derived bindings: spec/18 R347. -/
def semapWord (b : BitVec 18) : Word :=
  let v := (b.extractLsb' 0 3).toNat
  let c := (b.extractLsb' 4 3).toNat
  let lowest := fun m : Nat => if m % 2 = 1 then 0 else if m / 2 % 2 = 1 then 1 else if m / 4 % 2 = 1 then 2 else 0
  let second := fun m : Nat => let r := m - 2 ^ lowest m; if m = 0 || r = 0 then lowest m else lowest r
  let split := fun m : Nat => m == 1 || m == 2 || m == 4
  BitVec.ofNat 64 (v + c * 16 + lowest v * 2 ^ 8 + second v * 2 ^ 10 + lowest c * 2 ^ 12 + second c * 2 ^ 14 +
    boolW (split v) 16 + boolW (split c) 17)

/-- Words of the capability list, two to an entry (spec/18 R348, R349). -/
def capWord (links : BitVec 16) (die i : Nat) : Word :=
  let e := i / 2
  if 8 ≤ e then 0
  else if i % 2 = 0 then BitVec.ofNat 64 ((e + 1) + 2 ^ 32 + (if e = 7 then 0 else (e + 1) * 2 ^ 40))
  else if e = 4 then BitVec.ofNat 64 (links.toNat / 2 ^ (2 * die) % 4) else 0

/-- Tasks a queue, or a die, holds (spec/19 R366). -/
def State.queueCount (s : State) (die q : Nat) : Nat :=
  (s.tasks.filter fun t => t.die == die && t.queue == q).length
def State.dieCount (s : State) (die : Nat) : Nat := (s.tasks.filter fun t => t.die == die).length

/-- System software may open a die: its hub link stands (spec/21 R411), and one that ran too hot is below 95 °C by now, which a free value
says (R424, log 99). -/
def State.mayOpen (s : State) (die : Nat) : Bool :=
  !s.hubDown.getLsbD die && (!s.hot.getLsbD die || s.free 1 (2 ^ 60 + die) == 1#1)

def State.mq (s : State) (die q : Nat) : MQ :=
  (s.mqs.find? fun m => m.die = die && m.q = q).getD { die := die, q := q, ring := [], flue := [] }
def State.setMq (s : State) (m : MQ) : State :=
  { s with mqs := m :: s.mqs.filter fun x => !(x.die == m.die && x.q == m.q) }

/-- A restarted copy runs on a die (spec/18 R359). -/
def State.restarting (s : State) (die : Nat) : Bool :=
  s.keys.any fun k => keyDie k == die && (s.coreOf k).copies.any fun x => decide (0 < x.row0) && (x.state == .running || x.state == .armed)

/-- A control register's word at an aligned offset; unoccupied offsets read zero (spec/18 R346). -/
def State.ctlRead (s : State) (die off : Nat) : Word :=
  if 2 ^ 20 ≤ off then 0
  else if off = 0 then BitVec.ofNat 64 (die + s.device * 16)
  else if inRange off 0x100 (8 * 72) then semapWord (s.coreOf (die * 128 + (off - 0x100) / 8)).semap
  else if inRange off 0x1000 128 then capWord s.links die ((off - 0x1000) / 8)
  else if inRange off 0x2000 512 then
    let w := s.dget die off
    BitVec.ofNat 64 (w.toNat + s.queueCount die ((off - 0x2000) / 8) * 2 ^ 32)
  else if inRange off 0x2800 2048 && off % 16 == 0 then
    let m := s.mq die ((off - 0x2800) / 16)
    BitVec.ofNat 64 ((s.dget die off).toNat + m.ring.length * 2 ^ 32 + m.flue.length)
  else if off = offERESTART then s.dget die off ||| BitVec.ofNat 64 (boolW (s.restarting die) 62)
  else s.dget die off

/-! ### Control registers: writes -/

/-- An agent that runs no task: spec/03 R87, spec/20 R390. -/
def Core.idle (c : Core) : Bool :=
  match c.phase with
  | .idle | .handler | .stopped => true
  | _ => false

/-- RW bits of the registers without behaviour of their own; none for offsets no register occupies. -/
def ctlMask (off : Nat) : Option Word :=
  if off = offCTXBASE || off = offACCBASE then some 0xFFFFFFFFFFFFF000
  else if off = offAGE then some 0xFFFFFFFF
  else if off = offGTBASE then some 0x000FFFFFFFFFF000
  else if off = offGRPBASE then some 0x000FFFFFFFFFC000
  else if off = offLREJ then some 0xFFFFFFFFFFFFFFFF
  else if off = offTRAPVEC then some 0x8000FFFFFFFFFFFC
  else if off = offREPBASE then some 0x000FFFFFFFFFF01F
  else if off = offREPPTR then some 0xFFFFFFFFFFFFFFFF
  else if off = offFABBASE then some 0xFFFFFFFFFFFFF000
  else if inRange off offRXSEG 256 then
    (if off % 16 = 0 then some 0xC000FFFFFFFFFFFF else some 0xFFFFFFFFFFFFFFDF)
  else if off = offHBCTL then some 0xFFFFFFFFFF
  else none

def mergeMask (m old new : Word) : Word := (old &&& ~~~m) ||| (new &&& m)

/-- Apply a change to every agent. -/
def State.mapCores (s : State) (f : Core → Core) : State :=
  { s with core := f s.core, parked := s.parked.map fun p => (p.1, f p.2) }

/-- A reduction in progress over a die that is lost, or of a core on it, ends with −4 at its row in progress (spec/10 R275): none of its
bytes is to be seen any more in part. -/
def cutReduce (die : Nat) (x : Copy) : Copy :=
  if x.op == .mred && x.state == .running && x.early.isNone &&
     (natBits (vget x.img 7).toNat (56 + die) (56 + die) == 1 || keyDie x.acc.key == die)
  then { x with early := some (-4), cut := true } else x

/-- Fence or open a die (spec/18 R350, log 98): the hub port closes, and the die stands among those being fenced until what the port had
accepted is done and every member on the die is lost (R351). An opened die's cores run again (spec/21 R424). -/
def State.setFence (s : State) (die : Nat) (v : Bool) : State :=
  let w := s.dget die offPARTCTL
  let bit : BitVec 8 := 1 <<< die
  let s : State :=
    if v then { s.mapCores (fun c => { c with copies := c.copies.map (cutReduce die) }) with fencing := s.fencing ||| bit }
    else { s with hot := s.hot &&& ~~~bit, fencing := s.fencing &&& ~~~bit }
  s.dset die offPARTCTL (if v then w ||| 0x100 else mergeMask 0x300 w 0)

/-- Make READY every QUEUED task of a queue whose activation has completed (spec/19 R366). -/
def State.enableQueue (s : State) (die q : Nat) : State :=
  let hit := fun t : Task => t.die == die && t.queue == q && t.state == .queued && t.act
  let ids := (s.tasks.filter hit).map (·.id)
  { s with tasks := toTail (fun t => ids.contains t.id) (s.tasks.map fun t =>
      if hit t then { t with state := .ready, ready := s.tick } else t) }

/-- The engine fault log's words (spec/18 R358). -/
def State.efInfo (s : State) (die core slot : Nat) : Word := s.dget die (offEFLOG core slot + 0x58)

def opOfCode (n : Nat) : Option CopyOp :=
  match n with
  | 0x08 => some .go | 0x09 => some .gath | 0x0A => some .scat | 0x0B => some .fill | 0x0C => some .bcast
  | 0x0D => some .dx | 0x0E => some .pfd | 0x10 => some .arm | 0x11 => some .mred | 0x12 => some .kvc
  | 0x13 => some .net | 0x14 => some .bgo | _ => none

def CopyOp.code : CopyOp → Nat
  | .go => 0x08 | .gath => 0x09 | .scat => 0x0A | .fill => 0x0B | .bcast => 0x0C | .dx => 0x0D | .pfd => 0x0E
  | .arm => 0x10 | .mred => 0x11 | .kvc => 0x12 | .net => 0x13 | .bgo => 0x14

/-- The copy that a write of ERESTART restarts, where all that R359 asks for holds. -/
def State.restartable (s : State) (die : Nat) (w : Word) : Option Copy :=
  let core := natBits w.toNat 6 0
  let slot := natBits w.toNat 7 7
  let info := s.efInfo die core slot
  let okOp := match opOfCode (natBits info.toNat 55 48) with
    | some .go | some .gath | some .scat | some .fill | some .dx => true
    | _ => false
  let off := fun x : Copy => s.tasks.any (fun t => t.id + 1 == x.task && t.state == .saved) ||
    s.keys.any fun k => (s.coreOf k).phase == .handler && (s.coreOf k).task.map (· + 1) == some x.task
  if w.getLsbD 63 && !s.restarting die && info.getLsbD 63 && okOp then
    ((s.coreOf (die * 128 + core)).copies.find? fun x => x.slot == slot && x.state == .ended && x.logged).filter off
  else none

/-- Restart a copy that a slot's log holds (spec/18 R359). It takes its banks: while another operation holds them it waits in the state of a
copy whose threshold was met. The copy keeps the record it ended with, so that its whole byte count, its token and, where CFLAG.EN is 1, its
landing post come out once. -/
def State.erestart (s : State) (die : Nat) (w : Word) (x : Copy) : State :=
  let core := natBits w.toNat 6 0
  let slot := natBits w.toNat 7 7
  let key := die * 128 + core
  let s := s.dset die (offEFLOG core slot + 0x58) (s.efInfo die core slot &&& 0x7FFFFFFFFFFFFFFF)
  let done := natBits (s.dget die (offEFLOG core slot + 0x48)).toNat 31 0
  let g := fun l : List FTok => l.filter fun t => some t.reg != x.tok
  let f := fun l : Live => { l with ftok := g l.ftok }
  let s := { s with tasks := s.tasks.map fun t =>
    if t.id + 1 == x.task then { t with held := t.held.map fun h => { h with ftok := g h.ftok } } else t }
  let free := s.bankHeld key &&& x.banks == 0
  let r := { fireCopy s s.nextId x with
    state := if free then .running else .armed, hit := true, hitAt := s.ctr, row0 := done + 1, disc := false, status := 0, early := none
    tokDone := false, logged := false, land := if (vget x.img 5).getLsbD 31 then some true else none }
  let s := { s.modCore key (fun c => { c with copies := c.copies.map fun y => if y.id == x.id then r else y }) with nextId := s.nextId + 1 }
  s.mapCores fun c => if c.task.map (· + 1) == some x.task then { c with live := f c.live, dup := f c.dup } else c

/-- Write a control register: a mask of the bytes written and their value, by the access codes of its fields
(spec/00 R5). -/
def State.ctlWrite (s : State) (die off : Nat) (m v : Word) : State :=
  let old := s.dget die off
  if 2 ^ 20 ≤ off then s
  else if off = offPARTCTL then
    let w := mergeMask (m &&& 0x107) old v
    let s := if old.getLsbD 9 then s.dset die off (mergeMask 0x7 old w) else s
    if m.getLsbD 8 && (v.getLsbD 8 || s.mayOpen die) then s.setFence die (v.getLsbD 8) else s
  else if off = offTLBINV then
    if old.getLsbD 0 then s else s.dset die off (mergeMask (m &&& 0xFFFFFFFFFFFFFF03) old v)
  else if off = offERESTART then
    let w := mergeMask (m &&& 0x80000000000000FF) old v
    let s1 := s.dset die off (mergeMask (m &&& 0xFF) old v)
    -- a write with GO 1 whose conditions do not hold is ignored (R359)
    if w.getLsbD 63 then match s.restartable die w with
      | some x => s1.erestart die w x
      | none => s
    else s1
  else if inRange off 0x100 (8 * 72) then
    let key := die * 128 + (off - 0x100) / 8
    let c := s.coreOf key
    if c.idle then
      s.setCore key { c with semap := (mergeMask (m &&& 0x77) (c.semap.setWidth 64) v).setWidth 18 }
    else s
  else if inRange off 0x2000 512 then
    let w := mergeMask (m &&& 0xC000000000001FFF) old v
    let cap := w.toNat % 8192
    let w := BitVec.ofNat 64 (w.toNat - cap + min cap 4096)
    let s := s.dset die off w
    if w.getLsbD 63 then s.enableQueue die ((off - 0x2000) / 8) else s
  else if off = offCRBASE then
    let w := mergeMask (m &&& 0x000FFFFFFFFFF01F) old v
    s.dset die off (if m.getLsbD 5 && v.getLsbD 5 then w &&& ~~~0x20 else w)
  else if off = offCRPTR then s.dset die off (mergeMask (m &&& 0xFFFFFFFF) old v)
  else if inRange off 0x2400 512 then
    if natBits old.toNat 31 16 != 0 then s
    else s.dset die off (mergeMask (m &&& 0xFFFF00000000FFFF) old v)
  else if inRange off 0x2800 2048 then
    let q := (off - 0x2800) / 16
    if off % 16 = 0 then s.dset die off (mergeMask (m &&& 0x8000000000000000) old v)
    else
      let mq := s.mq die q
      if mq.ring.isEmpty && mq.flue.isEmpty then
        (s.dset die off (mergeMask (m &&& 0x000FFFFFFFFFF01F) old v)).setMq { mq with fhead := 0 }
      else s
  else if off = offREPCTL then
    let mode := natBits v.toNat 1 0
    let w := mergeMask (m &&& 0x8) old v
    let w := if m.getLsbD 0 && mode != 3 then mergeMask 0x3 w v else w
    s.dset die off (if m.getLsbD 2 && v.getLsbD 2 then w &&& ~~~0x4 else w)
  else if off = offPWRCAP then
    let n := natBits (mergeMask (m &&& 0xFFFF) old v).toNat 15 0
    if 2000 ≤ n && n ≤ 6500 then s.dset die off (BitVec.ofNat 64 n) else s
  else match ctlMask off with
    | some k => s.dset die off (mergeMask (m &&& k) old v)
    | none => s

/-! ### Windows: reads and writes -/

def byteOf (w : Word) (i : Nat) : Byte := BitVec.ofNat 8 (w.toNat >>> (8 * i))

/-- One byte of a window. The L1 windows return undefined bytes (spec/03 R87). -/
def State.winByte (s : State) (w : Win) (tag : Nat) : Byte :=
  match w with
  | .bstore k o => bget (s.coreOf k) o
  | .l1 _ o => s.free 8 (tag + o)
  | .plane k b false o => rowByte (rowGet (s.coreOf k) (256 * b + o / 1280)) (o % 1280)
  | .plane k b true o => rowByte (emberGet (s.coreOf k) (256 * b + o / 1280)).v (o % 1280)
  | .regs k false o => byteOf ((s.coreOf k).live.page s.tick (o / 8)) (o % 8)
  | .regs k true o => byteOf ((s.coreOf k).dup.page s.tick (o / 8)) (o % 8)
  | .hearth k sh o => byteOf (vget (if sh then (s.coreOf k).live.hs else (s.coreOf k).live.ha) (o / 8)) (o % 8)
  | .copyRegs k n sh o =>
    let l := (s.coreOf k).live
    byteOf (vget (((if sh then l.cs else l.ca)[n]?).getD (.replicate 9 0)) (o / 8)) (o % 8)
  | .flags k o => BitVec.ofNat 8 (((s.coreOf k).flag (o / 2)).toNat >>> (8 * (o % 2)))
  | .srqf k o => byteOf (s.coreOf k).srqf (o % 8)
  | .scratch _ _ => 0
  | .control d o => byteOf (s.ctlRead d (o / 8 * 8)) (o % 8)

/-- The byte an agent finds at a byte's home. -/
def State.homeByte (s : State) (pa tag : Nat) : Byte :=
  match locate pa with
  | .win (.scratch _ _) => memGet s.mem pa
  | .win w => s.winByte w tag
  | _ => memGet s.mem pa

def State.homeBytes (s : State) (pa n tag : Nat) : List Byte := (List.range n).map fun i => s.homeByte (pa + i) tag

/-- Merge one byte into a word of a register page or engine set. -/
def mergeByte (w : Word) (i : Nat) (b : Byte) : Word := BitVec.ofNat 64 (setField 8 w.toNat i b.toNat)

/-- Owner of what a core starts: 0 a handler, else the task's number plus one. -/
def Core.owner (c : Core) : Nat :=
  if c.phase == .handler then 0 else match c.task with
    | some t => t + 1
    | none => 0

/-- Copies of the task, or of the handler, that runs on a core; armed copies of a task stay on the core that armed them (spec/10
R271). -/
def State.copiesFor (s : State) (k : Nat) : List Copy :=
  let o := (s.coreOf k).owner
  if o = 0 then (s.coreOf k).copies.filter (·.task == 0)
  else s.keys.flatMap fun j => (s.coreOf j).copies.filter (·.task == o)

/-- A register that a copy's status is still to be written to (spec/10 R256, R282). -/
def State.pendingTok (s : State) (k r : Nat) : Bool :=
  (s.copiesFor k).any fun x => x.tok == some r && !x.disc && !x.tokDone

/-- A byte of a B-store, with its place in the write order, for engines that may read it old or new. -/
def State.bstSet (s : State) (k o : Nat) (b : Byte) : State :=
  let old := bget (s.coreOf k) o
  let h : Hist := { seq := s.wseq, addr := winAddr k o, old := old, tick := s.tick, step := s.ctr }
  { s.modCore k (fun c => bset c o b) with hist := h :: s.hist, wseq := s.wseq + 1 }

/-- Write one byte of a window other than control; a plane byte is a direct effect, a live register byte writes the
duplicate too, and an ember byte sets its element's touch bit (spec/03 R89, spec/09 R237). -/
def State.winSet (s : State) (w : Win) (b : Byte) : State :=
  match w with
  | .bstore k o => s.bstSet k o b
  | .l1 _ _ => s
  | .plane k bk false o => s.modCore k fun c =>
      let r := 256 * bk + o / 1280
      rowDirect c r (rowSetByte (rowGet c r) (o % 1280) b)
  | .plane k bk true o => s.modCore k fun c =>
      let r := 256 * bk + o / 1280
      let e := emberGet c r
      emberSet c r { e with v := rowSetByte e.v (o % 1280) b, touch := e.touch ||| (1 <<< (o % 1280 / 10)) }
  | .regs k false o => s.modCore k fun c =>
      if o / 8 < 56 && s.pendingTok k (o / 8) then c
      else
        let put := fun l : Live => l.setPage (o / 8) (mergeByte (l.page s.tick (o / 8)) (o % 8) b)
        { c with live := put c.live, dup := put c.dup }
  | .regs k true o => s.modCore k fun c =>
      { c with dup := c.dup.setPage (o / 8) (mergeByte (c.dup.page s.tick (o / 8)) (o % 8) b) }
  | .hearth k true o => s.modCore k fun c =>
      let put := fun l : Live =>
        { l with hs := vset l.hs (o / 8) (mergeByte (vget l.hs (o / 8)) (o % 8) b &&& hearthMask (o / 8)) }
      { c with live := put c.live, dup := put c.dup }
  | .hearth k false o => s.modCore k fun c =>
      let v := mergeByte (vget c.live.ha (o / 8)) (o % 8) b &&& hearthMask (o / 8)
      { c with live := { c.live with ha := vset c.live.ha (o / 8) v } }
  | .copyRegs k n sh o => s.modCore k fun c =>
      let put := fun sets : Vector (Vector Word 9) 2 =>
        let set := (sets[n]?).getD (.replicate 9 0)
        sets.setIfInBounds n (vset set (o / 8) (mergeByte (vget set (o / 8)) (o % 8) b &&& copyMask (o / 8)))
      if sh then { c with live := { c.live with cs := put c.live.cs }, dup := { c.dup with cs := put c.dup.cs } }
      else { c with live := { c.live with ca := put c.live.ca } }
  | .flags k o =>
      let old := ((s.coreOf k).flag (o / 2)).toNat
      s.setFlag k (o / 2) (BitVec.ofNat 16 (setField 8 old (o % 2) b.toNat))
  | .srqf k o => s.modCore k fun c => if o % 8 = 7 && b.getLsbD 7 then { c with srqf := c.srqf &&& 0x00FFFFFFFFFFFFFF } else c
  | .scratch _ _ | .control _ _ => s

/-- A range that takes a write only while its core runs no task (spec/03 R87). -/
def State.idleRange (s : State) (pa : Nat) : Bool :=
  match locate pa with
  | .win (.regs k true _) | .win (.hearth k false _) | .win (.copyRegs k _ false _) => !(s.coreOf k).idle
  -- the slot-to-engine map of a core (spec/18 R346)
  | .win (.control d o) => inRange o 0x100 (8 * 72) && !(s.coreOf (d * 128 + (o - 0x100) / 8)).idle
  | _ => false

/-- A generator written with zero takes its reset value (spec/02 R58). -/
def sgFix (v : Vector Word 16) : Vector Word 16 :=
  (List.range 16).foldl (fun v i => if vget v i = 0 then vset v i (vget sgReset i) else v) v

/-- Generators of a core after a write through a register page. -/
def State.fixSg (s : State) (pa : Nat) : State :=
  match locate pa with
  | .win (.regs k _ _) => s.modCore k fun c =>
      { c with live := { c.live with sg := sgFix c.live.sg }, dup := { c.dup with sg := sgFix c.dup.sg } }
  | _ => s

/-- Each flag takes the bytes of one write together: no agent sees a half of it (spec/03 R80, R87). -/
def State.setFlagBytes (s : State) (k o : Nat) (bs : List Byte) : State :=
  (List.range 32).foldl (fun s f =>
    let hit := fun i => inRange (2 * f + i) o bs.length
    let put := fun (v i : Nat) => if hit i then setField 8 v i ((bs[2 * f + i - o]?).getD 0).toNat else v
    if hit 0 || hit 1 then s.setFlag k f (BitVec.ofNat 16 (put (put ((s.coreOf k).flag f).toNat 0) 1)) else s) s

/-- Perform a write of consecutive bytes at their homes. Control registers take the bytes of one word together, and so does a flag. -/
def State.homeWrite (s : State) (pa : Nat) (bs : List Byte) : State :=
  match locate pa with
  | .win (.control d o) =>
    -- words of the run, each with the mask of its bytes
    let n := bs.length
    let first := o / 8
    let last := (o + n - 1) / 8
    (List.range (if n = 0 then 0 else last + 1 - first)).foldl (fun s j =>
      let base := (first + j) * 8
      let mv := (List.range 8).foldl (fun (p : Nat × Nat) i =>
        if o ≤ base + i && base + i < o + n then
          (p.1 + 255 * 256 ^ i, p.2 + ((bs[base + i - o]?).getD 0).toNat * 256 ^ i) else p) (0, 0)
      s.ctlWrite d base (BitVec.ofNat 64 mv.1) (BitVec.ofNat 64 mv.2)) s
  | .win (.scratch _ _) => s.wrBytes pa bs
  | .win (.flags k o) => s.setFlagBytes k o bs
  | .win _ =>
    ((List.range bs.length).foldl (fun s i =>
      match locate (pa + i) with
      | .win w => s.winSet w ((bs[i]?).getD 0)
      | _ => s) s).fixSg pa
  | _ => s.wrBytes pa bs

/-- Status with which an engine's write of a byte is refused as the port, the partition and the tables stand now (spec/18 R351, R352), or
as its core runs a task (spec/03 R87). -/
def State.wrBad (s : State) (a : Acc) (pa : Nat) : Option Int :=
  let l := locate pa
  if s.pathShut a l then some (-4) else if !s.granted a .wr pa l || s.idleRange pa then some (-3) else none

/-! ### Bytes as an engine or a weak load may find them (spec/07 R175, spec/12 R320 to R324) -/

def WEntry.at (pa : Nat) : WEntry → Option Byte
  | .store _ p d _ _ => if p ≤ pa then d[pa - p]? else none
  | _ => none

def Released.at (pa : Nat) : Released → Option Byte
  | .store p d _ => if p ≤ pa then d[pa - p]? else none
  | _ => none

/-- The youngest store of this core to a byte that is withheld, or released and not yet at home. -/
def Core.ownByte (c : Core) (pa : Nat) : Option Byte :=
  match (c.whb.filterMap (WEntry.at pa)).getLast? with
  | some b => some b
  | none => (c.rel.filterMap (Released.at pa)).getLast?

def Core.ownSeq (c : Core) (pa : Nat) : Nat := assocGet 0 c.lastWr pa

/-- Older values of a byte that a read may return: none before `floor`, and none that left its home 2^20 ticks ago or more (spec/12
R324). -/
def State.oldsFrom (s : State) (pa floor : Nat) : List Byte :=
  (s.hist.filter fun e => e.addr == pa && decide (floor ≤ e.seq) && decide (s.tick < e.tick + 1048576)).map (·.old)

/-- The same for a load of a core: none before its own latest write. -/
def State.olds (s : State) (c : Core) (pa floor : Nat) : List Byte := s.oldsFrom pa (max floor (c.ownSeq pa))

def isWin (pa : Nat) : Bool := match locate pa with
  | .win _ => true
  | _ => false

/-- A byte as a load finds it: page attribute CL = 0 lets an L1 copy serve it. A window is never cached (spec/12 R328). -/
def State.loadByte (s : State) (c : Core) (pa cl acq tag : Nat) : Byte :=
  choose (s.freeNat tag) (s.homeByte pa tag) (if cl = 0 && !isWin pa then s.olds c pa acq else [])

/-- A byte as an engine started at `hseq` finds it: the old or the new value where it changed since. While stores of this core that
were on their way at the start still are, the youngest of them supplies it, or a younger one; once they are home, nothing older than
their values is read (spec/07 R175). -/
def State.engByte (s : State) (c : Core) (pa cl hseq acq : Nat) (fwd : List (Nat × Byte)) (onWay : List Nat) (tag : Nat) : Byte :=
  let own := c.ownSeq pa
  let base := if cl = 0 && !isWin pa then acq else hseq
  let supplied := fwd.find? fun p => p.1 == pa
  let mem := s.oldsFrom pa (if supplied.isNone && decide (hseq < own) then hseq else max base own)
  let now := c.ownByte pa
  let cur := s.homeByte pa tag
  match (if onWay.contains pa then supplied else none) with
  -- with none of them left, a rollback has discarded it
  | some p => choose (s.freeNat tag) p.2 ((if now.isNone then cur :: mem else []) ++ now.toList)
  | none => choose (s.freeNat tag) cur (mem ++ now.toList)

/-! ### Elements that an engine reads whole (spec/09 R247) -/

/-- Copies, Bellows steps and frames of which others have seen a part: the moment of the first, and what is still to come. -/
def State.partial' (s : State) : List (Nat × List (Nat × Byte)) :=
  (s.keys.flatMap fun k => (s.coreOf k).copies.filterMap fun x => match x.at0, x.rest with
    | some n, some r => some (n, r.ws)
    | _, _ => none) ++
  ((s.bruns.flatMap fun p => p.2.rest) ++ s.frames.map (·.rest)).map fun r => (r.at0, r.ws)

/-- A moment since a place of the write order, as a free value picks it: what was written at it and later is not seen, and a copy that
lands in parts is seen whole or not at all: one that began before that place, or whose writes left their homes 2^20 ticks ago (spec/12
R324), is seen. -/
def State.cutFrom (s : State) (floor tag : Nat) : Nat :=
  let first := s.hist.foldl (fun m e => if decide (floor ≤ e.seq) && decide (s.tick < e.tick + 1048576) then m else max m (e.step + 1)) 0
  let moments := (s.hist.filter fun e => decide (floor ≤ e.seq)).map (·.step) ++ s.partial'.map (·.1)
  choose (s.freeNat tag) (s.ctr + 1) (moments.filter fun n => decide (first ≤ n))

/-- A byte as it stood at a moment. -/
def State.byteCut (s : State) (cut pa tag : Nat) : Byte :=
  let new := (s.partial'.filter fun p => decide (p.1 < cut)).findSome? fun p => (p.2.find? fun w => w.1 == pa).map (·.2)
  s.hist.foldl (fun v e => if e.addr = pa && decide (cut ≤ e.step) then e.old else v) (new.getD (s.homeByte pa tag))

/-- The place in the write order before which the Hearth reads no value of a byte: its start, or the acquire where an L1 copy may serve
it, and the latest store of its core that it sees (spec/07 R175). -/
def Core.byteFloor (c : Core) (pa cl hseq acq : Nat) (fwd : List (Nat × Byte)) : Nat :=
  let own := c.ownSeq pa
  if (fwd.find? fun p => p.1 == pa).isNone && decide (hseq < own) then hseq else max (if cl = 0 && !isWin pa then acq else hseq) own

/-- A byte of an element as the Hearth finds it: the bytes of one element share `grp`, and so the moment at which they are read, none
before `floor`. -/
def State.elemByte (s : State) (c : Core) (pa floor : Nat) (fwd : List (Nat × Byte)) (onWay : List Nat) (grp : Nat) : Byte :=
  let cur := s.byteCut (s.cutFrom floor grp) pa grp
  let now := c.ownByte pa
  match (if onWay.contains pa then fwd.find? fun p => p.1 == pa else none) with
  | some p => choose (s.freeNat (grp + 2 ^ 49)) p.2 ((if now.isNone then [cur] else []) ++ now.toList)
  | none => choose (s.freeNat (grp + 2 ^ 49)) cur now.toList

/-- Bytes of one store of this core have reached their homes: engines started before no longer find it on its way. -/
def Core.homed (c : Core) (as : List Nat) : Core :=
  { c with copies := c.copies.map fun x => { x with onWay := as.foldl List.erase x.onWay }
           hops := c.hops.map fun o => { o with onWay := as.foldl List.erase o.onWay } }

/-! ### Bytes of the masters of a context: strong reads and writes of engines (spec/12 R323) -/

/-- Read n bytes at a virtual address, each page checked. -/
def State.vread (s : State) (a : Acc) (by' : By) (va : Word) (n tag : Nat) : Except Nat (List Byte) :=
  (List.range n).foldr (fun i acc =>
    match acc with
    | .error e => .error e
    | .ok bs =>
      match s.access a .rd by' (va + BitVec.ofNat 64 i) (tag + i) with
      | .error e => .error e
      | .ok t => .ok (s.homeByte t.pa (tag + i) :: bs)) (.ok [])

/-- Physical addresses of n bytes at a virtual address, or the first refusal in increasing order. -/
def State.vaddrs (s : State) (a : Acc) (k : AKind) (by' : By) (va : Word) (tag : Nat) : Nat → Nat → Except (Nat × Word) (List Nat)
  | 0, _ => .ok []
  | n + 1, i =>
    let v := va + BitVec.ofNat 64 i
    match s.access a k by' v (tag + i) with
    | .error e => .error (e, v)
    | .ok t =>
      if k.writes && s.idleRange t.pa then .error (5, v)
      else match s.vaddrs a k by' va tag n (i + 1) with
        | .error e => .error e
        | .ok l => .ok (t.pa :: l)

/-- How many of the next addresses go on from `a`, at most as many as there are bytes. -/
def runLen : Nat → List Nat → Nat → Nat
  | a, b :: as, n + 1 => if b = a + 1 then runLen b as n + 1 else 0
  | _, _, _ => 0

/-- Put bytes at physical addresses, runs of consecutive addresses together; `skip` bytes belong to the run before. -/
def putRuns : State → Nat → List Nat → List Byte → State
  | s, n + 1, _ :: as, _ :: bs => putRuns s n as bs
  | s, 0, a :: as, b :: bs =>
    let k := runLen a as bs.length
    putRuns (s.homeWrite a (b :: bs.take k)) k as bs
  | s, _, _, _ => s

def State.putAt (s : State) (as : List Nat) (bs : List Byte) : State := putRuns s 0 as bs

end Sys2Proof.Machine
end

