-- ==== Sys2Proof/Machine/Operands.lean ====
section
/-!
DEFINITION. Operand forms: rotation (spec/03 R78), the operand space (R74 to R76), predicates (R77), and what a read of an
exposed destination returns while its operation is in flight (spec/04 R106, R118).
-/
namespace Sys2Proof

/-- An immediate, sign-extended: spec/06 R157. -/
def Imm.val : Imm → Word
  | .short v => v.signExtend 64
  | .long v => v.signExtend 64

end Sys2Proof

namespace Sys2Proof.Machine

/-! ### Rotation -/

/-- Physical scalar register of a logical one: spec/03 R78. -/
def physX (l : Live) (n : Fin 56) : Fin 56 :=
  if h : 24 ≤ n.val then ⟨24 + (n.val - 24 + 32 - l.xwo.val) % 32, by omega⟩ else n

/-- Physical predicate of a logical one. -/
def physP (l : Live) (n : Fin 16) : Fin 16 :=
  if h : 8 ≤ n.val then ⟨8 + (n.val - 8 + 8 - l.pwo.val) % 8, by omega⟩ else n

/-- The two predicates of a pair (spec/03 R77), logical numbers. -/
def pairEven (p : Pair) : Fin 16 := ⟨2 * p.val + 2, by omega⟩
def pairOdd (p : Pair) : Fin 16 := ⟨2 * p.val + 3, by omega⟩

/-! ### Work in flight as a read meets it -/

/-- The issue cycle whose operands are read: a second piece reads as the first did (spec/04 R118). -/
def Core.rdCyc (c : Core) : Nat := c.cyc - c.iss.piece

/-- In the window of spec/04 R106: issued earlier, and not yet due. -/
def Landing.open (e : Landing) (rc : Nat) : Bool := decide (e.issued < rc) && decide (rc < e.due)

def LWrite.isX (r : Fin 56) : LWrite → Bool
  | .x q _ => q == r
  | _ => false
def LWrite.isP (r : Fin 16) : LWrite → Bool
  | .p q _ => q == r
  | _ => false
def LWrite.isLc (r : Fin 4) : LWrite → Bool
  | .lc q _ => q == r
  | _ => false

/-- Some operation in flight makes reads of a destination undefined now. -/
def Core.undef (c : Core) (p : LWrite → Bool) : Bool :=
  c.land.any fun e => e.open c.rdCyc && e.ws.any p

/-- Place of an undefined value read in this issue: slot, repeat and piece, then the operand. -/
def Core.utag (c : Core) (k : Nat) : Nat := ((c.iss.rep * 16 + c.iss.slot.num) * 2 + c.iss.piece) * 2 ^ 32 + k

/-! ### Reads -/

/-- A scalar register by physical number. -/
def State.rdX (s : State) (r : Fin 56) : Word :=
  if r.val = 0 then 0
  else if s.core.undef (LWrite.isX r) then s.free 64 (s.core.utag r.val) else s.core.live.x[r]

/-- A scalar register by logical number. -/
def State.x (s : State) (r : Fin 56) : Word := s.rdX (physX s.core.live r)

/-- A predicate by logical number; p0 reads true (spec/03 R77). -/
def State.pred (s : State) (r : Fin 16) : Bool :=
  let q := physP s.core.live r
  if q.val = 0 then true
  else if s.core.undef (LWrite.isP q) then s.free 1 (s.core.utag (64 + q.val)) == 1#1 else s.core.live.p.getLsbD q.val

def State.lcv (s : State) (n : Fin 4) : BitVec 32 :=
  if s.core.undef (LWrite.isLc n) then s.free 32 (s.core.utag (96 + n.val)) else s.core.live.lc[n]

/-- Results of S operations in flight, of which a read of `sq` may return any (spec/03 R75). -/
def Core.sqFlight (c : Core) : List Word :=
  (c.land.filter fun e => !e.landed && decide (e.issued < c.rdCyc)).flatMap fun e =>
    e.ws.filterMap fun w => match w with
      | .sq v => some v
      | _ => none

def State.sqv (s : State) : Word :=
  match s.core.sqFlight with
  | [] => s.core.live.sq
  | l => choose (s.freeNat (s.core.utag 112)) s.core.live.sq l

/-- Value of a slot's operand port (spec/03 R76, R88). P and Y have none: a free value (log 13). -/
def State.port (s : State) (sl : Slot) : Word :=
  match sl with
  | .s => s.core.live.portS
  | .l => s.core.live.portL
  | .v0 => s.core.live.portV[0]
  | .v1 => s.core.live.portV[1]
  | .m => s.core.live.portM
  | .c0 => s.core.live.portC[0]
  | .c1 => s.core.live.portC[1]
  | .p | .y => s.free 64 (s.core.utag 113)

/-- A source operand of a slot: spec/03 R74. -/
def State.src (s : State) (sl : Slot) : Src → Word
  | .x n => s.x n
  | .sq => s.sqv
  | .lq => s.core.live.lq
  | .gq => s.core.live.gq
  | .tq => s.core.iss.tqv.getD (BitVec.ofNat 64 s.tick)
  | .ko => s.port sl

/-- An operand that may be immediate, sign-extended: spec/04 R96. -/
def State.opnd (s : State) (sl : Slot) : Opnd → Word
  | .reg r => s.src sl r
  | .short v => v.signExtend 64
  | .long v => v.signExtend 64

/-- A plane row as it stands for a V operation of this issue cycle: where a copy or a window wrote it in this cycle, each
lane is the old or the new one (spec/08 R210). -/
def State.rowNow (s : State) (n : Fin 512) (lane : Nat) : Row :=
  let r := rowGet s.core n.val
  match s.core.rowOld.find? (fun p => p.1 == n.val) with
  | none => r
  | some p =>
    let keep := keepLanes (s.free 10240 (s.core.utag (2048 + n.val))) (BitVec.allOnes 10240) lane
    (r &&& ~~~keep) ||| (p.2 &&& keep)

/-- A plane row as a V operand: bits that an operation in flight writes are undefined. -/
def State.vrow (s : State) (n : Fin 512) (lane : Nat) : Row :=
  let c := s.core
  let en : Row := c.land.foldl (fun (m : Row) e =>
    if e.open c.rdCyc then e.ws.foldl (fun (m : Row) w => match w with
      | .row q _ k _ => if q = n then m ||| k else m
      | _ => m) m else m) 0
  let r := s.rowNow n lane
  if en = 0 then r else (r &&& ~~~en) ||| (s.free 10240 (c.utag (1024 + n.val)) &&& en)

/-! ### Operand ports -/

/-- An S operation loads its A operand into the S port unless A is `ko` (spec/06 R153). -/
def State.loadS (s : State) (a : Src) : State :=
  if a = .ko then s else { s with core := { s.core with live := { s.core.live with portS := s.src .s a } } }

/-- An L operation loads its base into the L port (spec/07 R171). -/
def State.loadL (s : State) (a : Src) : State :=
  if a = .ko then s else { s with core := { s.core with live := { s.core.live with portL := s.src .l a } } }

/-! ### Which slot -/

/-- Index of a V or C slot: V1 and C1 are 1. -/
def Core.unit (c : Core) : Fin 2 :=
  match c.iss.slot with
  | .v1 | .c1 => 1
  | _ => 0

end Sys2Proof.Machine

namespace Sys2Proof

/-! ### Registers an operation reads, for the stalls of spec/07 R199 -/

def Opnd.srcs : Opnd → List Src
  | .reg r => [r]
  | _ => []

def VB.srcs : VB → List Src
  | .scal r => [r]
  | _ => []

/-- The lane index code of `vins` (spec/08 R223). -/
def VA.lane : VA → List Src
  | .row n => (Src.ofCode n.val).toList
  | .ko => []

/-- Source operands, a destination that is also read among them. -/
def Instr.srcs : Instr → List Src
  | .add _ a b | .sub _ a b | .mul _ a b | .mulh _ a b | .mulhn _ a b | .and _ a b | .or _ a b | .xor _ a b
  | .andn _ a b | .shl _ a b | .shr _ a b | .sar _ a b | .rotl _ a b | .min _ a b | .max _ a b | .minn _ a b
  | .maxn _ a b | .sext _ a b | .zext _ a b | .bfx _ a b | .cmpeq _ a b | .cmpne _ a b | .cmplt _ a b
  | .cmple _ a b | .cmpltn _ a b | .cmplen _ a b | .cmptst _ a b | .fadd _ a b | .fsub _ a b | .fmul _ a b
  | .fdiv _ a b | .fmin _ a b | .fmax _ a b | .fcmpeq _ a b | .fcmplt _ a b | .fcmple _ a b | .qmk _ a b
  | .ldN8 _ a b | .ldN16 _ a b | .ldN32 _ a b | .ldN64 _ a b | .ldsN8 _ a b | .ldsN16 _ a b | .ldsN32 _ a b
  | .ldsN64 _ a b | .amoadd _ a b | .amoswp _ a b | .amomin _ a b | .amomax _ a b | .amoand _ a b | .amoor _ a b
  | .qpush a b => a :: b.srcs
  | .bfi d a b | .fma d a b | .amocas d a b => .x d :: a :: b.srcs
  | .clz _ a | .ctz _ a | .popc _ a | .lih _ a _ | .fsqrt _ a | .fcvtfi _ a _ | .fcvtif _ a _ | .qnum _ a | .qden _ a
  | .qflr _ a | .qceil _ a | .qfromf _ a | .qtof _ a | .wrfst a | .sgset _ a | .vstp _ a | .fmset _ a | .bprepi _ a
  | .bprepiL _ a | .wrcr _ a | .qpop _ a | .qtry _ _ a | .sframe _ _ a | .scur _ a _ | .smpl _ a | .sacc _ a
  | .mset _ a | .mlatch a | .cset _ a | .cpost a _ _ _ | .cfill _ a | .bgo _ a => [a]
  | .lcset _ b => b.srcs
  | .stN8 v a b | .stN16 v a b | .stN32 v a b | .stN64 v a b | .stsN8 v a b | .stsN16 v a b | .stsN32 v a b
  | .stsN64 v a b => v :: a :: b.srcs
  | .tspawn _ a b | .strunc _ a b | .sadv _ a b | .sgen _ a b => [a, b]
  | .wait _ (.reg a) | .waity _ (.reg a) => [a]
  | .postr _ t _ _ => [t]
  | .agree a | .agreep a _ | .agreeT a => [a.v]
  | .vadd v | .vsub v | .vmul v | .vfma v | .vfms v | .vmin v | .vmax v | .vabs v | .vneg v | .vmov v | .vand v
  | .vor v | .vxor v | .vnot v | .vshl v | .vshr v | .vsar v | .vceq v | .vclt v | .vcle v | .vsel v | .vcvt v
  | .vmx v | .vunmx v | .vrcp v | .vrsq v | .vsqrt v | .vexp2 v | .vlog2 v | .vtanh v | .vsigm v | .vrsum v
  | .vrmax v | .vrmin v | .vargmax v | .vtopk v | .vperm v | .vrot v | .vbcast v | .vext v | .vany v
  | .vall v => v.b.srcs
  | .vins v => v.a.lane ++ v.b.srcs
  | .mgoBf16 w | .mgoF16 w | .mgoW8 w | .mgoS8 w | .mgoW4 w | .mgoS4 w | .mjoinBf16 w | .mjoinF16 w | .mjoinW8 w
  | .mjoinS8 w | .mjoinW4 w | .mjoinS4 w => w.toList.map (·.2)
  | .cgo _ w | .cgath _ w | .cscat _ w | .cbcast _ w | .cdx _ w | .cpfd _ w | .cmred _ w | .ckvc _ w | .cnet _ w =>
    w.toList.map (·.2)
  | _ => []

/-- Predicates a slot operation reads beside its guard (logical numbers). -/
def Instr.preds : Instr → List (Fin 16)
  | .pand _ a _ b _ | .por _ a _ b _ | .pxor _ a _ b _ => [a, b]
  | _ => []

end Sys2Proof
end

