-- ==== Sys2Proof/Machine/Flags.lean ====
section
/-!
DEFINITION. Flag computations: the rounding context of the bundle (spec/02 R56, R57), the generator outputs a rounding draws
(R58), and the flags an operation sets in FST with the trap an enabled one raises (R63, R64).
-/
namespace Sys2Proof.Machine

/-! ### Rounding context -/

/-- Rounding of the bundle being issued, with generator output `r`. -/
def State.rnd (s : State) (r : Nat := 0) : Rnd := { mode := s.core.iss.frnd, sat := s.core.iss.sat, r := r }

/-- n outputs of a generator, oldest first, and its state after them. -/
def drawN : Nat → Word → List Nat × Word
  | 0, x => ([], x)
  | n + 1, x =>
    let y := sgStep x
    let r := drawN n y
    (sgOut y :: r.1, r.2)

/-- Consume n outputs of the prefix's generator when the bundle rounds under STO; none otherwise (spec/02 R58). -/
def State.draw (s : State) (n : Nat) : List Nat × State :=
  if s.core.iss.frnd = .sto then
    let i := s.core.iss.seed
    let r := drawN n s.core.live.sg[i]
    (r.1, { s with core := { s.core with live := { s.core.live with sg := s.core.live.sg.set i r.2 } } })
  else ([], s)

/-- The one output of a scalar rounding. -/
def State.draw1 (s : State) : Rnd × State :=
  let p := s.draw 1
  (s.rnd (p.1.headD 0), p.2)

/-! ### FST -/

/-- The trap of an operation that raised flags `f` with an enable set: spec/02 R64, spec/20 R389. -/
def fpTrap (seq : Nat) (pcb : Word) (sl : Slot) (fst : BitVec 16) (f : Fl) : Option TrapInfo :=
  let hit := f &&& (fst.extractLsb' 8 8)
  if hit = 0 then none
  else
    let cause := if hit &&& fQZD = 0 then 0x0D else 0x0E
    some { cause := cause, detail := f.setWidth 32, slot := sl.num, pcb := pcb, seq := seq }

/-- The earlier of two pending traps: issue order, then slot order (spec/20 R383). -/
def TrapInfo.before (a b : TrapInfo) : Bool := decide (a.seq < b.seq) || (a.seq == b.seq && decide (a.slot ≤ b.slot))

def firstTrap (a : Option TrapInfo) (b : Option TrapInfo) : Option TrapInfo :=
  match a, b with
  | none, b => b
  | a, none => a
  | some x, some y => if x.before y then some x else some y

/-- Set flags at a landing; an enabled one makes a trap pending. A machine check that waits stands before it, and its operation issues again
(spec/20 R402). -/
def Core.setFlags (c : Core) (e : Landing) (f : Fl) : Core :=
  let c' := { c with live := { c.live with fst := c.live.fst ||| f.setWidth 16 } }
  { c' with pend := (c.pend.filter (·.cause == 0x1F)) <|> firstTrap c.pend (fpTrap e.seq e.pcb e.slot c.live.fst f) }

/-- FST as `rdfst` reads it: a flag of an operation not yet landed may be absent (spec/06 R166). -/
def State.fstRead (s : State) : BitVec 16 :=
  let fl : BitVec 8 := s.core.land.foldl (fun (m : BitVec 8) e =>
    if e.landed then m else e.ws.foldl (fun (m : BitVec 8) w => match w with
      | .flags f => m ||| f
      | _ => m) m) 0
  if fl = 0 then s.core.live.fst
  else s.core.live.fst ||| ((fl &&& s.free 8 (s.core.utag 114)).setWidth 16)

end Sys2Proof.Machine
end

