-- ==== Sys2Proof/Machine/Hearth.lean ====
section
/-!
DEFINITION. The Hearth: geometry of a start (spec/09 R228 to R233), its checks (R238), the bytes it reads (R234, R242,
R243), block sums (R236, spec/02 R47 to R51), the run into the ember plane (R237) and the fold.
-/
namespace Sys2Proof.Machine

/-! ### The active set read by fields -/

abbrev HImg := Vector Word 14

def hf (g : HImg) (er hi lo : Nat) : Nat := natBits (vget g er).toNat hi lo

/-- A start's type code 0 to 5: bf16, f16, w8, s8, w4, s4 (spec/09 R226). `mgol` is bf16 (R249). -/
def hType (op : Nat) : Nat := if op = 0x18 then 0 else op % 8

def hIsJoin (op : Nat) : Bool := decide (0x10 ≤ op) && decide (op ≤ 0x15)

/-- The set a start works with: `mgol` fixes MB, MN, MK, most of MMODE, the scales and the side list (spec/09 R249). -/
def hEff (op : Nat) (g : HImg) : HImg :=
  if op = 0x18 then
    let g := vset g 1 (BitVec.ofNat 64 (0x1FE000 + 4 * 2 ^ 21))
    let g := vset g 3 128
    let g := vset g 4 32
    let g := vset g 10 (vget g 10 &&& 0x24)
    vset (vset (vset g 6 0) 7 0) 11 0
  else g

def hM (g : HImg) : Nat := hf g 2 8 0
def hN (g : HImg) : Nat := hf g 3 8 0
def hK (g : HImg) : Nat := hf g 4 15 0
def hPair (g : HImg) : Bool := (vget g 10).getLsbD 1
def hOvw (g : HImg) : Bool := (vget g 10).getLsbD 0
def hAT (g : HImg) : Bool := (vget g 10).getLsbD 2
def hBT (g : HImg) : Bool := (vget g 10).getLsbD 3
def hSPA (g : HImg) : Bool := (vget g 10).getLsbD 4
def hSPB (g : HImg) : Bool := (vget g 10).getLsbD 5
def hCoop (g : HImg) : Bool := (vget g 13).getLsbD 63
def hSHA (g : HImg) : Bool := (vget g 13).getLsbD 62
def hMask (g : HImg) : Nat := hf g 13 55 48
/-- A side list is read when an operand escapes, or as the metadata of a sparse A. -/
def hEsc (t : Nat) (f : BitVec 32) : Bool := (t == 2 || t == 4) && (NFmt.ofReg f).spec == 3

/-- Element width of an operand: spec/09 R233, R235. -/
def hWidth (t : Nat) (f : BitVec 32) : Nat :=
  match t with
  | 0 | 1 => 16
  | 3 => 8
  | 5 => 4
  | _ => (NFmt.ofReg f).width

def hFloat (t : Nat) : Bool := t != 3 && t != 5
def hKc (t : Nat) : Nat := if t ≤ 1 then 32 else if t ≤ 3 then 64 else 128

/-- Issue cycles from start to landing: spec/09 R240. -/
def hLmax (op : Nat) (g : HImg) : Nat :=
  let mp := if hN g ≤ 128 then hM g else 2 * hM g
  let kc := hKc (hType op)
  24 + (mp + 15) / 16 * ((hK g + kc - 1) / kc) + (if hIsJoin op then 8 else 0)

/-! ### Ranges (spec/09 R233, R239, R243) -/

/-- First bytes of A and of the operands that may lie in the scratchpad. -/
def hA (g : HImg) : Nat := hf g 0 47 6 * 64
def hASTR (g : HImg) : Nat := hf g 2 30 16
def hPITCH (g : HImg) : Nat := hf g 1 30 21
def hBOFF (g : HImg) : Nat := hf g 1 20 6 * 64
def hSOFF (g : HImg) : Nat := hf g 13 24 6 * 64

/-- Byte ranges of A from its first byte: rows, or columns when stored transposed. -/
def hARanges (g : HImg) (wa base : Nat) : List (Nat × Nat) :=
  if hAT g then (List.range (hK g)).map fun k => (base + 64 * hASTR g * k, (wa * hM g + 7) / 8)
  else
    let n := if hSPA g then hK g / 2 else hK g
    (List.range (hM g)).map fun m => (base + 64 * hASTR g * m, (wa * n + 7) / 8)

def hBRanges (g : HImg) (wb base : Nat) : List (Nat × Nat) :=
  if hBT g then (List.range (hN g)).map fun n => (base + 64 * hPITCH g * n, (wb * hK g + 7) / 8)
  else (List.range (hK g)).map fun k => (base + 64 * hPITCH g * k, (wb * hN g + 7) / 8)

/-- Side ranges of A: scales, outliers or 2:4 metadata. -/
def hASide (op : Nat) (g : HImg) (fa : BitVec 32) : List (Nat × Nat) :=
  let n := hM g * (hK g / 16)
  (if (vget g 6).getLsbD 63 then [(hf g 6 47 0, n)] else []) ++
  (if hEsc (hType op) fa then [(hf g 11 47 0, 4 * n)] else []) ++
  (if hSPA g then [(hf g 11 47 0, hM g * (hK g / 8))] else [])

def hBSide (op : Nat) (g : HImg) (fb : BitVec 32) (wide : Bool) : List (Nat × Nat) :=
  let n := hN g * (hK g / 16)
  (if (vget g 7).getLsbD 63 then [(if wide then hf g 7 24 0 else hf g 7 20 0, n)] else []) ++
  (if hEsc (hType op) fb then [(hf g 11 47 0, 4 * n)] else [])

def hEmpty (g : HImg) : Bool := hM g == 0 || hN g == 0

/-- Ranges in the cluster scratchpad: A with ASRC = 0, and the shared operand of a cooperative start; M = 0 or N = 0 does not
empty them (R238, R239). -/
def hScratch (op : Nat) (g : HImg) (fa fb : BitVec 32) : List (Nat × Nat) :=
  let t := hType op
  let coop := hCoop g
  let a :=
    if coop && hSHA g then hARanges g (hWidth t fa) (hSOFF g) ++ hASide op g fa
    else if hf g 0 63 62 = 0 then hARanges g (hWidth t fa) (hA g) ++ hASide op g fa
    else []
  let b := if coop && !hSHA g then hBRanges g (hWidth t fb) (hSOFF g) ++ hBSide op g fb true else []
  (a ++ b).filter fun r => r.2 != 0

/-- Ranges at virtual addresses (ASRC = 1). -/
def hVirt (op : Nat) (g : HImg) (fa : BitVec 32) : List (Nat × Nat) :=
  if hEmpty g || (hCoop g && hSHA g) || hf g 0 63 62 != 1 then []
  else (hARanges g (hWidth (hType op) fa) (hA g) ++ hASide op g fa).filter fun r => r.2 != 0

def scratchSize : Nat := 25165824
def bankSize : Nat := 393216

/-- Banks that a scratchpad range touches, offsets wrapping (spec/03 R85, spec/09 R228). -/
def banksOf (r : Nat × Nat) : BitVec 64 :=
  if r.2 = 0 then 0
  else
    let lo := r.1 / bankSize
    let hi := (r.1 + r.2 - 1) / bankSize
    (List.range (min 64 (hi + 1 - lo))).foldl (fun (m : BitVec 64) i => m ||| (1 <<< ((lo + i) % 64))) 0

def banksOfAll (rs : List (Nat × Nat)) : BitVec 64 := rs.foldl (fun (m : BitVec 64) r => m ||| banksOf r) 0

/-- Banks a start reserves: spec/09 R239. -/
def hBanks (op : Nat) (g : HImg) (fa fb : BitVec 32) : BitVec 64 := vget g 12 ||| banksOfAll (hScratch op g fa fb)

/-! ### Start checks (spec/09 R238) -/

def hFmtOk (t : Nat) (f : BitVec 32) : Bool :=
  let x := NFmt.ofReg f
  x.valid && (if t = 2 then decide (5 ≤ x.width) else decide (x.width ≤ 4))

/-- Detail code of the first failed check, in the order of the table of R238: the model's choice where several fail (log 100). An `mjoin`
that shares A ignores MA (R242), its ASRC with it: no SOURCE is raised, the model's reading (log 119). `core` is the issuing core within its
cluster. -/
def hCheck (op : Nat) (g0 : HImg) (fa fb : BitVec 32) (core : Nat) : Option Nat :=
  let g := hEff op g0
  let t := hType op
  let nw := t == 2 || t == 4
  if decide (256 < hM g) || decide (256 < hN g) || (decide (128 < hN g) && !hPair g) || hK g % 16 != 0 ||
     (hPair g && (vget g 8).getLsbD 16) || hPITCH g == 0 || hASTR g == 0 then some 1
  else if (nw && (!hFmtOk t fa || !hFmtOk t fb)) || (!nw && ((vget g 6).getLsbD 63 || (vget g 7).getLsbD 63)) ||
     (hEsc t fa && hEsc t fb) then some 2
  else if hSPB g || (hSPA g && (hAT g || hBT g)) || (hSPA g && (hEsc t fa || hEsc t fb)) then some 3
  else if !(hCoop g && hSHA g && hIsJoin op) && decide (2 ≤ hf g 0 63 62) then some 4
  else if (!hIsJoin op && hCoop g) || (hIsJoin op && (!hCoop g || !(hMask g).testBit core ||
     decide (((List.range 8).filter (hMask g).testBit).length < 2))) then some 5
  else if banksOfAll (hScratch op g fa fb) &&& ~~~(vget g 12) != 0 then some 6
  else none

/-! ### Repeats (spec/09 R241) -/

def signedField (g : HImg) (er hi lo : Nat) : Int := toSigned (hi + 1 - lo) (hf g er hi lo)

/-- Replace bits hi:lo of a word. -/
def putBits (w : Word) (hi lo : Nat) (v : Nat) : Word :=
  let n := hi + 1 - lo
  BitVec.ofNat 64 (w.toNat - natBits w.toNat hi lo * 2 ^ lo + v % 2 ^ n * 2 ^ lo)

def addBits (w : Word) (hi lo : Nat) (d : Int) : Word :=
  putBits w hi lo (wrapNat (hi + 1 - lo) ((natBits w.toNat hi lo : Int) + d))

/-- Step an address field: by the size of its space where that is the scratchpad or the B-store (spec/09 R228, spec/10 R252). -/
def stepAddr (size : Option Nat) (w : Word) (hi lo : Nat) (d : Int) : Word :=
  match size with
  | some n => putBits w hi lo (((natBits w.toNat hi lo : Int) + d) % (n : Int)).toNat
  | none => addBits w hi lo d

/-- Advance the active set before a repeat or a re-issue. -/
def hAdvance (op : Nat) (g : HImg) : HImg :=
  let ast := signedField g 9 63 40
  let bst := signedField g 9 39 24
  let coop := hCoop g && hIsJoin op
  let scr : Option Nat := some scratchSize
  -- A and its scales lie in the scratchpad, or at virtual addresses (ASRC = 1)
  let spA := if hf g 0 63 62 = 1 && !(coop && hSHA g) then none else scr
  let spB := if coop && !hSHA g then scr else some 2097152
  let g1 := vset g 0 (stepAddr (if hf g 0 63 62 = 1 then none else scr) (vget g 0) 47 0 ast)
  let g2 := if op = 0x18 then g1 else vset g1 1 (addBits (vget g1 1) 20 0 bst)
  let g3 := if op = 0x18 then g2 else vset g2 6 (stepAddr spA (vget g2 6) 47 0 (signedField g 9 23 16))
  let g4 := if op = 0x18 then g3 else vset g3 7 (stepAddr spB (vget g3 7) 24 0 (signedField g 9 15 8))
  let row0 := wrapNat 8 ((hf g 8 7 0 : Int) + signedField g 9 7 0)
  let g5 := vset g4 8 (putBits (vget g4 8) 8 0 row0)
  if coop then vset g5 13 (stepAddr scr (vget g5 13) 24 0 (if hSHA g then ast else bst)) else g5

/-! ### Reading operands -/

/-- The spaces that operands lie in: the cluster's scratchpad, the B-store, virtual addresses. -/
inductive HSpace where
  | scratch | bstore | virt
deriving DecidableEq, Repr

/-- Where a byte of a space stands: its physical address and the page attribute CL. -/
def HOp.place (o : HOp) (sp : HSpace) (off : Nat) : Option (Nat × Nat) :=
  match sp with
  | .scratch => some (scratchAddr (keyDie o.acc.key) (keyCluster o.acc.key) (off % scratchSize), 1)
  | .bstore => some (winAddr o.acc.key (off % 2097152), 1)
  | .virt => (o.pages.find? fun p => p.1 == off / 4096).map fun p => (p.2.1 * 4096 + off % 4096, p.2.2)

/-- Place in the write order before which a byte is not read. Of the B-store what the Hearth itself wrote there before this operation, an
`mlatch` or a shared panel, is read (spec/09 R242, R248). -/
def HOp.floor (o : HOp) (c : Core) (sp : HSpace) (off : Nat) : Nat :=
  match sp with
  | .bstore => o.bfloor.foldl (fun n r => if inRange (off % 2097152) r.1 r.2.1 then max n r.2.2 else n) o.hseq
  | _ => match o.place sp off with
    | some p => c.byteFloor p.1 p.2 o.hseq o.acq o.fwd
    | none => 0

/-- Rows of an operand: element width, first byte, distance of the rows, their length in bytes and their number. -/
structure HLay where
  w     : Nat
  base  : Nat
  pitch : Nat
  len   : Nat
  rows  : Nat
deriving DecidableEq, Repr

/-- Bytes from the first to the last. -/
def HLay.extent (y : HLay) : Nat := if y.rows = 0 then 0 else y.pitch * (y.rows - 1) + y.len

/-- Elements that no byte holds whole: all bytes of rows that overlap are read together. -/
def HLay.odd (y : HLay) : Bool := y.w != 16 && 8 % y.w != 0
def HLay.whole (y : HLay) : Bool := y.odd && decide (y.pitch < y.len)

/-- The bytes that share an element with a byte, directly or through others, as first byte and number: no element is torn (spec/09 R247,
log 95). Two bytes of 16 bits, the w bytes that hold eight elements of w bits (three hold four of 6), and, where rows of such elements
overlap, all of the operand. -/
def HLay.group (y : HLay) (off : Nat) : Nat × Nat :=
  let d := off - y.base
  let e := d % y.pitch
  if off < y.base || decide (y.extent ≤ d) then (off, 1)
  else if y.w = 16 then (y.base + d / 2 * 2, 2)
  else if !y.odd then (off, 1)
  else if y.whole then (y.base, y.extent)
  else if y.len ≤ e then (off, 1)
  else
    let n := if y.w = 6 then 3 else y.w
    (off - e % n, min n (y.len - e / n * n))

/-- Single bytes. -/
def byteLay : HLay := { w := 8, base := 0, pitch := 1, len := 0, rows := 0 }

def hALay (g : HImg) (w base : Nat) : HLay :=
  { w := w, base := base, pitch := 64 * hASTR g, len := (w * (if hAT g then hM g else if hSPA g then hK g / 2 else hK g) + 7) / 8
    rows := if hAT g then hK g else hM g }

def hBLay (g : HImg) (w base : Nat) : HLay :=
  { w := w, base := base, pitch := 64 * hPITCH g, len := (w * (if hBT g then hK g else hN g) + 7) / 8
    rows := if hBT g then hN g else hK g }

/-- Side data: single bytes, but for the 16-bit entries of an outlier list of n blocks. -/
def hSideLay (g : HImg) (esc : Bool) (n : Nat) : HLay :=
  if esc then { w := 16, base := hf g 11 47 0, pitch := 4 * n, len := 4 * n, rows := 1 } else byteLay

/-- First byte of A: the shared operand's place, or MA's. -/
def hABase (op : Nat) (g : HImg) : Nat := if hIsJoin op && hCoop g && hSHA g then hSOFF g else hA g

/-- A byte of operand `t`, which shares its moment with the others of its group, none before the latest of their floors, `fl`. -/
def State.hByte (s : State) (o : HOp) (t : Nat) (sp : HSpace) (fl first off : Nat) : Byte :=
  match o.place sp off with
  | none => 0
  | some p =>
    let grp := t * 2 ^ 50 + first % 2 ^ 48
    if sp = .bstore then s.byteCut (s.cutFrom fl grp) p.1 grp
    else s.elemByte (s.coreOf o.acc.key) p.1 fl o.fwd o.onWay grp

/-- The latest floor of n bytes. -/
def HOp.floors (o : HOp) (c : Core) (sp : HSpace) (first n : Nat) : Nat := (List.range n).foldl (fun m i => max m (o.floor c sp (first + i))) 0

/-- The reader of operand `t` in a space, with a layout. A byte that an earlier step has read is not read again (spec/09 R234). -/
def State.hReader (s : State) (o : HOp) (t : Nat) (sp : HSpace) (y : HLay) : Nat → Byte :=
  let c := s.coreOf o.acc.key
  let all := if y.whole then o.floors c sp y.base y.extent else 0
  fun off => match o.got.find? fun p => p.1 == (t, off) with
    | some p => p.2
    | none =>
      let q := y.group off
      s.hByte o t sp (if y.whole then max all (o.floor c sp off) else o.floors c sp q.1 q.2) q.1 off

/-- The w bits at a bit position of a byte-addressed space. -/
def bitsAt (rd : Nat → Byte) (pos w : Nat) : Nat :=
  let b := pos / 8
  let n := (pos % 8 + w + 7) / 8
  natBits (leNat ((List.range n).map fun i => rd (b + i))) (pos % 8 + w - 1) (pos % 8)

/-- The readers of an operation: A, A's side data, B, B's side data. -/
structure HRead where
  a  : Nat → Byte
  as : Nat → Byte
  b  : Nat → Byte
  bs : Nat → Byte

/-- Space and layout of each operand of an operation, by the number of its reader: 1 A, 2 its side data, 3 B, 4 the side data of a B
shared from the scratchpad, 5 those in the B-store. -/
def HOp.operand (o : HOp) (g : HImg) (t : Nat) : HSpace × HLay :=
  let coop := hIsJoin o.op && hCoop g
  let ty := hType o.op
  let aside : HSpace := if (coop && hSHA g) || hf g 0 63 62 = 0 then .scratch else .virt
  let kb := hK g / 16
  match t with
  | 1 => (aside, hALay g (hWidth ty o.fa) (hABase o.op g))
  | 2 => (aside, hSideLay g (hEsc ty o.fa) (hM g * kb))
  | 3 => (.bstore, hBLay g (hWidth ty o.fb) (hBOFF g))
  | 4 => (.scratch, hSideLay g (hEsc ty o.fb) (hN g * kb))
  | _ => (.bstore, hSideLay g (hEsc ty o.fb) (hN g * kb))

/-- The number of B's side reader. -/
def HOp.bSide (o : HOp) (g : HImg) : Nat := if hIsJoin o.op && hCoop g && !hSHA g then 4 else 5

def State.hRead (s : State) (o : HOp) (g : HImg) (t : Nat) : Nat → Byte :=
  let p := o.operand g t
  s.hReader o t p.1 p.2

def State.hReaders (s : State) (o : HOp) (g : HImg) : HRead :=
  { a := s.hRead o g 1, as := s.hRead o g 2, b := s.hRead o g 3, bs := s.hRead o g (o.bSide g) }

/-! ### Block sums -/

/-- Exact element value: an escape takes entry j of its block's list, j-th escape of the block (spec/02 R47). -/
def hElem (t : Nat) (f : BitVec 32) (code : Nat) : NVal :=
  match t with
  | 0 => .v (fmtBf16.val code)
  | 1 => .v (fmtF16.val code)
  | 3 => let i := toSigned 8 code; .v (.fin (decide (i < 0)) i.natAbs 0)
  | 5 => let i := toSigned 4 code; .v (.fin (decide (i < 0)) i.natAbs 0)
  | _ => (NFmt.ofReg f).val code

/-- Sixteen element values of a block from their codes, escapes resolved against the outlier pair. -/
def hBlock (t : Nat) (f : BitVec 32) (outl : Nat → Nat) : List Nat → Nat → List FV
  | [], _ => []
  | c :: cs, j =>
    match hElem t f c with
    | .v x => x :: hBlock t f outl cs j
    | .esc => (if j ≤ 1 then fmtBf16.val (outl j) else .fin false 0 0) :: hBlock t f outl cs (j + 1)

/-- Exact sum of exact values: +0 for an empty sum. -/
def fvSum (l : List FV) : FV := l.foldl (fun a b => (fvAdd false a b).1) (.fin false 0 0)

def FV.isZero : FV → Bool
  | .fin _ n _ => n == 0
  | _ => false

def FV.negZero : FV → Bool
  | .fin s n _ => s && n == 0
  | _ => false

/-- Exponent of a nonzero finite value. -/
def FV.exp : FV → Option Int
  | .fin _ n e => if n = 0 then none else some (ilog2 n 1 e)
  | _ => none

/-- Truncate toward zero to a multiple of 2^q. -/
def FV.trunc (q : Int) : FV → FV
  | .fin s n e => if q ≤ e then .fin s n e else .fin s (n / 2 ^ (q - e).toNat) q
  | x => x

/-- Block sum of bf16 and f16 products in the 96-bit window: spec/02 R50. -/
def sumWindow (ps : List FV) : FV :=
  let es := ps.filterMap FV.exp
  match es with
  | [] =>
    if ps.all FV.isZero then .fin (ps.all FV.negZero) 0 0 else fvSum ps
  | e :: es => fvSum (ps.map (FV.trunc ((es.foldl max e) - 95)))

/-- Block sum of narrow products with scales: spec/02 R49. -/
def sumScaled (ps : List FV) (sa sb : Nat) : FV :=
  if sa = 255 || sb = 255 then .nan false
  else match fvSum ps with
    | .fin s n e => .fin s n (e + ((sa : Int) - 127) + ((sb : Int) - 127))
    | x => x

/-- A's sixteen dense values of block j of row m; a pruned 2:4 position is zero (spec/09 R233, R236). -/
def hAvals (g : HImg) (t : Nat) (fa : BitVec 32) (base : Nat) (r : HRead) (m j : Nat) : List FV :=
  let w := hWidth t fa
  if hSPA g then
    let mb := hf g 11 47 0 + m * (hK g / 8)
    (List.range 16).map fun i =>
      let grp := 4 * j + i / 4
      let nib := natBits (r.as (mb + grp / 2)).toNat (4 * (grp % 2) + 3) (4 * (grp % 2))
      let val := fun q => match hElem t fa (bitsAt r.a (8 * base + 512 * hASTR g * m + w * (2 * grp + q)) w) with
        | .v x => x
        | .esc => .fin false 0 0
      let hit := (List.range 2).filter fun q => natBits nib (2 * q + 1) (2 * q) == i % 4
      match hit with
      | [] => .fin false 0 0
      | [q] => val q
      | _ => (fvAdd false (val 0) (val 1)).1
  else
    let pos := fun k => if hAT g then 8 * base + 512 * hASTR g * k + w * m else 8 * base + 512 * hASTR g * m + w * k
    let outl := fun q => leNat ((List.range 2).map fun i => r.as (hf g 11 47 0 + 4 * (m * (hK g / 16) + j) + 2 * q + i))
    hBlock t fa outl ((List.range 16).map fun i => bitsAt r.a (pos (16 * j + i)) w) 0

def hBvals (g : HImg) (t : Nat) (fb : BitVec 32) (r : HRead) (n j : Nat) : List FV :=
  let w := hWidth t fb
  let pos := fun k => if hBT g then 8 * hBOFF g + 512 * hPITCH g * n + w * k else 8 * hBOFF g + 512 * hPITCH g * k + w * n
  let outl := fun q => leNat ((List.range 2).map fun i => r.bs (hf g 11 47 0 + 4 * (n * (hK g / 16) + j) + 2 * q + i))
  hBlock t fb outl ((List.range 16).map fun i => bitsAt r.b (pos (16 * j + i)) w) 0

/-- Scales of a block: 127 where an operand carries none. -/
def hScaleA (g : HImg) (r : HRead) (m j : Nat) : Nat :=
  if (vget g 6).getLsbD 63 then (r.as (hf g 6 47 0 + m * (hK g / 16) + j)).toNat else 127
def hScaleB (g : HImg) (wide : Bool) (r : HRead) (n j : Nat) : Nat :=
  if (vget g 7).getLsbD 63 then (r.bs ((if wide then hf g 7 24 0 else hf g 7 20 0) + n * (hK g / 16) + j)).toNat else 127

/-- Block sum j of result (m, n) from A's and B's values. -/
def hBlockSum (t : Nat) (as bs : List FV) (sa sb : Nat) : FV :=
  let ps := (as.zip bs).map fun p => (fvMul p.1 p.2).1
  if t ≤ 1 then sumWindow ps else sumScaled ps sa sb

/-- An exact integer block sum as an integer. -/
def FV.toInteger : FV → Int
  | .fin s n e => sgn s (shl2 n e)
  | _ => 0

/-- RoundA80 of a sum, overflow to infinity (spec/02 R51). -/
def a80Add (e : Nat) (x : FV) : Nat := (fmtA80.add { mode := .rne, sat := .ovfi } (fmtA80.val e) x).1

/-- Add the block sums of one result element to an ember element. -/
def hAccum (t : Nat) (sums : List FV) (e : Nat) : Nat :=
  sums.foldl (fun e x => if hFloat t then a80Add e x else wrapNat 80 ((e : Int) + x.toInteger)) e

/-! ### The run (spec/09 R237) -/

/-- Write one ember element: value, touch and replace. -/
def emberPut (e : Ember) (c v : Nat) (touch repl : Bool) : Ember :=
  { e with
    v := BitVec.ofNat 10240 (setField 80 e.v.toNat c v)
    touch := if touch then e.touch ||| (1 <<< c) else e.touch
    repl := if repl then e.repl ||| (1 <<< c) else e.repl }

/-- One row of results into the ember rows of its bank or banks. `sums n` lists the block sums of column n. -/
def hRow (t : Nat) (ovw : Bool) (k0 : Bool) (sums : Nat → List FV) (cols : List (Nat × Nat)) (e : Ember) : Ember :=
  let e := cols.foldl (fun e p =>
    let v0 := if ovw then 0 else laneOf e.v 80 p.2
    emberPut e p.2 (hAccum t (sums p.1) v0) (ovw || !k0) ovw) e
  if cols.isEmpty then e else { e with form := some (hFloat t) }

/-- Blocks of sixteen along K. -/
def hBlocks (g : HImg) : Nat := hK g / 16

/-- Block sums `lo` to `hi` of an operation's results as ember updates of its core; `lo` is 0 for the first. -/
def State.hRun (s : State) (o : HOp) (lo hi : Nat) : Core → Core := fun c =>
  let g := hEff o.op o.img
  let t := hType o.op
  if hEmpty g then c
  else
    let r := s.hReaders o g
    let coop := hIsJoin o.op && hCoop g
    let wide := coop && !hSHA g
    let base := hABase o.op g
    let nb := hBlocks g
    let bank := if (vget g 8).getLsbD 16 then 256 else 0
    (List.range (hM g)).foldl (fun c m =>
      let as := ((List.range (hi - lo)).map (lo + ·)).map fun j => (j, hAvals g t o.fa base r m j, hScaleA g r m j)
      let sums := fun n => as.map fun p => hBlockSum t p.2.1 (hBvals g t o.fb r n p.1) p.2.2 (hScaleB g wide r n p.1)
      let row := (hf g 8 7 0 + m) % 256
      let cols := List.range (hN g)
      let colsA := (cols.filter fun n => !(hPair g && decide (128 ≤ n))).map fun n => (n, n)
      let colsB := (cols.filter fun n => hPair g && decide (128 ≤ n)).map fun n => (n, n - 128)
      let c := emberSet c (bank + row) (hRow t (hOvw g && lo == 0) (nb == 0) sums colsA (emberGet c (bank + row)))
      if colsB.isEmpty then c
      else emberSet c (256 + row) (hRow t (hOvw g && lo == 0) (nb == 0) sums colsB (emberGet c (256 + row)))) c

/-- A shared B panel goes into every member's B-store, one of M = 0 too (spec/09 R242). -/
def hShared (op : Nat) (g : HImg) : Bool := hIsJoin op && hCoop g && !hSHA g && hN g != 0

/-- Bytes that an operation writes into its B-store before it runs: the tile of an `mlatch`, or the panel that the bus delivers
(spec/09 R242, R243, R248), each byte's choice made by element. -/
def State.hDelivers (s : State) (o : HOp) : List (Nat × Byte) :=
  match o.latch with
  | some off =>
    let rd := s.hReader o 7 .scratch { w := 16, base := off, pitch := 8192, len := 8192, rows := 1 }
    (List.range 8192).map fun i => (0x1FE000 + i, rd (off + i))
  | none =>
    let g := hEff o.op o.img
    if hShared o.op g then
      let w := hWidth (hType o.op) o.fb
      let rd := s.hReader o 6 .scratch (hBLay g w (hSOFF g))
      ((hBRanges g w (hSOFF g)).zip (hBRanges g w (hBOFF g))).flatMap fun p => (List.range p.1.2).map fun i =>
        ((p.2.1 + i) % 2097152, rd (p.1.1 + i))
    else []

/-- Ranges of the B-store that `hDelivers` fills. -/
def hFills (o : HOp) : List (Nat × Nat) :=
  let g := hEff o.op o.img
  if o.latch.isSome then [(0x1FE000, 8192)]
  else if hShared o.op g then
    -- a range past the top goes on at the bottom
    (hBRanges g (hWidth (hType o.op) o.fb) (hBOFF g)).flatMap fun r => [(r.1 % 2097152, r.2), (0, r.1 % 2097152 + r.2 - 2097152)]
  else []

/-- The delivery: this operation and those after it on the core read what it wrote. -/
def State.hPanel (s : State) (o : HOp) : State × HOp :=
  let s1 := (s.hDelivers o).foldl (fun s p => s.bstSet o.acc.key p.1 p.2) s
  let fl := (hFills o).map fun r => (r.1, r.2, s1.wseq)
  let see := fun h : HOp => if fl.isEmpty then h else { h with bfloor := fl ++ h.bfloor }
  (s1.modCore o.acc.key fun c => { c with hops := c.hops.map see }, see o)

/-- Add the block sums from those already added up to `hi`; the first to run delivers what stands before them. -/
def State.hLandTo (s : State) (o : HOp) (hi : Nat) : State × HOp :=
  let p := if o.blk = 0 then s.hPanel o else (s, o)
  if o.latch.isSome then p
  else (p.1.modCore o.acc.key (p.1.hRun p.2 o.blk hi), { p.2 with blk := hi })

/-- Land one operation of the core in focus's list (spec/09 R240, R248). -/
def State.hLand (s : State) (o : HOp) : State := (s.hLandTo o (hBlocks (hEff o.op o.img))).1

/-- Land the oldest operation. -/
def State.hLandFirst (s : State) : State :=
  match s.core.hops with
  | [] => s
  | o :: os => State.hLand { s with core := { s.core with hops := os } } o

/-- Bytes of the elements at some bit positions, w bits each. -/
def bitBytes (w : Nat) (ps : List Nat) : List Nat :=
  (ps.flatMap fun p => (List.range ((p % 8 + w + 7) / 8)).map (p / 8 + ·)).eraseDups

/-- Bytes that blocks `lo` to `hi` of an operation read: A, its side data, B, its side data, by the numbers of their readers. -/
def HOp.touched (o : HOp) (g : HImg) (lo hi : Nat) : List (Nat × Nat) :=
  let t := hType o.op
  let wa := hWidth t o.fa
  let wb := hWidth t o.fb
  let kb := hK g / 16
  let js := (List.range (hi - lo)).map (lo + ·)
  let base := 8 * hABase o.op g
  let wide := o.bSide g == 4
  let posA := fun m k => if hSPA g then base + 512 * hASTR g * m + wa * (k / 2)
    else if hAT g then base + 512 * hASTR g * k + wa * m else base + 512 * hASTR g * m + wa * k
  let posB := fun n k => if hBT g then 8 * hBOFF g + 512 * hPITCH g * n + wb * k else 8 * hBOFF g + 512 * hPITCH g * k + wb * n
  let el := fun (pos : Nat → Nat → Nat) (n : Nat) => (List.range n).flatMap fun r => js.flatMap fun j =>
    (List.range 16).map fun i => pos r (16 * j + i)
  let side := fun (sc : Bool) (at' : Nat) (esc : Bool) (n : Nat) => (List.range n).flatMap fun r => js.flatMap fun j =>
    (if sc then [at' + r * kb + j] else []) ++
    (if esc then (List.range 4).map fun i => hf g 11 47 0 + 4 * (r * kb + j) + i else [])
  let meta' := if hSPA g then (List.range (hM g)).flatMap fun m => js.flatMap fun j => [0, 1].map fun i =>
    hf g 11 47 0 + m * (hK g / 8) + 2 * j + i else []
  let name := fun (q : Nat) (l : List Nat) => l.eraseDups.map fun i => (q, i)
  name 1 (bitBytes wa (el posA (hM g))) ++ name 2 (side ((vget g 6).getLsbD 63) (hf g 6 47 0) (hEsc t o.fa) (hM g) ++ meta') ++
  name 3 (bitBytes wb (el posB (hN g))) ++
  name (o.bSide g) (side ((vget g 7).getLsbD 63) (if wide then hf g 7 24 0 else hf g 7 20 0) (hEsc t o.fb) (hN g))

/-- Bytes of one operand that share elements with some of its bytes. -/
def HOp.groups (o : HOp) (g : HImg) (t : Nat) (offs : List Nat) : List Nat :=
  let y := (o.operand g t).2
  if y.odd then ((offs.map y.group).eraseDups.flatMap fun q => (List.range q.2).map (q.1 + ·)).eraseDups else offs

/-- The operation with the bytes kept that its blocks `lo` to `hi` read: each is read once per start (spec/09 R234), and with it those
that share elements with it (R247). -/
def State.hKeep (s : State) (o : HOp) (lo hi : Nat) : HOp :=
  let g := hEff o.op o.img
  let ps := o.touched g lo hi
  [1, 2, 3, o.bSide g].foldl (fun k t =>
    let rd := s.hRead o g t
    let offs := o.groups g t ((ps.filter fun p => p.1 == t).map (·.2))
    let new := offs.filter fun i => !(o.got.any fun q => q.1 == (t, i))
    { k with got := new.map (fun i => ((t, i), rd i)) ++ k.got }) o

/-- Run the oldest operation on: a free value says how many more of its block sums are added now, at least one; with the last of
them it has landed. A window read meanwhile finds the sums added so far (spec/09 R247, log 95). -/
def State.hStepFirst (s : State) : State :=
  match s.core.hops with
  | [] => s
  | o :: os =>
    let nb := hBlocks (hEff o.op o.img)
    let hi := o.blk + 1 + s.freeNat (2 ^ 49) % (nb - o.blk)
    if o.latch.isSome || nb ≤ hi then s.hLandFirst
    else
      let p := State.hLandTo { s with core := { s.core with hops := os } } o hi
      -- the bytes as this step has read them: after the delivery, before the sums
      let d := if o.blk = 0 then State.hPanel { s with core := { s.core with hops := os } } o else (s, o)
      let kept := d.1.hKeep d.2 o.blk hi
      p.1.modCore s.here fun c => { c with hops := { p.2 with got := kept.got } :: c.hops }

/-- Land every operation in start order. -/
def State.hLandAll (s : State) : State :=
  (List.range s.core.hops.length).foldl (fun s _ => s.hLandFirst) s

/-! ### The fold (spec/09 R237, spec/02 R51) -/

/-- One element of the fold. -/
def foldElem (isFloat : Bool) (acc ember : Nat) : Nat :=
  if isFloat then a80Add acc (fmtA80.val ember) else (acc + ember) % 2 ^ 80

/-- Fold one ember row into its accumulator row. -/
def foldRow (e : Ember) (r : Row) : Row :=
  if e.touch = 0 then r
  else
    (List.range 128).foldl (fun (r : Row) i =>
      if !e.touch.getLsbD i then r
      else
        let em := laneOf e.v 80 i
        let v := if e.repl.getLsbD i then em else foldElem (e.form.getD true) (laneOf r 80 i) em
        BitVec.ofNat 10240 (setField 80 r.toNat i v)) r

/-- Fold both ember planes and clear them. -/
def Core.fold (c : Core) : Core :=
  let c' := c.ember.foldl (fun c p => if p.2.touch = 0 then c else rowSet c p.1 (foldRow p.2 (rowGet c p.1))) c
  { c' with ember := [], rowOld := [] }

end Sys2Proof.Machine
end

