-- ==== Sys2Proof/Machine/Copy.lean ====
section
/-!
DEFINITION. What a copy moves (spec/10 R261 to R276): addresses by kind, rows in order, the failures that end a copy, the
hub's broadcast and reduction, key-value compaction, and where its status goes (R256, R271, R281, spec/18 R358).
-/
namespace Sys2Proof.Machine

abbrev CImg := Vector Word 9

def cfld (g : CImg) (er hi lo : Nat) : Nat := natBits (vget g er).toNat hi lo
def csgn (g : CImg) (er hi lo : Nat) : Int := toSigned (hi + 1 - lo) (cfld g er hi lo)

def cRows (g : CImg) : Nat := cfld g 2 15 0 + 1
def cLen (g : CImg) : Nat := cfld g 2 40 16
def cKind (g : CImg) (er : Nat) : Nat := cfld g er 63 62
/-- A base address: a virtual address is sign-extended from bit 47 (log 14). -/
def cBase (g : CImg) (er : Nat) : Int := if cKind g er = 1 then csgn g er 47 0 else cfld g er 47 0
def cSStr (g : CImg) : Int := csgn g 3 31 0
def cDStr (g : CImg) : Int := csgn g 3 63 32
def cIdxBase (g : CImg) : Int := cBase g 4 / 4 * 4
def cEW (g : CImg) : Nat := match cfld g 7 11 10 with | 0 => 4 | 1 => 8 | _ => 16

/-! ### Steps between repeats (spec/10 R280) -/

/-- Size of the space of a kind's offsets (R252). -/
def kindSize (kind : Nat) : Option Nat := if kind = 0 then some scratchSize else if kind = 2 then some 2097152 else none

def cAdvance (g : CImg) : CImg :=
  let g := vset g 0 (stepAddr (kindSize (cKind g 0)) (vget g 0) 47 0 (csgn g 8 23 0))
  vset g 1 (stepAddr (kindSize (cKind g 1)) (vget g 1) 47 0 (csgn g 8 47 24))

/-! ### Start checks (spec/10 R255) -/

def CopyOp.usesSrc : CopyOp → Bool
  | .fill | .bgo => false
  | _ => true
def CopyOp.usesDst : CopyOp → Bool
  | .net | .bgo => false
  | _ => true
def CopyOp.usesIdx : CopyOp → Bool
  | .gath | .scat | .kvc | .dx | .net => true
  | _ => false
def CopyOp.usesPath : CopyOp → Bool
  | .go | .pfd | .arm | .fill | .gath | .scat | .kvc | .net => true
  | _ => false
def CopyOp.usesBank : CopyOp → Bool
  | .mred | .bgo => false
  | _ => true

def rtyIn (g : CImg) : Nat := if cfld g 7 17 16 ≤ 1 then 2 else 4
def rtyOut (g : CImg) : Nat := if cfld g 7 17 16 = 0 then 2 else 4

/-- A start the checks of spec/10 R255 refuse. -/
def cRefused (op : CopyOp) (tok : Nat) (g : CImg) : Bool :=
  (op.usesSrc && cKind g 0 == 3) || (op.usesDst && cKind g 1 == 3) || (op.usesIdx && cKind g 4 == 3) ||
  (op.usesPath && cfld g 7 47 46 == 3) || (op == .mred && cfld g 7 19 18 == 3) || (op == .dx && cfld g 7 11 10 == 3) ||
  (op != .pfd && tok == 0) ||
  ((op == .bcast || op == .mred) && cfld g 7 63 56 == 0) ||
  (op == .mred && (cKind g 0 != 1 || cKind g 1 != 1 || cLen g % rtyIn g != 0)) ||
  (op == .bcast && cKind g 1 != 1) ||
  (op == .dx && 8 * cLen g % (2 * cEW g) != 0)

/-! ### Banks (spec/10 R259) -/

def wrapOff (kind : Nat) (a : Int) : Nat := (a % (if kind = 2 then 2097152 else scratchSize : Int)).toNat

/-- Kind-0 ranges that a start can compute at issue. -/
def cKnown (op : CopyOp) (g : CImg) : List (Nat × Nat) :=
  let nr := cRows g
  let len := cLen g
  let rows := fun (er : Nat) (str : Int) (n m : Nat) =>
    if cKind g er = 0 && m != 0 then (List.range n).map fun (r : Nat) => (wrapOff 0 (cBase g er + (r : Int) * str), m) else []
  let idx := fun (b : Int) (m : Nat) => if cKind g 4 = 0 then [(wrapOff 0 b, m)] else []
  match op with
  | .go | .pfd | .arm | .bcast => rows 0 (cSStr g) nr len ++ rows 1 (cDStr g) nr len
  | .fill => rows 1 (cDStr g) nr len
  | .net => rows 0 (cSStr g) nr len ++ idx (cIdxBase g) 64
  | .gath => rows 1 (cDStr g) nr len ++ idx (cIdxBase g) (4 * nr)
  | .scat => rows 0 (cSStr g) nr len ++ idx (cIdxBase g) (4 * nr)
  | .kvc => rows 1 (cDStr g) nr len ++ idx (cIdxBase g - 8) (4 * nr + 8)
  | .dx =>
    let k := 2 * (8 * len / cEW g)
    rows 0 (cSStr g) nr len ++ idx (cIdxBase g) ((nr * k + 7) / 8) ++
    (if cfld g 7 9 9 = 0 then rows 1 (cDStr g) nr ((k * cEW g + 7) / 8) else rows 1 (cDStr g) k ((nr * cEW g + 7) / 8))
  | .mred | .bgo => []

def cBset (op : CopyOp) (g : CImg) : BitVec 64 := if op.usesBank then vget g 6 else 0

def cBanks (op : CopyOp) (g : CImg) : BitVec 64 :=
  if cLen g = 0 then cBset op g else cBset op g ||| banksOfAll (cKnown op g)

/-! ### Addresses (spec/10 R261) -/

/-- Status of a refused access: spec/10 R261. -/
def cStatus (kind : Nat) : Int :=
  match kind with
  | 0 | 2 => -2
  | 4 => -4
  | _ => -3

/-- Chimneys of a die that PATH allows and whose links are up: spec/10 R254, R264. -/
def State.chimneys (s : State) (die path : Nat) : List Nat :=
  [0, 1].filter fun w => (path = 0 || path = w + 1) && s.links.getLsbD (2 * die + w)

/-- A Chimney's access table grants traffic of a kind (0 data, 1 agreement) to a remote device (spec/18 R352). -/
def State.chimneyGrants (s : State) (a : Acc) (w bit dev : Nat) : Bool :=
  let e := s.accEntry (keyDie a.key) (2 + w) a.accid
  a.accid == 0 || (e.testBit bit && e.testBit (64 + dev / 64))

/-- The fabric table's entry of a device; zero names none (spec/21 R413). -/
def State.fabEntry (s : State) (dev : Nat) : Nat := rdNat s.mem ((s.dget 0 offFABBASE).toNat + 16 * dev) 16

/-- A place a copy reads or writes: here, or in the remote device. -/
inductive CPlace where
  | here (pa cl : Nat)
  | away
deriving DecidableEq, Repr

abbrev CErr := Int × Word

/-- Where the choice among the entries of a run is made, and that of a failed walk: once for each 4 KiB. -/
def pageTag (va : Word) : Nat := 3 * 2 ^ 59 + va.toNat / 4096

/-- Translate and check one address for a copy engine, which translates each page once (R261). -/
def State.accessOnce (s : State) (a : Acc) (k : AKind) (va : Word) : Except Nat Tr :=
  if !canonical va then .error 2 else s.reach a k .copy (s.translateOnce a k va (pageTag va))

def State.cPlace (s : State) (x : Copy) (kind : Nat) (a : Int) (k : AKind) : Except CErr CPlace :=
  if kind = 1 then
    let va := BitVec.ofInt 64 a
    match s.accessOnce x.acc k va with
    | .error n => .error (cStatus n, va)
    | .ok t =>
      match locate t.pa with
      | .remote dev _ =>
        let die := keyDie x.acc.key
        let ways := s.chimneys die (if x.op.usesPath then cfld x.img 7 47 46 else 0)
        if s.fenced die || ways.isEmpty || s.fabEntry dev == 0 then .error (-4, va)
        else if ways.any fun w => s.chimneyGrants x.acc w 0 dev then .ok .away else .error (-3, va)
      | _ => if k.writes && s.idleRange t.pa then .error (-3, va) else .ok (.here t.pa t.cl)
  else
    let off := wrapOff kind a
    if kind = 2 then .ok (.here (winAddr x.acc.key off) 1)
    else if !(cBset x.op x.img).getLsbD (off / bankSize) && x.op.usesBank then .error (-5, BitVec.ofNat 64 off)
    else .ok (.here (scratchAddr (keyDie x.acc.key) (keyCluster x.acc.key) off) 1)

/-! ### Rows -/

/-- What a copy has done so far: its writes, newest first, and the row of each; rows completed; whether it has read and written a
remote device (spec/10 R261). -/
structure CWork where
  ws   : List (Nat × Byte) := []
  rows : List Nat := []
  srcAway : Bool := false
  dstAway : Bool := false
  done : Nat := 0
  /-- bytes counted for the token -/
  cnt  : Nat := 0
  /-- bytes taken from the remote answer -/
  took : Nat := 0

/-- A byte at a place, this copy's own earlier writes first (spec/10 R262). -/
def State.cByte (s : State) (x : Copy) (ws : List (Nat × Byte)) (pa cl tag : Nat) : Byte :=
  match ws.find? (fun p => p.1 == pa) with
  | some p => p.2
  | none => s.engByte (s.coreOf x.acc.key) pa cl x.hseq x.acq x.fwd x.onWay tag

/-- Read n bytes from an address on; the flag says that some came from a remote device. -/
def State.cRead (s : State) (x : Copy) (rp : Remote) (w : CWork) (kind : Nat) (a : Int) (tag : Nat) :
    Nat → Nat → Except CErr (List Byte × Bool)
  | 0, _ => .ok ([], false)
  | n + 1, i =>
    match s.cPlace x kind (a + i) .rd with
    | .error e => .error e
    | .ok p =>
      let b : Except CErr (Byte × Bool) := match p with
        | .here pa cl => .ok (s.cByte x w.ws pa cl (tag + i), false)
        | .away => if rp.status < 0 then .error (rp.status, BitVec.ofInt 64 (a + i))
          else .ok ((rp.data[w.took + i]?).getD 0, true)
      match b, s.cRead x rp w kind a tag n (i + 1) with
      | .error e, _ => .error e
      | .ok _, .error e => .error e
      | .ok v, .ok r => .ok (v.1 :: r.1, v.2 || r.2)

/-- Places of n bytes to write. -/
def State.cDest (s : State) (x : Copy) (rp : Remote) (kind : Nat) (a : Int) (k : AKind) :
    Nat → Nat → Except CErr (List (Option Nat))
  | 0, _ => .ok []
  | n + 1, i =>
    match s.cPlace x kind (a + i) k with
    | .error e => .error e
    | .ok p =>
      let q : Except CErr (Option Nat) := match p with
        | .here pa _ => .ok (some pa)
        | .away => if rp.status < 0 then .error (rp.status, BitVec.ofInt 64 (a + i)) else .ok none
      match q, s.cDest x rp kind a k n (i + 1) with
      | .error e, _ => .error e
      | .ok _, .error e => .error e
      | .ok v, .ok r => .ok (v :: r)

/-- Add the writes of one row: newest first, so that a later row's bytes remain. -/
def CWork.put (w : CWork) (ps : List (Option Nat)) (bs : List Byte) : CWork :=
  let here := (ps.zip bs).filterMap fun p => p.1.map fun a => (a, p.2)
  { w with ws := here.reverse ++ w.ws, rows := List.replicate here.length w.done ++ w.rows
           dstAway := w.dstAway || ps.any (·.isNone) }

/-- A row whose source bytes have been read, some of them remote where `far` says so. -/
def CWork.read (w : CWork) (n : Nat) (far : Bool) : CWork :=
  if far then { w with srcAway := true, took := w.took + n } else w

/-- A copy reads or writes region 0x8 on one side only (R261). -/
def CWork.bothAway (w : CWork) : Bool := w.srcAway && w.dstAway

/-- Move one row of n bytes. -/
def State.cMove (s : State) (x : Copy) (rp : Remote) (w : CWork) (sk : Nat) (sa : Int) (dk : Nat) (da : Int) (n tag : Nat) :
    Except (CErr × CWork) CWork :=
  match s.cRead x rp w sk sa tag n 0 with
  | .error e => .error (e, w)
  | .ok r =>
    match s.cDest x rp dk da .wr n 0 with
    | .error e => .error (e, w)
    | .ok ps =>
      let w1 := (w.read n r.2).put ps r.1
      if w1.bothAway then .error ((-3, BitVec.ofInt 64 da), w)
      else .ok { w1 with done := w.done + 1, cnt := w.cnt + n }

/-- Work rows r0 to nr − 1 in increasing order, stopping at the first failure. -/
def rowsFrom (f : CWork → Nat → Except (CErr × CWork) CWork) : Nat → Nat → CWork → Except (CErr × CWork) CWork
  | 0, _, w => .ok w
  | n + 1, r, w =>
    match f w r with
    | .error e => .error e
    | .ok w => rowsFrom f n (r + 1) w

def rowTag (r : Nat) : Nat := r * 2 ^ 33

/-- Bytes of a copy's side data and where they begin: an index list, with the progress word of `ckvc` before it, or the metadata of
`cdx`. -/
def cSide (x : Copy) : Nat × Int :=
  let nr := cRows x.img
  match x.op with
  | .gath | .scat => (4 * nr, cIdxBase x.img)
  | .kvc => (8 + 4 * nr, cIdxBase x.img - 8)
  | .dx => ((nr * (2 * (8 * cLen x.img / cEW x.img)) + 7) / 8, cIdxBase x.img)
  | _ => (0, 0)

/-- Bytes of the remote answer that are side data: they come before the rows' (log 97). -/
def State.cSideAway (s : State) (x : Copy) : Nat :=
  let p := cSide x
  if p.1 = 0 then 0
  else match s.cPlace x (cKind x.img 4) p.2 .rd with
    | .ok .away => p.1
    | _ => 0

/-- Side data, n bytes from byte i of it on. -/
def State.cSideRead (s : State) (x : Copy) (rp : Remote) (w : CWork) (i n tag : Nat) : Except CErr Nat :=
  (s.cRead x rp { w with took := i } (cKind x.img 4) ((cSide x).2 + i) tag n 0).map fun r => leNat r.1

/-- The index of entry j: spec/10 R265. -/
def State.cIndex (s : State) (x : Copy) (rp : Remote) (w : CWork) (j : Nat) : Except CErr Nat :=
  s.cSideRead x rp w ((if x.op = .kvc then 8 else 0) + 4 * j) 4 (2 ^ 60 + 4 * j)

/-- One step of `cgath`, `cscat` and `ckvc`: entry j's source and destination by its index, none when skipped. -/
def State.cEntry (s : State) (x : Copy) (rp : Remote) (scatter : Bool) (w : CWork) (j : Nat) :
    Except (CErr × CWork) CWork :=
  let g := x.img
  match s.cIndex x rp w j with
  | .error e => .error (e, w)
  | .ok i =>
    if i = 0xFFFFFFFF then .ok { w with done := w.done + 1 }
    else
      let si : Int := if scatter then j else i
      let di : Int := if scatter then i else j
      s.cMove x rp w (cKind g 0) (cBase g 0 + si * cSStr g) (cKind g 1) (cBase g 1 + di * cDStr g) (cLen g) (rowTag j)

/-- A row of `cfill`. -/
def State.cFillRow (s : State) (x : Copy) (rp : Remote) (w : CWork) (r : Nat) : Except (CErr × CWork) CWork :=
  let g := x.img
  match s.cDest x rp (cKind g 1) (cBase g 1 + r * cDStr g) .wr (cLen g) 0 with
  | .error e => .error (e, w)
  | .ok ps =>
    let w := w.put ps ((List.range (cLen g)).map fun t => byteOf x.pat (t % 8))
    .ok { w with done := w.done + 1, cnt := w.cnt + cLen g }

/-- Write w bits at bit position `pos` of a kind's space: whole bytes, or a nibble read and written back, in the remote device where it
lies there. -/
def State.cPutBits (s : State) (x : Copy) (rp : Remote) (w : CWork) (kind : Nat) (pos : Int) (bits v tag : Nat) :
    Except CErr CWork :=
  let a := pos / 8
  if bits < 8 then
    match s.cPlace x kind a .rw with
    | .error e => .error e
    | .ok .away => if rp.status < 0 then .error (rp.status, BitVec.ofInt 64 a) else .ok (w.put [none] [0])
    | .ok (.here pa cl) =>
      let old := s.cByte x w.ws pa cl tag
      .ok (w.put [some pa] [BitVec.ofNat 8 (setField 4 old.toNat ((pos % 8).toNat / 4) v)])
  else
    match s.cDest x rp kind a .wr (bits / 8) 0 with
    | .error e => .error e
    | .ok ps => .ok (w.put ps (leBytes (bits / 8) v))

/-- A row of `cdx`: spec/10 R266. A row's metadata is K bits long and follows the one before it at once (log 92). -/
def State.cDxRow (s : State) (x : Copy) (rp : Remote) (w : CWork) (r : Nat) : Except (CErr × CWork) CWork :=
  let g := x.img
  let ew := cEW g
  let h := 8 * cLen g / ew
  let k := 2 * h
  match s.cRead x rp w (cKind g 0) (cBase g 0 + r * cSStr g) (rowTag r) (cLen g) 0,
        s.cSideRead x rp w (r * k / 8) ((r * k % 8 + k + 7) / 8) (rowTag r + 2 ^ 32) with
  | .error e, _ => .error (e, w)
  | _, .error e => .error (e, w)
  | .ok row, .ok meta' =>
    let rv := leNat row.1
    let mv := meta' / 2 ^ (r * k % 8)
    let val := fun i => natBits rv (ew * i + ew - 1) (ew * i)
    let dense := fun j =>
      let grp := j / 4
      let nib := natBits mv (4 * grp + 3) (4 * grp)
      if nib / 4 = j % 4 then val (2 * grp + 1) else if nib % 4 = j % 4 then val (2 * grp) else 0
    let tr := cfld g 7 9 9 == 1
    let res := rowsFrom (fun w j =>
      let pos : Int := if tr then 8 * cBase g 1 + 8 * cDStr g * j + ew * r else 8 * cBase g 1 + 8 * cDStr g * r + ew * j
      match s.cPutBits x rp w (cKind g 1) pos ew (dense j) (rowTag r + 2 ^ 31 + 8 * j) with
      | .error e => .error (e, w)
      | .ok w1 => if w1.bothAway then .error ((-3, BitVec.ofInt 64 (pos / 8)), w) else .ok w1) k 0 (w.read (cLen g) row.2)
    res.map fun w => { w with done := w.done + 1, cnt := w.cnt + k * ew / 8 }

/-! ### Through the hub (spec/10 R273 to R275) -/

/-- The same place on die d: spec/10 R273. None where the address has no die field. -/
def onDie (pa d : Nat) : Option Nat :=
  match locate pa with
  | .dram _ => some (pa - natBits pa 38 36 * 2 ^ 36 + d * 2 ^ 36)
  | .win _ => some (pa - natBits pa 47 45 * 2 ^ 45 + d * 2 ^ 45)
  | _ => none

def diesOf (g : CImg) : List Nat := (List.range 8).filter (cfld g 7 63 56).testBit

/-- A die that is fenced, or whose link to the hub is down. -/
def State.dieLost (s : State) (d : Nat) : Bool := s.fenced d || s.hubDown.getLsbD d

/-- A die that does not answer this master through the hub, its own among them. -/
def State.dieShut (s : State) (a : Acc) (d : Nat) : Bool :=
  s.dieLost d || a.part != s.partOf d || (decide (keyDie a.key ≠ d) && s.dieLost (keyDie a.key))

/-- A substituted address: it alone is checked, as an access of the issuing context (spec/16 R337). -/
def State.cOnDie (s : State) (x : Copy) (k : AKind) (d : Nat) (va : Word) (pa : Nat) : Except CErr Nat :=
  match onDie pa d with
  | none => .error (-3, va)
  | some q =>
    if s.dieShut x.acc d && !x.cut then .error (-4, BitVec.ofNat 64 q)
    else if !s.granted x.acc k q (locate q) then .error (-3, va)
    else if k.writes && s.idleRange q then .error (-3, va) else .ok q

/-- The translation of an address of an address group; what stands at its own die is not checked. -/
def State.cTrans (s : State) (x : Copy) (k : AKind) (va : Word) : Except CErr Nat :=
  if !canonical va then .error (-2, va)
  else match s.translateOnce x.acc k va (pageTag va) with
    | .fault => .error (-2, va)
    | .shut => .error (-4, va)
    | .leaf t => .ok t.pa

/-- Destinations of one row on one die. -/
def State.cDestOn (s : State) (x : Copy) (d : Nat) (a : Int) (k : AKind) : Nat → Nat → Except CErr (List Nat)
  | 0, _ => .ok []
  | n + 1, i =>
    match s.cTrans x k (BitVec.ofInt 64 (a + i)) with
    | .error e => .error e
    | .ok p =>
      match s.cOnDie x k d (BitVec.ofInt 64 (a + i)) p, s.cDestOn x d a k n (i + 1) with
      | .error e, _ => .error e
      | .ok _, .error e => .error e
      | .ok q, .ok r => .ok (q :: r)

/-- Write one row's bytes on every die; on every live one where a die was lost after the start (R275). A lost die's destination is
checked like the others (spec/16 R337). -/
def State.cPutAll (s : State) (x : Copy) (a : Int) (bs : List Byte) : List Nat → CWork → Except CErr CWork
  | [], w => .ok w
  | d :: ds, w =>
    match s.cDestOn x d a .wr bs.length 0 with
    | .error e => .error e
    | .ok ps => s.cPutAll x a bs ds (if x.cut && s.dieLost d then w else w.put (ps.map some) bs)

def State.cBcastRow (s : State) (x : Copy) (rp : Remote) (w : CWork) (r : Nat) : Except (CErr × CWork) CWork :=
  let g := x.img
  match s.cRead x rp w (cKind g 0) (cBase g 0 + r * cSStr g) (rowTag r) (cLen g) 0 with
  | .error e => .error (e, w)
  | .ok row =>
    match s.cPutAll x (cBase g 1 + r * cDStr g) row.1 (diesOf g) (w.read (cLen g) row.2) with
    | .error e => .error (e, w)
    | .ok w => .ok { w with done := w.done + 1, cnt := w.cnt + cLen g }

/-- One step of the hub's combine: spec/10 R274. -/
def redOp (rty rop : Nat) (a b : Nat) : Nat :=
  if rty = 3 then
    let x := toSigned 32 a
    let y := toSigned 32 b
    match rop with
    | 0 => (a + b) % 2 ^ 32
    | 1 => if x < y then b else a
    | _ => if y < x then b else a
  else
    match rop with
    | 0 => (fmtF32.add { mode := .rne, sat := .ovfi } (fmtF32.val a) (fmtF32.val b)).1
    | 1 => (fmtF32.minmax true a b).1
    | _ => (fmtF32.minmax false a b).1

def redIn (rty v : Nat) : Nat :=
  if rty ≤ 1 then
    match fmtBf16.val v with
    | .nan _ => fmtF32.qnan
    | _ => v * 2 ^ 16
  else if rty = 2 then (match fmtF32.val v with | .nan _ => fmtF32.qnan | _ => v) else v

def redOut (rty v : Nat) : Nat :=
  if rty = 0 then (fmtBf16.roundFV { mode := .rne, sat := .ovfi } (fmtF32.val v)).1 else v

/-- Bytes of a source row on die d, read at its home. -/
def State.cReadOn (s : State) (x : Copy) (w : CWork) (d : Nat) (a : Int) (n tag : Nat) : Except CErr (List Byte) :=
  (s.cDestOn x d a .rd n 0).map fun ps =>
    (List.range n).map fun i => s.cByte x w.ws ((ps[i]?).getD 0) 1 (tag + d * 2 ^ 26 + i)

def State.cReadAll (s : State) (x : Copy) (w : CWork) (a : Int) (n tag : Nat) : List Nat → Except CErr (List (List Byte))
  | [] => .ok []
  | d :: ds =>
    match s.cReadOn x w d a n tag, s.cReadAll x w a n tag ds with
    | .error e, _ => .error e
    | .ok _, .error e => .error e
    | .ok v, .ok r => .ok (v :: r)

def State.cMredRow (s : State) (x : Copy) (w : CWork) (r : Nat) : Except (CErr × CWork) CWork :=
  let g := x.img
  let rty := cfld g 7 17 16
  let rop := cfld g 7 19 18
  let iw := rtyIn g
  match s.cReadAll x w (cBase g 0 + r * cSStr g) (cLen g) (rowTag r) (diesOf g) with
  | .error e => .error (e, w)
  | .ok rows =>
    let elem := fun (b : List Byte) e => redIn rty (leNat ((b.drop (iw * e)).take iw))
    let out := (List.range (cLen g / iw)).flatMap fun e =>
      leBytes (rtyOut g) (redOut rty (match rows with
        | [] => 0
        | b :: bs => bs.foldl (fun acc b => redOp rty rop acc (elem b e)) (elem b e)))
    match s.cPutAll x (cBase g 1 + r * cDStr g) out (diesOf g) w with
    | .error e => .error (e, w)
    | .ok w => .ok { w with done := w.done + 1, cnt := w.cnt + out.length }

/-! ### A whole copy -/

/-- Some, all or none of the bytes before a failure are written: a free bit for each (spec/10 R261). -/
def State.someOf (s : State) (ws : List (Nat × Byte)) : List (Nat × Byte) :=
  ((ws.zip (List.range ws.length)).filter fun p => (s.free 1 (2 ^ 62 + p.2)) == 1#1).map (·.1)

/-- What stands of a copy's writes where it ends after some of them: a free number of rows in full, from `lo` to those of `r`, and
any part of the rest (R261); DONE counts the rows in full (spec/18 R358). -/
def State.cutShort (s : State) (lo : Nat) (r : CRes) : CRes :=
  let d := lo + s.freeNat (2 ^ 62 - 1) % (r.done - lo + 1)
  let all := r.ws.zip r.rows
  let keep := (all.zip (List.range all.length)).filter fun p => decide (p.1.2 < d) || s.free 1 (2 ^ 62 + p.2) == 1#1
  { r with ws := keep.map (·.1.1), rows := keep.map (·.1.2), done := d }

/-- The rows below d, and no other. -/
def CRes.firstRows (r : CRes) (d : Nat) : CRes :=
  let l := (r.ws.zip r.rows).filter fun p => decide (p.2 < d)
  { r with ws := l.map (·.1), rows := l.map (·.2), done := d }

def CWork.res (w : CWork) (status : Int) (faddr : Word) : CRes :=
  { ws := w.ws.reverse, status := status, done := w.done, faddr := faddr, rows := w.rows.reverse }

def State.cOutcome (s : State) (x : Copy) (full : Nat) (r : Except (CErr × CWork) CWork) : CRes :=
  match r with
  | .ok w => w.res (w.cnt + full : Nat) 0
  | .error (e, w) =>
    let r := w.res (if x.op == .pfd then -1 else e.1) e.2
    -- the rows before one that leaves BSET have landed (R259)
    if e.1 = -5 then r else s.cutShort (x.row0 - 1) r

/-- A byte at its home as it stood at a place of the write order. -/
def State.homeByteAt (s : State) (n a tag : Nat) : Byte :=
  s.hist.foldl (fun v e => if e.addr = a && decide (n ≤ e.seq) then e.old else v) (s.homeByte a tag)

/-- Places of the 64-bit progress word of `ckvc`, before its index list: spec/10 R276. -/
def State.cProgress (s : State) (x : Copy) (rp : Remote) : Except CErr (List (Option Nat)) :=
  s.cDest x rp (cKind x.img 4) (cIdxBase x.img - 8) .rw 8 0

/-- A byte of the progress word, read strongly at the start: at its home, or in the remote answer. -/
def State.cProgByte (s : State) (x : Copy) (rp : Remote) (i : Nat) : Option Nat → Byte
  | none => (rp.data[i]?).getD 0
  | some a => match x.fwd.find? (fun q => q.1 == a) with
    | some q => q.2
    | none => s.homeByteAt x.hseq a (2 ^ 59)

def State.cKvc (s : State) (x : Copy) (rp : Remote) : CRes :=
  match s.cProgress x rp with
  | .error e => { ws := [], status := e.1, done := 0, faddr := e.2 }
  | .ok ps =>
    let p := leNat ((ps.zip (List.range 8)).map fun q => s.cProgByte x rp q.2 q.1)
    -- the progress word of entry j is the last write of its row
    let mark := fun (w : CWork) (j : Nat) => { CWork.put { w with done := j } ps (leBytes 8 (j + 1)) with done := w.done }
    let r := rowsFrom (fun w j =>
      match s.cEntry x rp false w j with
      | .error e => .error e
      | .ok w => .ok (mark w j)) (cRows x.img - p) p { done := p, took := s.cSideAway x }
    match r with
    | .ok w => w.res (w.cnt : Nat) 0
    | .error (e, w) => w.res e.1 e.2

/-- First failed address of a reduction over a die that does not answer: that die's source in row r, a physical address
(spec/16, the rerun; log 24). -/
def State.mredBad (s : State) (x : Copy) (r : Nat) : Word :=
  let a := cBase x.img 0 + (r : Nat) * cSStr x.img
  let va := BitVec.ofInt 64 a
  match (diesOf x.img).find? (s.dieShut x.acc), s.cTrans x .rd va with
  | some d, .ok pa => ((onDie pa d).map (BitVec.ofNat 64)).getD va
  | _, _ => va

/-- What a copy does when it runs to its end. -/
def State.cRun (s : State) (x : Copy) (rp : Remote) : CRes :=
  let g := x.img
  let nr := cRows g
  let r0 := x.row0 - 1
  let w0 : CWork := { done := r0, took := s.cSideAway x }
  let plain := fun w r => s.cMove x rp w (cKind g 0) (cBase g 0 + (r : Nat) * cSStr g) (cKind g 1)
    (cBase g 1 + (r : Nat) * cDStr g) (cLen g) (rowTag r)
  match x.op with
  | .go | .pfd | .arm => s.cOutcome x (r0 * cLen g) (rowsFrom plain (nr - r0) r0 w0)
  | .fill => s.cOutcome x (r0 * cLen g) (rowsFrom (s.cFillRow x rp) (nr - r0) r0 w0)
  | .gath | .scat =>
    let skipped := ((List.range r0).filter fun j => match s.cIndex x rp w0 j with
      | .ok i => i != 0xFFFFFFFF
      | .error _ => false).length
    s.cOutcome x (skipped * cLen g) (rowsFrom (s.cEntry x rp (x.op == .scat)) (nr - r0) r0 w0)
  | .dx => s.cOutcome x (r0 * (2 * cLen g)) (rowsFrom (s.cDxRow x rp) (nr - r0) r0 w0)
  | .bcast => s.cOutcome x 0 (rowsFrom (s.cBcastRow x rp) nr 0 w0)
  | .mred =>
    match rowsFrom (s.cMredRow x) nr 0 w0 with
    -- a refusal of any row ends it before anything is written (spec/16 R337)
    | .error (e, _) => { ws := [], status := e.1, done := 0, faddr := e.2 }
    | .ok w =>
      let r := s.cOutcome x 0 (.ok w)
      -- lost after the start: the rows before the one in progress stand on the live dies (spec/10 R275)
      if x.cut then { r.firstRows (s.freeNat (2 ^ 62) % nr) with status := -4, faddr := s.mredBad x (s.freeNat (2 ^ 62) % nr) }
      else r
  | .kvc => s.cKvc x rp
  | .net | .bgo => { ws := [], status := 0, done := 0, faddr := 0 }

/-- First offset of known ranges that leaves BSET (spec/10 R259). -/
def badOff (b : BitVec 64) (rs : List (Nat × Nat)) : Option Nat :=
  rs.findSome? fun r =>
    ((List.range 65).map fun j => if j = 0 then r.1 else (r.1 / bankSize + j) * bankSize).find? fun o =>
      decide (o < r.1 + r.2) && !b.getLsbD (o / bankSize % 64)

/-- What a copy leaves when it ends: at once where issue fixed its status, else its run. -/
def State.cFinish (s : State) (x : Copy) (reply : Remote) : CRes :=
  match x.early with
  | some st =>
    if x.cut then s.cRun x reply
    else if x.op == .mred && st == -4 then { ws := [], status := -4, done := 0, faddr := s.mredBad x 0 }
    else
      let fa : Word := if st = -5 then BitVec.ofNat 64 ((badOff (vget x.img 6) (cKnown x.op x.img)).getD 0)
        else if st = 0 || st = -1 then 0 else BitVec.ofInt 64 (cIdxBase x.img)
      { ws := [], status := st, done := 0, faddr := fa }
  | none => s.cRun x reply

def State.copyOf (s : State) (id : Nat) : Option Copy := s.core.copies.find? fun x => x.id == id

/-- The send descriptor of `cnet`, read strongly at its release: what this core released before is part of it. -/
def State.cnetDesc (s : State) (x : Copy) : Except CErr Nat :=
  (s.cDest x { status := -3, data := [] } (cKind x.img 4) (cIdxBase x.img) .rd 64 0).map fun ps =>
    leNat (ps.map fun p => match ((s.coreOf x.acc.key).rel.filterMap (Released.at (p.getD 0))).getLast? with
      | some b => b
      | none => s.homeByte (p.getD 0) (2 ^ 60))

/-- Chimneys that a send may take: of a die that is not fenced, as PATH says, with their links up (spec/10 R254, R264). -/
def State.cnetWays (s : State) (x : Copy) : List Nat :=
  if s.fenced (keyDie x.acc.key) then [] else s.chimneys (keyDie x.acc.key) (cfld x.img 7 47 46)

/-- A status that ends a send as it is released, if any (spec/21 R416, spec/10 R264, spec/18 R352). -/
def State.cnetCheck (s : State) (x : Copy) : Option Int :=
  match s.cnetDesc x with
  | .error e => some e.1
  | .ok d =>
    let dev := natBits d 11 0
    if natBits d 63 12 != 0 || natBits d 127 100 != 0 || natBits d 135 130 != 0 || 2 ≤ natBits d 129 128 ||
       natBits d 159 137 != 0 || natBits d 191 168 != 0 || natBits d 511 192 != 0 then some (-3)
    else if s.fabEntry dev == 0 || (s.cnetWays x).isEmpty then some (-4)
    else if (s.cnetWays x).any fun w => s.chimneyGrants x.acc w 0 dev then none
    else some (-3)

/-- Release a withheld send. -/
def State.cnetFire (s : State) (key id : Nat) : State :=
  (s.fire key id).modCore key fun c => { c with copies := c.copies.map fun y =>
      if y.id == id && y.early.isNone then { y with early := s.cnetCheck y } else y }

/-- A status that no copy ends with: an answer that stands for one still to come. -/
def noAnswer : Int := -1000

/-- A copy that meets a remote device on its way, at any row, index or progress word: only the outside ends it. -/
def State.cRemote (s : State) (x : Copy) : Bool :=
  match x.op with
  | .net => true
  | .bgo => false
  | _ =>
    x.rest.isNone && x.early.isNone && [0, 1, 4].any (fun er => cKind x.img er == 1) &&
      (s.cRun { x with op := if x.op == .pfd then .go else x.op } { status := noAnswer, data := [] }).status == noAnswer

/-! ### Destinations in another device or the host -/

/-- The number of entry j as its index gives it, or its own. -/
def State.cNum (s : State) (x : Copy) (indexed : Bool) (j : Nat) : Option Nat :=
  if !indexed then some j
  else match s.cIndex x { status := 0, data := [] } {} j with
    | .ok i => if i = 0xFFFFFFFF then none else some i
    | .error _ => none

/-- Byte ranges that a copy reads as its source, and those that it writes. -/
def State.cSrcRanges (s : State) (x : Copy) : List (Int × Nat) :=
  (List.range (cRows x.img)).filterMap fun j =>
    (s.cNum x (x.op == .gath || x.op == .kvc) j).map fun (i : Nat) => (cBase x.img 0 + (i : Int) * cSStr x.img, cLen x.img)

def State.cDestRanges (s : State) (x : Copy) : List (Int × Nat) :=
  let g := x.img
  let k := 2 * (8 * cLen g / cEW g)
  let at' := fun (i : Nat) => cBase g 1 + (i : Int) * cDStr g
  match x.op with
  | .dx =>
    if cfld g 7 9 9 = 0 then (List.range (cRows g)).map fun r => (at' r, (k * cEW g + 7) / 8)
    else (List.range k).map fun j => (at' j, (cRows g * cEW g + 7) / 8)
  | .mred => (List.range (cRows g)).map fun r => (at' r, cLen g / rtyIn g * rtyOut g)
  | _ => (List.range (cRows g)).filterMap fun j => (s.cNum x (x.op == .scat) j).map fun i => (at' i, cLen g)

/-- The first byte of each page of n bytes at a place. -/
def pageStarts (a : Int) (n : Nat) : List Int :=
  if n = 0 then [] else a :: ((List.range (n / 4096 + 1)).map fun i => (a / 4096 + 1 + (i : Nat)) * 4096).filter fun b => decide (b < a + n)

/-- Some byte of ranges at virtual addresses translates to a place of a sort, whether or not the access is then refused. -/
def State.reaches (s : State) (x : Copy) (k : AKind) (p : Loc → Bool) (rs : List (Int × Nat)) : Bool :=
  rs.any fun r => (pageStarts r.1 r.2).any fun b =>
    let va := BitVec.ofInt 64 b
    canonical va && (match s.translateOnce x.acc k va (pageTag va) with
      | .leaf t => p (locate t.pa)
      | _ => false)

def Loc.isRemote : Loc → Bool
  | .remote _ _ => true
  | _ => false

/-- A copy into the remote-device aperture: its landing post goes to the remote device's flag (spec/10 R267), and a `fence.fab` waits for
it (spec/07 R180). Its base address says so where it writes no byte. -/
def State.landsAway (s : State) (x : Copy) : Bool :=
  x.op.usesDst && cKind x.img 1 == 1 && s.reaches x .wr Loc.isRemote ((cBase x.img 1, 1) :: s.cDestRanges x)

/-! ### The end of a copy -/

/-- Record a place in the write order for each of a list of addresses, none earlier than the one that stands there. -/
def lastPut : List (Nat × Nat) → List Nat → Nat → List (Nat × Nat)
  | l, [], _ => l
  | l, a :: as, n => lastPut (assocSet l a (max n (assocGet 0 l a))) as n

/-- A status as a register holds it. -/
def statusW (st : Int) : Word := BitVec.ofInt 64 st

def isFault (st : Int) : Bool := decide (st ≤ -2)

/-- A negative status is kept beside its register; a `cpfd` fault never traps (spec/10 R256). -/
def Copy.keepsTok (x : Copy) : Bool := x.status == -1 || (isFault x.status && x.op != .pfd)

/-- Write a status into one register set; a kept fault stands until a bundle has read it (spec/10 R256). -/
def Live.putTok (l : Live) (r : Nat) (x : Copy) : Live :=
  if l.ftok.any (fun t => t.reg == r && isFault t.status && !t.seen) then l
  else
    let rest := l.ftok.filter fun t => t.reg != r
    let f : FTok := { reg := r, code := x.code, status := x.status, start := x.pcb, faddr := x.faddr }
    { l with x := vset l.x r (statusW x.status), ftok := if x.keepsTok then f :: rest else rest }

/-- Where a task's register image stands in memory while it is off its cores (spec/03 R92). -/
def Task.spill (t : Task) : Word := ((t.desc.extractLsb' 192 48).signExtend 64)
def Task.ctx (t : Task) : Nat := (t.desc.extractLsb' 176 16).toNat

/-- Write a status into a core's registers: into the live ones, and the duplicate with them where the status survives a rollback; a
later read of the token acquires what the copy wrote (spec/10 R258, R281). -/
def State.coreTok (s : State) (k r : Nat) (x : Copy) (live dup : Bool) : State :=
  s.modCore k fun c => { c with
    live := if live then c.live.putTok r x else c.live
    dup := if dup then c.dup.putTok r x else c.dup
    tacq := (r, x.wrote, s.wseq) :: c.tacq }

/-- Write a copy's status to its token where the task's state stands: spec/10 R271, R281, spec/20 R390. A handler's copies stand on
the core that runs it. -/
def State.writeTok (s : State) (key : Nat) (x : Copy) : State :=
  match x.tok with
  | none => s
  | some r =>
    if x.disc then s
    else
      let owned := fun k => (s.coreOf k).owner == x.task && (s.coreOf k).phase != .idle && (s.coreOf k).phase != .saving
      match (if x.task = 0 then [key] else s.keys).find? (fun k => owned k) with
      | some k => s.coreTok k r x true (if k = key then !x.sinceCk else true)
      | none =>
        match s.keys.find? (fun k => (s.coreOf k).phase == .handler && (s.coreOf k).task.map (· + 1) == some x.task) with
        | some k => s.coreTok k r x false true
        | none =>
          match s.tasks.find? (fun t => t.id + 1 == x.task && t.held.isSome) with
          | none => s
          | some t =>
            let kept := (t.held.map fun h => h.ftok.any fun f => f.reg == r && isFault f.status && !f.seen).getD false
            if kept then s
            else
              let f : FTok := { reg := r, code := x.code, status := x.status, start := x.pcb, faddr := x.faddr }
              let tasks := s.tasks.map fun u => if u.id == t.id then
                { u with held := u.held.map fun h =>
                    let rest := h.ftok.filter fun g => g.reg != r
                    { h with ftok := if x.keepsTok then f :: rest else rest } } else u
              let s := { s with tasks := tasks }
              let acc := s.ctxAcc key t.ctx true
              match s.vaddrs acc .wr .copy (t.spill + BitVec.ofNat 64 (8 * r)) (2 ^ 61) 8 0 with
              | .ok ps => s.putAt ps (leBytes 8 (statusW x.status).toNat)
              | .error _ => s

/-- The engine fault log of a slot (spec/18 R358): it no longer holds the record of an earlier copy. -/
def State.logFault (s : State) (key slot : Nat) (img : CImg) (done : Nat) (st : Int) (faddr : Word) (op code ctx : Nat) :
    State :=
  let b := offEFLOG (keyIdx key) slot
  let d := keyDie key
  let s := s.modCore key fun c => { c with copies := c.copies.map fun y => if y.slot == slot then { y with logged := false } else y }
  let s := (List.range 9).foldl (fun s i => s.dset d (b + 8 * i) (vget img i)) s
  let s := s.dset d (b + 0x48) (BitVec.ofNat 64 (done % 2 ^ 32 + (st % 2 ^ 32).toNat * 2 ^ 32))
  let s := s.dset d (b + 0x50) faddr
  s.dset d (b + 0x58) (BitVec.ofNat 64 (2 ^ 63 + op * 2 ^ 48 + code * 2 ^ 40 + ctx))

/-- Put writes at their homes, oldest first. -/
def State.putList (s : State) (ws : List (Nat × Byte)) : State := s.putAt (ws.map (·.1)) (ws.map (·.2))

/-- Copies by the order of their starts. -/
def byStart (x : Nat × Copy) : List (Nat × Copy) → List (Nat × Copy)
  | [] => [x]
  | y :: ys => if x.2.ord < y.2.ord then x :: y :: ys else y :: byStart x ys

/-- Drop records of ended copies that nothing refers to any more: their token is written, no landing post waits, no copy of the slot
that started earlier runs, and the slot's fault log holds another. -/
def Core.tidy (c : Core) : Core :=
  { c with copies := c.copies.filter fun y =>
      !(y.state == .ended && y.tokDone && y.land.isNone &&
        !(c.copies.any fun z => z.slot == y.slot && decide (z.ord < y.ord) && z.state == .running) && !y.logged) }

/-- Ended copies of one owner and token whose status may be written, with the cores that hold them: none that started before still runs,
on whatever core of the module its task ran then (spec/10 R256). A handler's copies stand on its core. -/
def State.tokDue (s : State) (key : Nat) (x : Copy) : List (Nat × Copy) :=
  let all := (if x.task = 0 then [key] else s.keys).flatMap fun k => (s.coreOf k).copies.map fun y => (k, y)
  let same := fun p : Nat × Copy => (p.1 == key && p.2.id == x.id) || (p.2.task == x.task && p.2.tok == x.tok && p.2.tok.isSome)
  let mine := all.filter same
  let runs := fun y z : Copy => z.state == .running && !z.disc && decide (z.ord < y.ord)
  (mine.filter fun p => p.2.state == .ended && !p.2.tokDone && (p.2.disc || !(mine.any fun q => runs p.2 q.2))).foldl
    (fun l p => byStart p l) []

/-- Its status has been written, or lost. -/
def Core.tokWritten (c : Core) (id : Nat) : Core :=
  { c with copies := c.copies.map fun y => if y.id == id then { y with tokDone := true } else y }

/-- Write the status words that are due, in start order. -/
def State.settleTok (s : State) (key : Nat) (x : Copy) : State :=
  let due := s.tokDue key x
  let s := due.foldl (fun s p => s.writeTok p.1 p.2) s
  due.foldl (fun s p => s.modCore p.1 fun c => (c.tokWritten p.2.id).tidy) s

/-- Direct writes that this core's own copies and programs make to bytes it has stored come later in the coherence order than those
stores, and its loads find them (spec/12 R320). -/
def State.noteDirect (s : State) (key : Nat) (as : List Nat) : State :=
  let own := as.filter fun a => (s.coreOf key).lastWr.any fun p => p.1 == a
  s.modCore key fun c => if own.isEmpty then c else { c with lastWr := lastPut c.lastWr own s.wseq }

/-- The writes made since a place of the write order count as made at a moment. -/
def State.asOf (s : State) (n step : Nat) : State :=
  { s with hist := s.hist.map fun e => if n ≤ e.seq then { e with step := step } else e }

/-- Writes of a Bellows step or a frame reach their homes: they count as made at its moment. -/
def State.putRest (s : State) (at0 : Nat) (ws : List (Nat × Byte)) : State := (s.putList ws).asOf s.wseq at0

/-- What is still to be written, without what a later write of the same agent replaces. -/
def Rest.without (q : Rest) (ps : List Nat) : Rest := { q with ws := q.ws.filter fun w => !ps.contains w.1 }

/-- A free part of it reaches its home, none that is refused now; what remains. -/
def State.restPart (s : State) (bad : Nat → Bool) (q : Rest) : State × Rest :=
  let l := q.ws.zip (List.range q.ws.length)
  let now := fun p : (Nat × Byte) × Nat => s.free 1 (2 ^ 62 + q.step * 2 ^ 40 + p.2) == 1#1 && !bad p.1.1
  (s.putRest q.at0 ((l.filter now).map (·.1)), { q with ws := (l.filter fun p => !now p).map (·.1) })

/-- The frame stands in its buffer and its entry in the ring: TAIL advances (spec/21 R415). -/
def State.frameTail (s : State) (f : Frame) : State := s.wrNat (f.pa + 0x1C) 4 f.tail

/-- Place writes of a copy: a byte that a later-started copy of its slot has written keeps that value (spec/10 R262). The record says
what it has written. -/
def State.placeCopy (s : State) (key : Nat) (x : Copy) (ws : List (Nat × Byte)) : State × Copy :=
  let later := (s.coreOf key).copies.filter fun y => y.slot == x.slot && decide (x.ord < y.ord)
  let ws := ws.filter fun w => !(later.any fun y => y.wrote.contains w.1)
  let as := ws.map (·.1)
  let ws := if x.junk then as.zip ((List.range as.length).map fun i => s.free 8 (2 ^ 60 + i)) else ws
  let s1 := (s.putList ws).noteDirect key as
  (match x.at0 with
    | some n => s1.asOf s.wseq n
    | none => s1, { x with wrote := x.wrote ++ as })

def State.setCopy (s : State) (key : Nat) (x : Copy) : State :=
  s.modCore key fun c => { c with copies := c.copies.map fun y => if y.id == x.id then x else y }

/-- End a copy with its writes, status and failure: the fault log first, then the token (spec/18 R358). -/
def State.endCopy (s : State) (key : Nat) (x : Copy) (r : CRes) : State :=
  let p := s.placeCopy key x r.ws
  let s := p.1
  let s := if isFault r.status then
      s.logFault key x.slot x.img r.done r.status r.faddr x.op.code x.code x.acc.ctx else s
  let keepLand := decide (0 ≤ r.status) || (x.op == .pfd && r.status == -1)
  let x' : Copy := { p.2 with state := .ended, status := r.status, faddr := r.faddr, tokDone := false, rest := none,
                              logged := isFault r.status,
                              land := if keepLand then x.land else none, far := s.landsAway x }
  ((s.setCopy key x').settleTok key x').modCore key Core.tidy

/-! ### Parts of a copy that others see before it ends (spec/12 R330) -/

/-- Copies whose bytes may be seen one by one. -/
def Copy.inParts (x : Copy) : Bool := x.state == .running && x.early.isNone && x.op != .bgo && x.op != .net

/-- A free part of a copy's writes and what remains: any bytes; of a `ckvc` some first rows whole and bytes of the next, no progress word
before its entry (spec/10 R276). `marks` are the places of the progress word. -/
def State.split (s : State) (ordered : Bool) (marks : List Nat) (r : CRes) : List (Nat × Byte) × CRes :=
  let all := r.ws.zip r.rows
  let first := (r.rows.head?).getD 0
  let k := first + s.freeNat (2 ^ 62 - 1) % (r.done - first + 1)
  let coin := fun i : Nat => s.free 1 (2 ^ 62 + i) == 1#1
  let now := fun (p : ((Nat × Byte) × Nat) × Nat) =>
    if ordered then decide (p.1.2 < k) || (p.1.2 == k && !marks.contains p.1.1.1 && coin p.2) else coin p.2
  let l := all.zip (List.range all.length)
  let rest := (l.filter fun p => !now p).map (·.1)
  ((l.filter now).map (·.1.1), { r with ws := rest.map (·.1), rows := rest.map (·.2) })

/-- The writes that stand, each with its row. -/
def CRes.last (r : CRes) : CRes :=
  let all := (r.ws.zip r.rows).reverse.foldl (fun (l : List ((Nat × Byte) × Nat)) p =>
    if l.any fun q => q.1.1 == p.1.1 then l else p :: l) []
  { r with ws := all.map (·.1), rows := all.map (·.2) }

/-- Places of a `ckvc`'s progress word. -/
def State.cMarks (s : State) (x : Copy) : List Nat :=
  if x.op != .kvc then []
  else match s.cProgress x { status := 0, data := [] } with
    | .ok ps => ps.filterMap id
    | .error _ => []

/-- A free part of what a copy writes reaches its home now; the rest follows. -/
def State.copyPart (s : State) (key : Nat) (x : Copy) (r : CRes) : State :=
  let ordered := x.op == .kvc
  let r := if ordered then r else r.last
  let q := s.split ordered (s.cMarks x) r
  let seen := ((r.ws.zip r.rows).filter fun p => !q.2.ws.contains p.1).map (·.2 + 1)
  let p := s.placeCopy key { x with at0 := some (x.at0.getD s.ctr) } q.1
  p.1.setCopy key { p.2 with rest := some q.2, upTo := seen.foldl max x.upTo }

/-- A virtual address that a copy writes at a place, as its fault log names it; a place on another die, which the hub substitutes, stands
for itself (log 24). -/
def State.cVaOf (s : State) (x : Copy) (pa : Nat) : Word :=
  if x.op == .bcast || x.op == .mred || cKind x.img 1 != 1 then BitVec.ofNat 64 pa
  else ((s.cDestRanges x).findSome? fun r => (List.range r.2).findSome? fun i =>
    let va := BitVec.ofInt 64 (r.1 + (i : Nat))
    match s.cTrans x .wr va with
    | .ok q => if q = pa then some va else none
    | .error _ => none).getD (BitVec.ofNat 64 pa)

/-- A copy of which a part has been seen fails at write i of what remains: some rows before it stand in full and of the others some
bytes, none after it (spec/10 R261); a `ckvc` keeps the entries before it and their progress word (R276). -/
def State.cFailAt (s : State) (x : Copy) (r : CRes) (i : Nat) (st : Int) : CRes :=
  let row := (r.rows[i]?).getD r.done
  let q : CRes := { r with ws := r.ws.take i, rows := r.rows.take i, done := row }
  let q := if x.op == .kvc then q.firstRows row else s.cutShort ((r.rows.head?).getD r.done) q
  { q with status := if x.op == .pfd then -1 else st, faddr := s.cVaOf x (((r.ws[i]?).getD (0, 0)).1) }

/-- Writes of what remains, each with its place in the list. -/
def CRes.numbered (r : CRes) : List (Nat × Nat) := (r.ws.map (·.1)).zip (List.range r.ws.length)

/-- What a copy of which part has been seen still does. Each write is checked as it is made: the first that its path, a table or a core
that runs refuses now ends the copy (R261, spec/18 R351, R352). Where a reduction lost a die meanwhile, the rows before the one in progress,
which is none of those seen, stand on the live dies, and no later one (R275). -/
def State.cRest (s : State) (x : Copy) (r : CRes) : CRes :=
  if x.cut then
    let d := x.upTo + s.freeNat (2 ^ 62) % (r.done - x.upTo)
    let q := r.firstRows (min d r.done)
    let live := (q.ws.zip q.rows).filter fun p => match locDie (locate p.1.1) with
      | some d => !s.dieLost d
      | none => true
    { q with ws := live.map (·.1), rows := live.map (·.2), status := -4, faddr := s.mredBad x (min d (cRows x.img - 1)) }
  else match r.numbered.findSome? fun p => (s.wrBad x.acc p.1).map fun st => (p.2, st) with
    | none => r
    | some (i, st) => s.cFailAt x r i st

/-- The copy at a place of the list lets a part of its bytes be seen; one that an outside answer ends waits for it. -/
def State.copyPartAt (s : State) (i : Nat) : State :=
  match s.core.copies[i]? with
  | none => s
  | some x =>
    if x.inParts && !s.cRemote x then s.copyPart s.here x (match x.rest with
      | some r => s.cRest x r
      | none => s.cFinish x { status := 0, data := [] }) else s

/-- A copy of which a part has been seen, as a die's hub port closes: what of it passes the port has been accepted, and is done, or fails at
the first byte that has not (spec/18 R350). -/
def State.portCopy (s : State) (cross : Nat → Bool) (key : Nat) (x : Copy) : State :=
  match x.rest with
  | none => s
  | some r =>
    match (r.numbered.filter fun p => cross p.1).map (·.2) with
    | [] => s
    | is =>
      if x.cut then s.endCopy key x (s.cRest x r)
      else match choose (s.freeNat (2 ^ 61 - 3)) none (is.map some) with
        | none => s.endCopy key x r
        | some i => s.endCopy key x (s.cFailAt x r i (-4))

/-! ### Copies whose host side is late (spec/10 R261, spec/07 R176) -/

def isHostPa (pa : Nat) : Bool := match locate pa with
  | .host => true
  | _ => false

/-- Some byte that a copy reads or writes lies in the host. -/
def State.cHosted (s : State) (x : Copy) : Bool :=
  (x.op.usesSrc && cKind x.img 0 == 1 && s.reaches x .rd (· == .host) (s.cSrcRanges x)) ||
  (x.op.usesIdx && cKind x.img 4 == 1 && s.reaches x .rd (· == .host)
    [if x.op = .net then (cIdxBase x.img, 64) else ((cSide x).2, (cSide x).1)]) ||
  (x.op.usesDst && cKind x.img 1 == 1 && s.reaches x .wr (· == .host) (s.cDestRanges x))

/-- The host does not answer a copy's access: it ends with −4, some of its rows written and of the others any bytes (spec/10 R261); a
`ckvc` is cut between two entries, one of which a part has been seen written whole (R276). -/
def State.copyLate (s : State) (x : Copy) : State :=
  let r := x.rest.getD (s.cFinish x { status := 0, data := [] })
  let lo := (r.rows.head?).getD r.done
  let q : CRes := if x.op == .kvc then
      let lo := if x.at0.isSome then min (lo + 1) r.done else lo
      r.firstRows (lo + s.freeNat (2 ^ 62 - 1) % (r.done - lo + 1))
    else s.cutShort lo r
  s.endCopy s.here x { q with status := if x.op = .pfd then -1 else -4, faddr := s.free 64 (2 ^ 62 + 1) }

end Sys2Proof.Machine
end

