-- ==== Sys2Proof/Machine/Ops.lean ====
section
/-!
DEFINITION. The shared operations of a core: exposed results and their landing (spec/04 R106, R107), scoreboarded results
(spec/03 R75), the withholding buffer and its release (spec/01 R15, R16, spec/07 R202), the checkpoint, the rollback,
taking a trap (spec/20 R383 to R387, R392) and returning from one (R391).
-/
namespace Sys2Proof.Machine

/-! ### The master a core acts for -/

/-- Handler, or a task of context 0, or a Saffron request of context 0: spec/18 R340, spec/11 R304. -/
def Core.priv (c : Core) : Bool := c.tcw.getLsbD 0

def Core.ctx (c : Core) : Nat := natBits c.tcw.toNat 63 48

/-- Context of the task on a core, which a handler leaves in TRTCW (spec/20 R385, R390). -/
def Core.taskCtx (c : Core) : Nat := if c.phase == .handler then natBits c.trtcw.toNat 63 48 else c.ctx

/-- The running master: spec/18 R351, R352, spec/20 R390. -/
def State.acc (s : State) : Acc :=
  let c := s.core
  let h := c.phase == .handler
  { key := s.here, ctx := c.ctx, part := natBits c.tcw.toNat 34 32, accid := if h then 0 else c.accid,
    root := if h then c.hroot else c.ptroot, priv := c.priv, quota := if h then c.hquota else c.quota }

def State.onSaffron (s : State) : Bool := isSaffron s.here

/-- Agents on which bundles issue: only there does an error meet a bundle, or is a trap taken. -/
def Core.busy (c : Core) : Bool := c.phase == .run || c.phase == .handler || c.phase == .ending

/-! ### Exposed results -/

/-- Register a result that lands by `lat` cycles: spec/04 R106. On Saffron every result is scoreboarded, later readers and
writers of its destination wait for it, and no two results meet (R128). -/
def State.expose (s : State) (lat : Nat) (ws : List LWrite) : State :=
  let c := s.core
  let due := c.cyc + (if s.onSaffron then 1 else lat)
  let e : Landing := { seq := c.seq, pcb := c.iss.pcb, slot := c.iss.slot, issued := c.cyc, due := due, landed := false, ws := ws }
  let hitX := fun (o : Outst) => match o.xd with
    | some r => !s.onSaffron && ws.any (LWrite.isX r)
    | none => false
  { s with core := { c with
      land := c.land ++ [e]
      outst := c.outst.map fun o => if hitX o then { o with clash := true } else o } }

/-- Two exposed operations in flight together: the second issued before the first had to land (spec/04 R107). -/
def Landing.meets (e g : Landing) : Bool := decide (g.issued < e.due) && decide (e.issued < g.due)

/-- Drop a kept fault of a register that another instruction writes. -/
def Live.clearTok (l : Live) (r : Nat) : Live := if l.ftok.isEmpty then l else { l with ftok := l.ftok.filter (·.reg != r) }

/-- Perform one write of a landing entry. Of two results that met, the register holds one or the other (R107). `sq` holds the one
that lands last: an EXPOSED_RESULT_LANDING event may land either of two in flight first. -/
def State.landWrite (s : State) (e : Landing) (w : LWrite) : State :=
  let c := s.core
  let prior := c.land.filter fun g => g.landed && g.meets e
  let tag := 2 ^ 63 + e.seq * 16 + e.slot.num
  let setLive := fun (l : Live) => { s with core := { c with live := l } }
  match w with
  | .x r v =>
    if r.val = 0 then s
    else
      let v := if prior.any (fun g => g.ws.any (LWrite.isX r)) then choose (s.freeNat tag) v [c.live.x[r]] else v
      setLive ({ c.live with x := c.live.x.set r v }.clearTok r.val)
  | .p r v =>
    if r.val = 0 then s
    else
      let old := c.live.p.getLsbD r.val
      let v := if prior.any (fun g => g.ws.any (LWrite.isP r)) then choose (s.freeNat (tag + 2 ^ 40 * (r.val + 1))) v [old] else v
      let m : BitVec 16 := 1 <<< r.val
      setLive { c.live with p := (c.live.p &&& ~~~m) ||| (if v then m else 0) }
  | .sq v => setLive { c.live with sq := v }
  | .lc n v =>
    let v := if prior.any (fun g => g.ws.any (LWrite.isLc n)) then choose (s.freeNat tag) v [c.live.lc[n]] else v
    setLive { c.live with lc := c.live.lc.set n v }
  | .row n lane en v =>
    let clash : Row := prior.foldl (fun (m : Row) g => g.ws.foldl (fun (m : Row) w => match w with
      | .row q _ k _ => if q = n then m ||| (k &&& en) else m
      | _ => m) m) 0
    let keep : Row := if clash = 0 then 0 else keepLanes (s.free 10240 tag) clash lane
    let m := en &&& ~~~keep
    let put := fun r : Row => (r &&& ~~~m) ||| (v &&& m)
    -- what a copy has overwritten in this cycle is seen with this result too
    { s with core := { rowSet c n.val (put (rowGet c n.val)) with
        rowOld := c.rowOld.map fun p => if p.1 == n.val then (p.1, put p.2) else p } }
  | .flags f => { s with core := c.setFlags e f }

/-- Entries landed long enough ago that no operation in flight overlaps them go. -/
def Core.pruneLand (c : Core) : Core :=
  { c with land := c.land.filter fun g =>
      !(g.landed && decide (g.due ≤ c.cyc) && !(c.land.any fun e => !e.landed && e.meets g)) }

/-- Land the entry at a place of the list. -/
def State.landAt (s : State) (i : Nat) : State :=
  match s.core.land[i]? with
  | none => s
  | some e =>
    if e.landed then s
    else
      let s := e.ws.foldl (fun s w => s.landWrite e w) s
      { s with core := ({ s.core with land := s.core.land.set i { e with landed := true } }).pruneLand }

/-- The first entry not landed with the least bound, at most `lim`. -/
def nextDue (lim : Nat) : List Landing → Nat → Option (Nat × Nat) → Option (Nat × Nat)
  | [], _, b => b
  | e :: es, i, b =>
    let better := !e.landed && decide (e.due ≤ lim) && (match b with
      | none => true
      | some p => decide (e.due < p.2))
    nextDue lim es (i + 1) (if better then some (i, e.due) else b)

def landLoop (lim : Nat) : Nat → State → State
  | 0, s => s
  | n + 1, s =>
    match nextDue lim s.core.land 0 none with
    | none => s
    | some p => landLoop lim n (s.landAt p.1)

/-- Land everything due by the present cycle that no EXPOSED_RESULT_LANDING event landed before, each result with its flags: a flag
cleared by `wrfst` while its operation is in flight is set again if that lands later (spec/06 R166). -/
def State.landDue (s : State) : State := landLoop s.core.cyc s.core.land.length s

def Core.maxDue (c : Core) : Nat := c.land.foldl (fun m e => max m e.due) 0

/-- Land every exposed operation: a drain (spec/04 R115), after which nothing is in flight. -/
def State.landAll (s : State) : State :=
  let s := landLoop s.core.maxDue s.core.land.length s
  { s with core := { s.core with land := [], rowOld := [] } }

/-! ### Scoreboarded results -/

/-- A result written when its access completes. -/
def State.result (s : State) (o : Outst) : State :=
  let c := s.core
  let clash := match o.xd with
    | some r => !s.onSaffron && c.land.any fun e => (!e.landed || decide (c.cyc < e.due)) && e.ws.any (LWrite.isX r)
    | none => false
  { s with core := { c with outst := c.outst ++ [{ o with clash := o.clash || clash }] } }

/-- A store of this core that supplied a byte as a load issued is still on its way: withheld then and now, or released and not yet at
its home. -/
def Core.stillOwn (c : Core) (ld : Ld) (pa : Nat) : Bool :=
  (c.whb.take ld.held).any (fun e => (WEntry.at pa e).isSome) || c.rel.any fun e => (Released.at pa e).isSome

/-- The bytes of a load as they are found when it is performed: the youngest store of this core that was on its way when the load
issued supplies its bytes until it is performed itself (spec/07 R175, spec/12 R323). -/
def State.ldBytes (s : State) (ld : Ld) : List Byte :=
  (ld.bytes.zip (List.range ld.bytes.length)).map fun p =>
    match (if s.core.stillOwn ld p.1.1 then p.1.2 else none) with
    | some b => b
    | none => if ld.strong then s.homeByte p.1.1 (2 ^ 57 + p.2) else s.loadByte s.core p.1.1 ld.cl ld.acq (2 ^ 57 + p.2)

/-- A load performed now: its register is written when its result is due. -/
def State.loadDone (s : State) (o : Outst) : Outst :=
  match o.ld with
  | none => o
  | some ld =>
    let v := BitVec.ofNat 64 (leNat (s.ldBytes ld))
    { o with ld := none, val := v, lq := some v, host := false }

/-- Write a completed result: destination, `lq` and pair. -/
def State.writeResult (s : State) (o : Outst) : State :=
  let v := match o.ld with
    | some ld => BitVec.ofNat 64 (leNat (s.ldBytes ld))
    | none => o.val
  let c := s.core
  let l := c.live
  let l := match o.xd with
    | some r =>
      if r.val = 0 then l
      else
        let v := if o.clash then choose (s.freeNat (2 ^ 56)) v [l.x[r]] else v
        { l with x := l.x.set r v }.clearTok r.val
    | none => l
  let l := if o.ld.isSome then { l with lq := v } else match o.lq with
    | some q => { l with lq := q }
    | none => l
  let l := match o.pair with
    | some (e, d, b) =>
      let m : BitVec 16 := (1 <<< e.val) ||| (1 <<< d.val)
      { l with p := (l.p &&& ~~~m) ||| (if b then 1 <<< e.val else 1 <<< d.val) }
    | none => l
  -- an exposed write of the same register still in flight meets this one (spec/12 R319)
  let late := match o.xd with
    | some r => if o.clash && c.land.any (fun e => !e.landed && e.ws.any (LWrite.isX r)) then
        [{ seq := o.seq, pcb := o.pcb, slot := .l, issued := c.cyc, due := c.maxDue, landed := true, ws := [.x r v] : Landing }]
      else []
    | none => []
  { s with core := { c with live := l, land := late ++ c.land } }

/-! ### Stores of this core reaching home -/

/-- Perform a store of agent `key` at its home. A group's entry that it makes read VALID 0 is seen, whatever the next store writes
(spec/19 R376). -/
def State.performStore (s : State) (key pa : Nat) (data : List Byte) : State :=
  let s := (s.homeWrite pa data).seeInvalid
  let n := s.wseq
  s.modCore key fun c => { c with lastWr := lastPut c.lastWr ((List.range data.length).map (pa + ·)) n }

/-- Perform a store that was withheld or released until now. -/
def State.performHeld (s : State) (key pa : Nat) (data : List Byte) : State :=
  (s.performStore key pa data).modCore key fun c => c.homed ((List.range data.length).map (pa + ·))

/-- Perform one released entry. -/
def State.performRel (s : State) (key : Nat) : Released → State
  | .store pa data _ => s.performHeld key pa data
  | .post p _ => s.doPost p

/-- Perform every released entry of an agent, in release order. -/
def State.flushRel (s : State) (key : Nat) : State :=
  let r := (s.coreOf key).rel
  let s := s.modCore key fun c => { c with rel := [] }
  r.foldl (fun s e => s.performRel key e) s

/-- A released store that no earlier released store of the same bytes or window keeps back (spec/12 R325, R328), or a released
post that no earlier one to the same flag does: entries are released in order (spec/01 R15). -/
def relFree (rel : List Released) (i : Nat) : Bool :=
  match rel[i]? with
  | some (.store pa d _) =>
    (rel.take i).all fun e => match e with
      | .store qa c _ => (decide (qa + c.length ≤ pa) || decide (pa + d.length ≤ qa)) &&
          !(pa / 2 ^ 48 == 0xF && pa / 2 ^ 38 == qa / 2 ^ 38)
      | .post _ _ => true
  | some (.post p _) =>
    (rel.take i).all fun e => match e with
      | .post q _ => !(q.key == p.key && q.flag == p.flag)
      | .store .. => true
  | none => false

/-- Let one released entry reach home. A post takes every store released before it along (spec/07 R189). -/
def State.relAt (s : State) (key i : Nat) : State :=
  let rel := (s.coreOf key).rel
  match rel[i]? with
  | none => s
  | some (.store pa d _) =>
    if relFree rel i then
      (s.modCore key fun c => { c with rel := rel.eraseIdx i }).performHeld key pa d
    else s
  | some (.post p _) =>
    if relFree rel i then
      let before := (rel.take i).filter fun e => match e with
        | .store .. => true
        | _ => false
      let rest := ((rel.take i).filter fun e => match e with
        | .store .. => false
        | _ => true) ++ rel.drop (i + 1)
      let s := s.modCore key fun c => { c with rel := rest }
      (before.foldl (fun s e => s.performRel key e) s).doPost p
    else s

/-! ### Message queues (spec/19 R378 to R380) -/

def qDie (v : Word) : Nat := natBits v.toNat 9 7
def qNum (v : Word) : Nat := natBits v.toNat 6 0

def State.qEnabled (s : State) (die q : Nat) : Bool := (s.dget die (offMQCTL q)).getLsbD 63

/-- The hub grants message queues of a die to an ACCID (spec/18 R352), and the path to that die is open. -/
def State.qGranted (s : State) (a : Acc) (die : Nat) : Bool :=
  !s.pathShut a (.win (.scratch die 0)) &&
  (a.accid == 0 || (s.accEntry (keyDie a.key) 1 a.accid).testBit (72 + die))

/-- Refused: spec/07 R182, spec/19 R379. -/
def State.qRefused (s : State) (a : Acc) (v : Word) : Bool :=
  natBits v.toNat 63 10 != 0 || !s.qGranted a (qDie v) || !s.qEnabled (qDie v) (qNum v)

def State.flueCharge (s : State) (die ctx : Nat) : Nat :=
  s.mqs.foldl (fun n m => if m.die = die then n + (m.flue.filter (·.ctx == ctx)).length else n) 0

/-- Room for a message of a context: the ring, or the Flue ring within its size and the context's quota, as its sender started with it
(spec/18 R341). -/
def State.qRoom (s : State) (die q ctx quota : Nat) : Bool :=
  let m := s.mq die q
  (decide (m.ring.length < 64) && m.flue.isEmpty) ||
  (natBits (s.dget die (offMQFLUE q)).toNat 51 12 != 0 &&
    decide (m.flue.length < 2 ^ (min 24 (natBits (s.dget die (offMQFLUE q)).toNat 4 0))) &&
    decide (s.flueCharge die ctx < quota))

/-- Address of the next free place of a queue's Flue ring (spec/19 R379, log 20). -/
def State.flueAt (s : State) (die q : Nat) : Nat :=
  let w := (s.dget die (offMQFLUE q)).toNat
  let m := s.mq die q
  natBits w 51 12 * 4096 + 8 * ((m.fhead + m.flue.length) % 2 ^ min 24 (natBits w 4 0))

/-- Put a message into the on-chip ring, or behind the Flue ring's others. -/
def State.qPlace (s : State) (die q : Nat) (msg : Msg) : State :=
  let m := s.mq die q
  if m.ring.length < 64 && m.flue.isEmpty then s.setMq { m with ring := m.ring ++ [msg] }
  else (s.homeWrite (s.flueAt die q) (leBytes 8 msg.val.toNat)).setMq { m with flue := m.flue ++ [msg] }

/-- Append a message; a task that waits for one wakes. -/
def State.qAppend (s : State) (die q : Nat) (msg : Msg) : State :=
  (s.qPlace die q msg).wake fun w => match w with
    | .queue d n => d == die && n == q
    | _ => false

/-- Move messages from the Flue ring to the on-chip ring while it has room. -/
def flueFill : Nat → MQ → MQ
  | 0, m => m
  | n + 1, m =>
    match m.flue with
    | [] => m
    | x :: xs => if m.ring.length < 64 then flueFill n { m with ring := m.ring ++ [x], flue := xs, fhead := m.fhead + 1 } else m

def State.qTake (s : State) (die q : Nat) : Option (Msg × State) :=
  let m := s.mq die q
  match m.ring with
  | [] => none
  | x :: xs => some (x, s.setMq (flueFill 64 { m with ring := xs }))

/-! ### Release (spec/01 R15, spec/07 R202, spec/10 R260 to R272) -/

def flagAddr (key f : Nat) : Nat := winAddr key (0x840000 + 2 * f)

/-- A post to another core that its path or the target's access table now refuses. -/
def State.postRefused (s : State) (a : Acc) (key : Nat) : Bool :=
  let l : Loc := .win (.flags key 0)
  s.pathShut a l || !s.granted a .wr (flagAddr key 0) l

def State.storeRefused (s : State) (a : Acc) (pa : Nat) : Bool :=
  let l := locate pa
  s.idleRange pa || s.pathShut a l || !s.granted a .wr pa l

/-- A refusal at release: entry kind, and the address the record names. -/
abbrev Refused := Nat × Word

/-- Copies of a slot that hold a `cpost` back: those issued before it, armed ones only once they have fired (R268). -/
def cpostAfter (c : Core) (p : CPost) : List Nat :=
  (c.copies.filter fun y => y.slot == p.slot && decide (y.id < p.id) &&
    (y.state == .running || (y.state == .armed && y.hit) || (y.state == .ended && !y.tokDone))).map (·.id)

/-- End an armed copy that never fired with −1 (spec/10 R272). -/
def State.disarm (s : State) (key : Nat) (x : Copy) : State :=
  s.endCopy key { x with early := some (-1) } { ws := [], status := -1, done := 0, faddr := 0 }

/-- Start the copy of an arm entry: an armed copy, a send or a Bellows program. -/
def State.startNow (s : State) (key : Nat) (x : Copy) : State :=
  match x.op with
  | .net => s.cnetFire key x.id
  | .bgo =>
    let s := s.flushRel key
    let r : BRun := { id := s.nextId, key := key, copy := x.id, acc := x.acc, prog := x.pat, step := 0,
                      blc := .replicate 4 (0, 0, 0), hopovf := false, hop := 0, nonfinite := false, sent := [],
                      inbox := [] }
    let s := { s with bruns := s.bruns ++ [(keyDie key, r)], nextId := s.nextId + 1 }
    s.fire key x.id
  | _ => s.fire key x.id

/-- Perform a withheld send or program: it starts, or waits in its arm entry while its slot has 16 copies in flight. -/
def State.startHeld (s : State) (key id : Nat) : State :=
  match (s.coreOf key).copies.find? (fun y => y.id == id) with
  | none => s
  | some y =>
    if (s.coreOf key).inFlight y.slot < 16 then s.startNow key y
    else s.setCopy key { y with state := .armed, hit := true, hitAt := s.ctr }

/-- Release one entry; `late` says that the host will not complete it in time (spec/07 R202). -/
def State.releaseOne (s : State) (key : Nat) (late : Bool) : WEntry → State × Option Refused
  | .store ea pa data strong a =>
    if s.storeRefused a pa || late then (s, some (0, ea))
    else if strong then
      -- stores of the same bytes released before come first
      let same := fun e : Released => match e with
        | .store qa c _ => decide (qa < pa + data.length) && decide (pa < qa + c.length)
        | .post _ _ => false
      let rel := (s.coreOf key).rel
      let s := s.modCore key fun c => { c with rel := rel.filter fun e => !same e }
      (((rel.filter same).foldl (fun s e => s.performRel key e) s).performHeld key pa data, none)
    else (s.modCore key fun c => { c with rel := c.rel ++ [.store pa data a] }, none)
  | .push qv msg a =>
    if s.qRefused a qv then (s, some (1, qv))
    else ((s.flushRel key).qAppend (qDie qv) (qNum qv) { ctx := a.ctx, val := msg }, none)
  | .post xt own p a =>
    if !own && s.postRefused a p.key then (s, some (2, xt))
    else (s.modCore key fun c => { c with rel := c.rel ++ [.post p a] }, none)
  | .land id =>
    (s.modCore key fun c => { c with copies := c.copies.map fun y =>
      if y.id == id && y.land.isSome then { y with land := some true } else y }, none)
  | .cpost id =>
    (s.modCore key fun c => { c with cposts := c.cposts.map fun p =>
      if p.id == id then { p with released := true, after := cpostAfter c p } else p }, none)
  | .cdis _ tok =>
    let hit := (s.coreOf key).copies.filter fun y => y.state == .armed && !y.hit && y.tok == some tok
    (hit.foldl (fun s y => s.disarm key y) s, none)
  | .carm id =>
    -- a flag that meets its threshold already fires it now (R269)
    ((s.modCore key fun c => { c with copies := c.copies.map fun y =>
      if y.id == id then { y with state := .armed, hit := decide (y.thr ≤ (c.flag y.flag).toNat), hitAt := s.ctr } else y }).fireMet key id, none)
  | .cnet id | .bgo id => (s.startHeld key id, none)

/-- Release entries in order; `i` is the place of the first. Those behind it are still withheld. -/
def releaseList (key : Nat) (late : List Nat) : Nat → List WEntry → State × List Refused → State × List Refused
  | _, [], p => p
  | i, e :: es, p =>
    let r := (p.1.modCore key fun c => { c with whb := es }).releaseOne key (late.contains i) e
    releaseList key late (i + 1) es (r.1, p.2 ++ r.2.toList)

/-- Release the withholding buffer in entry order. -/
def State.release (s : State) : State × List Refused :=
  let w := s.core.whb
  releaseList s.here s.core.hostLate 0 w ({ s with core := { s.core with whb := [], hostLate := [] } }, [])

/-- Every push of the buffer finds room (spec/07 R199). -/
def State.pushesFit (s : State) : Bool :=
  (s.core.whb.foldl (fun (p : State × Bool) e => match e with
    | .push qv msg a =>
      if p.1.qRefused a qv then p
      else (p.1.qAppend (qDie qv) (qNum qv) { ctx := a.ctx, val := msg }, p.2 && p.1.qRoom (qDie qv) (qNum qv) a.ctx a.quota)
    | _ => p) (s, true)).2

/-- The trap of refusals at release: spec/07 R202. -/
def refusedTrap (seq : Nat) (pcb : Word) : List Refused → Option TrapInfo
  | [] => none
  | r :: rs => some { cause := 0x06, detail := BitVec.ofNat 32 (10 + r.1 * 16 + min 255 rs.length * 256), slot := 0,
                      pcb := pcb, addr := r.2, seq := seq }

/-! ### Saffron's end of a request (spec/11 R305, R306) -/

/-- Record a failure in SRQF. -/
def srqfRecord (w : Word) (cause : Nat) (value : Word) : Word :=
  if w.getLsbD 63 then
    let more := min 127 (natBits w.toNat 62 56 + 1)
    putBits w 62 56 more
  else BitVec.ofNat 64 (2 ^ 63 + cause * 2 ^ 48 + value.toNat % 2 ^ 48)

/-- End the request in focus: completion word, then RDY. -/
def State.saffronDone (s : State) (cause : Nat) (pcb : Word) : State :=
  match s.core.sreq with
  | none => { s with core := { s.core with phase := .idle, iss := {} } }
  | some r =>
    let w : Word := if cause = 0 then 0 else BitVec.ofNat 64 (cause * 2 ^ 56 + pcb.toNat % 2 ^ 48)
    let s1 := s.flushRel s.here
    let s2 :=
      if r.stat.toNat % 8 = 0 then
        match s1.access s1.acc .wr (.lslot true) r.stat (2 ^ 55) with
        | .ok t => s1.performStore s1.here t.pa (leBytes 8 w.toNat)
        | .error _ => { s1 with core := { s1.core with srqf := srqfRecord s1.core.srqf 0x06 r.stat } }
      else { s1 with core := { s1.core with srqf := srqfRecord s1.core.srqf 0x06 r.stat } }
    let n := r.rdy.toNat
    let p : Post := { key := keyDie s.here * 128 + natBits n 11 5, flag := natBits n 4 0, amt := natBits n 31 16,
                      set := natBits n 15 15 == 1 }
    let s3 := s2.doPost p
    { s3 with core := { s3.core with phase := .idle, sreq := none, iss := {}, land := [], outst := [], fence := none,
                                     drain := false } }

/-! ### Rollback (spec/20 R385, R393, spec/10 R281) -/

/-- Copies as a rollback leaves them: withheld starts go, those since the checkpoint lose their status, withheld landing
posts are discarded. -/
def rollCopies (own : Nat) (l : List Copy) : List Copy :=
  (l.filter fun y => !(y.task == own && y.state == .withheld)).map fun y =>
    if y.task != own then y
    else { y with disc := y.disc || y.sinceCk, land := if y.land == some false then none else y.land }

/-- Rows and bytes that the interval leaves undefined once it has run again (spec/20 R394). -/
def Trk.poisoned (t : Trk) : Trk :=
  if t.broken then { poison := t.wrRows ++ t.poison, poisonB := t.dsts ++ t.poisonB }
  else { poison := t.poison, poisonB := t.poisonB }

/-- Every copy of the target bundles is fetched again after a restore (spec/03 R81). -/
def Live.refetch (l : Live) : Live := { l with tb := l.tb.map fun t => { t with copy := false, filling := false } }

/-- LIVEMASK holds no ember row and no reserved bit (spec/18 R345). -/
def liveMask (m : BitVec 512) : BitVec 512 :=
  m &&& ((BitVec.ofNat 512 (2 ^ 256 - 1)) ||| (BitVec.ofNat 512 (15 * 2 ^ 384)))

/-- PBOUND and LIVEMASK as a bundle's `wrcr` leaves them. -/
def Core.endControl (c : Core) : EobWrite → Core
  | .pbound v => { c with pbound := v &&& 0xFFFFFFFF }
  | .mask k v =>
    let m : BitVec 512 := BitVec.ofNat 512 ((2 ^ 64 - 1) * 2 ^ (64 * k.val))
    { c with livemask := liveMask ((c.livemask &&& ~~~m) ||| BitVec.ofNat 512 (v.toNat * 2 ^ (64 * k.val))) }
  | _ => c

/-- Control registers at the end of a bundle; no rollback undoes them (spec/06 R170). -/
def Core.endControls (c : Core) : Core := c.iss.eob.foldl Core.endControl c

/-- Everything in flight lands: exposed operations and the Hearth's. -/
def State.landEverything (s : State) : State := s.landAll.hLandAll

/-- Restore the state of the last checkpoint. -/
def State.rollback (s : State) : State :=
  let s := s.landEverything
  let c := s.core.endControls
  { s with core := ({ c with
      live := c.dup.refetch
      ember := []
      sticky := .replicate 5 none
      whb := []
      hostLate := []
      copies := rollCopies c.owner c.copies
      cposts := c.cposts.filter (·.released)
      outst := []
      fence := none
      drain := false
      runAhead := false
      heldTrap := none
      -- a machine check that waits is still to be raised (spec/20 R402)
      pend := c.pend.filter (·.cause == 0x1F)
      joinAt := none
      agw := c.agw.map (fun w : AgWait => { w with on := false })
      iss := {}
      pc := c.ckpt
      icnt := c.icntCk
      ckKeep := true
      trk := c.trk.poisoned }).tidy }

/-! ### Trap entry (spec/20 R383 to R387, R392) -/

def Core.records (c : Core) : Vector OnceRec 2 := if c.phase == .handler then c.once2 else c.once

def tcauseWord (t : TrapInfo) (dbl : Bool) : Word :=
  BitVec.ofNat 64 (t.detail.toNat * 2 ^ 32 + t.slot % 16 * 2 ^ 20 + boolW dbl 19 + boolW t.rdiv 18 + boolW t.held 17 +
    boolW t.once.isSome 16 + t.cause)

/-- Write the trap record. -/
def Core.record (c : Core) (t : TrapInfo) (tick : Nat) (dbl : Bool) : Core :=
  { c with
    tcause := tcauseWord t dbl
    tbund := t.pcb
    taddr := t.addr
    tckpt := c.ckpt
    tres0 := (t.once.getD (0, 0, 0)).1
    tres1 := (t.once.getD (0, 0, 0)).2.1
    tres2 := (t.once.getD (0, 0, 0)).2.2.setWidth 64
    tstart := t.tstart
    ttick := BitVec.ofNat 64 tick }

/-- Virtual address of the handler's first bundle. -/
def State.trapEntry (s : State) : Word :=
  ((s.dget (keyDie s.here) offTRAPVEC).extractLsb' 2 46 ++ (0 : BitVec 2)).signExtend 64

def State.trapEnabled (s : State) : Bool := (s.dget (keyDie s.here) offTRAPVEC).getLsbD 63

/-- TCW of a handler: PM 1, CTX 0 (spec/20 R385). -/
def handlerTcw (w : Word) : Word := (w &&& 0x0000FFFFFFFFFFFF) ||| 1

/-- Entry proper, or the double trap that stops the core. -/
def State.enterTrap (s : State) (t : TrapInfo) : State :=
  let dbl := s.core.phase == .handler || !s.trapEnabled
  let own := s.core.phase == .handler
  let s := s.rollback
  -- the machine check that is taken now waits no longer
  let mine := fun p : TrapInfo => t.cause == 0x1F && p.pcb == t.pcb && p.addr == t.addr && p.detail == t.detail
  let c := { s.core with pend := s.core.pend.filter fun p => !mine p }
  if dbl then
    { s with core := { c.record t s.tick true with phase := .stopped, iss := {}, ckKeep := if own then false else c.ckKeep } }
  else
    let c' := c.record t s.tick false
    { s with core := { c' with
        trtcw := c.tcw
        trpc := t.resume.getD c.ckpt
        tcw := handlerTcw c.tcw
        hroot := s.ctxRoot (keyDie s.here) 0
        hquota := s.ctxQuota (keyDie s.here) 0
        once2 := .replicate 2 {}
        phase := .handler
        pc := s.trapEntry
        ckKeep := false } }

/-- Faults of loads that have issued. -/
def Core.loadTraps (c : Core) : Option TrapInfo := c.outst.foldl (fun b o => firstTrap b o.fault) none

/-- The trap taken where one is due: a machine check, which is raised at once, one that waited before any other trap (spec/20 R402);
else the earliest pending one (R383). -/
def Core.dueTrap (c : Core) (t : TrapInfo) : TrapInfo :=
  if t.cause = 0x1F then t
  else match c.pend.filter (·.cause == 0x1F) with
    | some p => p
    | none => { (firstTrap (some t) (firstTrap c.loadTraps c.pend)).getD t with held := t.held }

/-- Take a trap, or the one due before it; held during run-ahead (spec/01 R28) unless it is a machine check. -/
def State.takeTrap (s : State) (t : TrapInfo) : State :=
  if s.onSaffron then s.landAll.saffronDone t.cause t.pcb
  else
    let s := s.landEverything
    let t := s.core.dueTrap t
    if s.core.runAhead && t.cause != 0x1F then
      { s with core := { s.core with heldTrap := firstTrap s.core.heldTrap (some { t with held := true }), iss := {} } }
    else s.enterTrap t

/-- Trap of the slot being issued. -/
def State.trap (s : State) (cause : Nat) (detail : Nat := 0) (addr : Word := 0) : State :=
  let c := s.core
  s.takeTrap { cause := cause, detail := BitVec.ofNat 32 detail, slot := c.iss.slot.num, pcb := c.iss.pcb, addr := addr,
               seq := c.seq }

/-- Return to the trapped task: spec/20 R391. The handler's own copies lose their status. -/
def State.returnTrap (s : State) : State :=
  let c := s.core
  { s with core := { c with
      live := c.dup.refetch
      tcw := c.trtcw
      phase := .run
      pc := c.trpc &&& 0xFFFFFFFFFFFFFFFC
      ckKeep := decide (c.trpc &&& 0xFFFFFFFFFFFFFFFC = c.tckpt)
      sticky := .replicate 5 none
      copies := c.copies.map fun y => if y.task == 0 then { y with disc := true } else y
      ifseq := s.wseq
      iss := {} } }

/-! ### Checkpoint (spec/01 R15, spec/04 R104, R110) -/

/-- Rows and bytes that a broken interval leaves undefined once it has run again (spec/20 R394): those it had written, those its
re-execution has, and what its copies still write. -/
def State.poison (s : State) : State :=
  let t := s.core.trk
  if t.poison.isEmpty && t.poisonB.isEmpty then s
  else
    let c := (t.wrRows ++ t.poison).foldl (fun c r => rowSet c r (s.free 10240 (2 ^ 54 + r))) s.core
    let junk := fun y : Copy => y.task == c.owner && y.state == .running && (y.sinceCk || y.disc)
    let s := { s with core := { c with trk := { c.trk with poison := [], poisonB := [] }
                                       copies := c.copies.map fun y => if junk y then { y with junk := true } else y } }
    (t.dsts ++ t.poisonB).foldl (fun s p => s.homeWrite p.1 ((List.range p.2).map fun i => s.free 8 (2 ^ 53 + p.1 + i))) s

/-- The checkpoint's actions at the bundle at `pcb`: drain, fold, release, save; the refusals of the release. The
caller has waited for every scoreboarded result and taken any pending trap. -/
def State.checkpoint (s : State) (pcb : Word) : State × List Refused :=
  let s := s.landEverything
  let s := { s with core := s.core.fold }
  let r := s.release
  let s := r.1
  let c := s.core
  if c.phase == .handler then
    ({ s with core := { c with sticky := .replicate 5 none, once2 := .replicate 2 {} } }, r.2)
  else
    -- the bundle issues again after a rollback: what it leaves undefined waits for the next checkpoint, and it is no
    -- new checkpoint (spec/20 R394, R401)
    let s := if s.core.ckKeep then s else s.poison
    let c := s.core
    ({ s with core := { c with
        dup := c.live
        ckpt := pcb
        sticky := .replicate 5 none
        copies := c.copies.map fun y => if y.task == c.owner then { y with sinceCk := false } else y
        once := if c.ckKeep then c.once else .replicate 2 {}
        ckKeep := false
        soft := if c.ckKeep then c.soft else 0
        icntCk := c.icnt
        trk := if c.ckKeep then { poison := c.trk.poison, poisonB := c.trk.poisonB } else {} } }, r.2)

/-! ### The withholding buffer -/

/-- Entries the buffer may still take: spec/07 R201. -/
def whbMax : Nat := 256

def State.withhold (s : State) (e : WEntry) : State := { s with core := { s.core with whb := s.core.whb ++ [e] } }

end Sys2Proof.Machine
end

