-- ==== Sys2Proof/Machine/Replay.lean ====
section
/-!
DEFINITION. The replay recorder: records written (spec/20 R403, R404) and taken in replay (R405). An input takes the first
unconsumed record of its TAG among the kinds that inputs take; the kinds no input takes are passed over (log 50).
-/
namespace Sys2Proof.Machine

def State.repMode (s : State) : Nat := s.dgetN (keyDie s.here) offREPCTL 1 0
def State.repTq (s : State) : Bool := (s.dget (keyDie s.here) offREPCTL).getLsbD 3

/-- TAG of what runs in focus: the task's, or the Saffron request's. -/
def State.tag (s : State) : Word :=
  if s.onSaffron then match s.core.sreq with
    | some r => r.tag
    | none => 0
  else match s.core.task with
    | some t => match s.tasks.find? (·.id == t) with
      | some t => t.desc.setWidth 64
      | none => 0
    | none => 0

/-- Address of record n of a die. -/
def State.ringOn (s : State) (die n : Nat) : Nat :=
  let b := s.dget die offREPBASE
  natBits b.toNat 51 12 * 4096 + 64 * (n % 2 ^ (natBits b.toNat 4 0))
def State.recAt (s : State) (n : Nat) : Nat := s.ringOn (keyDie s.here) n

/-- Append a record in a die's ring in record mode; a full ring loses it. -/
def State.logAt (s : State) (die tag icnt place ctx kind value aux pair : Nat) : State :=
  if s.dgetN die offREPCTL 1 0 != 1 then s
  else
    let p := s.dget die offREPPTR
    let head := natBits p.toNat 31 0
    let tail := natBits p.toNat 63 32
    let sz := s.dgetN die offREPBASE 4 0
    if (tail + 2 ^ 32 - head) % 2 ^ 32 = 2 ^ sz then s.dset die offREPCTL (s.dget die offREPCTL ||| 4)
    else
      let bytes := leBytes 8 s.tick ++ leBytes 8 tag ++ leBytes 8 icnt ++ leBytes 8 value ++ leBytes 8 aux ++
        leBytes 2 kind ++ leBytes 2 place ++ leBytes 2 ctx ++ leBytes 1 pair ++ List.replicate 17 0
      let s := s.wrBytes (s.ringOn die tail) bytes
      s.dset die offREPPTR (BitVec.ofNat 64 ((tail + 1) % 2 ^ 32 * 2 ^ 32 + head))

/-- A record of what runs in focus. -/
def State.logRec (s : State) (kind value aux : Nat) (pair : Nat := 0) : State :=
  s.logAt (keyDie s.here) s.tag.toNat s.core.icnt (keyIdx s.here + keyDie s.here * 128) s.core.ctx kind value aux pair

/-- Kinds that an input takes: ONCE, AGREE, FRAME, SEED and TIME. -/
def inputKind (k : Nat) : Bool := k == 1 || k == 2 || k == 3 || k == 4 || k == 8

/-- First unconsumed record of a tag among some kinds: its number. -/
def findRec (s : State) (tag : Word) (ok : Nat → Bool) : Nat → Nat → Option Nat
  | 0, _ => none
  | k + 1, n =>
    let a := s.recAt n
    let kd := rdNat s.mem (a + 0x28) 2
    if rdNat s.mem (a + 8) 8 = tag.toNat && !kd.testBit 15 && ok (kd % 256) then some n
    else findRec s tag ok k (n + 1)

/-- Fields of a record: kind, value, aux, pair, ICNT. -/
structure Rec where
  n     : Nat
  kind  : Nat
  value : Word
  aux   : Word
  pair  : Nat
  icnt  : Nat
deriving DecidableEq, Repr

/-- The first unconsumed record of the TAG in focus among some kinds, from record `n` on. -/
def State.recFrom (s : State) (ok : Nat → Bool) (n : Nat) : Option Rec :=
  let tail := natBits (s.dget (keyDie s.here) offREPPTR).toNat 63 32
  (findRec s s.tag ok ((tail + 2 ^ 32 - n) % 2 ^ 32) n).map fun n =>
    let a := s.recAt n
    { n := n, kind := rdNat s.mem (a + 0x28) 1, value := BitVec.ofNat 64 (rdNat s.mem (a + 0x18) 8),
      aux := BitVec.ofNat 64 (rdNat s.mem (a + 0x20) 8), pair := rdNat s.mem (a + 0x2E) 1, icnt := rdNat s.mem (a + 0x10) 8 }

/-- The same between HEAD and TAIL. -/
def State.nextRec (s : State) (ok : Nat → Bool) : Option Rec :=
  s.recFrom ok (natBits (s.dget (keyDie s.here) offREPPTR).toNat 31 0)

/-- Mark a record consumed. -/
def State.consume (s : State) (r : Rec) : State :=
  let a := s.recAt r.n + 0x29
  s.wrByte a (memGet s.mem a ||| 0x80)

/-- The record an input of a kind takes in replay; none is a divergence. -/
def State.replayed (s : State) (kind : Nat) : Option (Rec × State) :=
  match s.nextRec inputKind with
  | some r => if r.kind = kind then some (r, s.consume r) else none
  | none => none

/-- Replay divergence: spec/20 R405. -/
def State.diverge (s : State) : State :=
  let c := s.core
  s.takeTrap { cause := 0x10, detail := 0, slot := c.iss.slot.num, pcb := c.iss.pcb, seq := c.seq, rdiv := true }

end Sys2Proof.Machine
end

