-- ==== Sys2Proof/Machine/Scalar.lean ====
section
/-!
DEFINITION. The integer, predicate, loop-counter, identity, status and privileged instructions of the S slot, branch
preparation, system calls and the return from a handler (spec/06 R151 to R159, R164 to R170, spec/07 R195 to R198), and
the prefix (spec/02 R56).
-/
namespace Sys2Proof.Machine

/-- What every instruction here answers: the machine goes on. -/
abbrev Res := Host.Outcome State Fault Refusal

/-! ### Shared shapes -/

/-- A scalar result that lands within `lat`: destination and `sq` (spec/06 R154), with the flags it sets. -/
def State.toX (s : State) (lat : Nat) (d : XReg) (v : Word) (f : Fl := 0) : State :=
  s.expose lat (LWrite.x (physX s.core.live d) v :: LWrite.sq v :: (if f = 0 then [] else [LWrite.flags f]))

/-- The writes of a condition to a predicate pair (spec/03 R77). -/
def State.pairTo (s : State) (p : Pair) (b : Bool) : List LWrite :=
  let l := s.core.live
  [LWrite.p (physP l (pairEven p)) b, LWrite.p (physP l (pairOdd p)) (!b)]

/-- A condition as a word, for `sq` (log 32). -/
def condW (b : Bool) : Word := if b then 1 else 0

/-- A condition to a predicate pair and to `sq` (spec/06 R154). -/
def State.toPair (s : State) (lat : Nat) (p : Pair) (b : Bool) (f : Fl := 0) : State :=
  s.expose lat (s.pairTo p b ++ LWrite.sq (condW b) :: (if f = 0 then [] else [LWrite.flags f]))

/-- What becomes `sq` after an S operation that writes something else than a register or a condition the spec does not say: a free value,
due as its result is (spec/06 R154, log 32). -/
def State.sqFree (s : State) : LWrite := LWrite.sq (s.free 64 (s.core.utag 114))
def State.sqLands (s : State) : State := s.expose 1 [s.sqFree]

/-- D ← F(A, B). -/
def State.bin (s : State) (lat : Nat) (f : Word → Word → Word) (d : XReg) (a : Src) (b : Opnd) : Res :=
  .next ((s.loadS a).toX lat d (f (s.src .s a) (s.opnd .s b)))

/-- D ← F(A). -/
def State.una (s : State) (lat : Nat) (f : Word → Word) (d : XReg) (a : Src) : Res :=
  .next ((s.loadS a).toX lat d (f (s.src .s a)))

/-- A compare. -/
def State.cmp (s : State) (f : Word → Word → Bool) (p : Pair) (a : Src) (b : Opnd) : Res :=
  .next ((s.loadS a).toPair 1 p (f (s.src .s a) (s.opnd .s b)))

/-- One predicate from two. -/
def State.plog (s : State) (f : Bool → Bool → Bool) (d a : Fin 16) (na : Bool) (b : Fin 16) (nb : Bool) : Res :=
  let v := f (s.pred a != na) (s.pred b != nb)
  .next (s.expose 1 [LWrite.p (physP s.core.live d) v, LWrite.sq (condW v)])

/-! ### Values -/

def shAmt (b : Word) : Nat := b.toNat % 64
/-- A width or length field: 0 means 64. -/
def len64 (n : Nat) : Nat := if n % 64 = 0 then 64 else n % 64

def mulHigh (signed : Bool) (a b : Word) : Word :=
  if signed then BitVec.ofInt 64 (a.toInt * b.toInt / 2 ^ 64) else BitVec.ofNat 64 (a.toNat * b.toNat / 2 ^ 64)

def sextV (a b : Word) : Word := BitVec.ofInt 64 (toSigned (len64 b.toNat) (a.toNat % 2 ^ len64 b.toNat))
def zextV (a b : Word) : Word := BitVec.ofNat 64 (a.toNat % 2 ^ len64 b.toNat)

def clzV (a : Word) : Word := BitVec.ofNat 64 (if a = 0 then 64 else 63 - a.toNat.log2)

def ctzN : Nat → Nat → Nat → Nat
  | 0, k, _ => k
  | f + 1, k, a => if a % 2 = 1 then k else ctzN f (k + 1) (a / 2)
def ctzV (a : Word) : Word := BitVec.ofNat 64 (ctzN 64 0 a.toNat)

def popV (a : Word) : Word := BitVec.ofNat 64 ((List.range 64).filter a.toNat.testBit).length

/-- Position and mask of a field specifier: spec/06 R156. -/
def fieldPos (b : Word) : Nat := b.toNat % 64
def fieldMask (b : Word) : Word := BitVec.ofNat 64 (2 ^ len64 (b.toNat / 256) - 1)
def bfxV (a b : Word) : Word := (a >>> fieldPos b) &&& fieldMask b
def bfiV (d a b : Word) : Word :=
  let m := fieldMask b <<< fieldPos b
  (d &&& ~~~m) ||| ((a <<< fieldPos b) &&& m)

/-! ### Integer arithmetic and logic (spec/06 R155) -/

def execAdd (d : XReg) (a : Src) (b : Opnd) (s : State) : Res := s.bin 1 (· + ·) d a b
def execSub (d : XReg) (a : Src) (b : Opnd) (s : State) : Res := s.bin 1 (· - ·) d a b
def execMul (d : XReg) (a : Src) (b : Opnd) (s : State) : Res := s.bin 3 (· * ·) d a b
def execMulh (d : XReg) (a : Src) (b : Opnd) (s : State) : Res := s.bin 3 (mulHigh true) d a b
def execMulhn (d : XReg) (a : Src) (b : Opnd) (s : State) : Res := s.bin 3 (mulHigh false) d a b
def execAnd (d : XReg) (a : Src) (b : Opnd) (s : State) : Res := s.bin 1 (· &&& ·) d a b
def execOr (d : XReg) (a : Src) (b : Opnd) (s : State) : Res := s.bin 1 (· ||| ·) d a b
def execXor (d : XReg) (a : Src) (b : Opnd) (s : State) : Res := s.bin 1 (· ^^^ ·) d a b
def execAndn (d : XReg) (a : Src) (b : Opnd) (s : State) : Res := s.bin 1 (fun x y => x &&& ~~~y) d a b
def execShl (d : XReg) (a : Src) (b : Opnd) (s : State) : Res := s.bin 1 (fun x y => x <<< shAmt y) d a b
def execShr (d : XReg) (a : Src) (b : Opnd) (s : State) : Res := s.bin 1 (fun x y => x >>> shAmt y) d a b
def execSar (d : XReg) (a : Src) (b : Opnd) (s : State) : Res := s.bin 1 (fun x y => x.sshiftRight (shAmt y)) d a b
def execRotl (d : XReg) (a : Src) (b : Opnd) (s : State) : Res := s.bin 1 (fun x y => x.rotateLeft (shAmt y)) d a b
def execMin (d : XReg) (a : Src) (b : Opnd) (s : State) : Res := s.bin 1 (fun x y => if x.slt y then x else y) d a b
def execMax (d : XReg) (a : Src) (b : Opnd) (s : State) : Res := s.bin 1 (fun x y => if x.slt y then y else x) d a b
def execMinn (d : XReg) (a : Src) (b : Opnd) (s : State) : Res := s.bin 1 (fun x y => if x.ult y then x else y) d a b
def execMaxn (d : XReg) (a : Src) (b : Opnd) (s : State) : Res := s.bin 1 (fun x y => if x.ult y then y else x) d a b

/-! ### Extension, counting, fields, constants (spec/06 R156, R157) -/

def execSext (d : XReg) (a : Src) (b : Opnd) (s : State) : Res := s.bin 1 sextV d a b
def execZext (d : XReg) (a : Src) (b : Opnd) (s : State) : Res := s.bin 1 zextV d a b
def execClz (d : XReg) (a : Src) (s : State) : Res := s.una 1 clzV d a
def execCtz (d : XReg) (a : Src) (s : State) : Res := s.una 1 ctzV d a
def execPopc (d : XReg) (a : Src) (s : State) : Res := s.una 1 popV d a
def execBfx (d : XReg) (a : Src) (b : Opnd) (s : State) : Res := s.bin 1 bfxV d a b
def execBfi (d : XReg) (a : Src) (b : Opnd) (s : State) : Res := s.bin 1 (bfiV (s.x d)) d a b
def execLi (d : XReg) (b : Imm) (s : State) : Res := .next (s.toX 1 d b.val)
def execLih (d : XReg) (a : Src) (b : Imm) (s : State) : Res :=
  s.una 1 (fun x => (b.val <<< 32) ||| (x.setWidth 32).setWidth 64) d a

/-! ### Compares and predicate logic (spec/06 R158, R159) -/

def execCmpeq (p : Pair) (a : Src) (b : Opnd) (s : State) : Res := s.cmp (· == ·) p a b
def execCmpne (p : Pair) (a : Src) (b : Opnd) (s : State) : Res := s.cmp (· != ·) p a b
def execCmplt (p : Pair) (a : Src) (b : Opnd) (s : State) : Res := s.cmp BitVec.slt p a b
def execCmple (p : Pair) (a : Src) (b : Opnd) (s : State) : Res := s.cmp BitVec.sle p a b
def execCmpltn (p : Pair) (a : Src) (b : Opnd) (s : State) : Res := s.cmp BitVec.ult p a b
def execCmplen (p : Pair) (a : Src) (b : Opnd) (s : State) : Res := s.cmp BitVec.ule p a b
def execCmptst (p : Pair) (a : Src) (b : Opnd) (s : State) : Res := s.cmp (fun x y => x &&& y != 0) p a b
def execPand (d a : Fin 16) (na : Bool) (b : Fin 16) (nb : Bool) (s : State) : Res := s.plog and d a na b nb
def execPor (d a : Fin 16) (na : Bool) (b : Fin 16) (nb : Bool) (s : State) : Res := s.plog or d a na b nb
def execPxor (d a : Fin 16) (na : Bool) (b : Fin 16) (nb : Bool) (s : State) : Res := s.plog xor d a na b nb

/-! ### Loop counters (spec/06 R164) -/

def execLcset (n : Fin 4) (b : Opnd) (s : State) : Res :=
  let v : BitVec 32 := (s.opnd .s b).setWidth 32
  .next (s.expose 1 [LWrite.lc n v, LWrite.sq (v.setWidth 64)])
def execLcget (d : XReg) (n : Fin 4) (s : State) : Res := .next (s.toX 1 d ((s.lcv n).setWidth 64))

/-- Stage and go bits, and the counter written. -/
def lcStep (run drain : BitVec 32) : Bool × Bool :=
  if run != 0 then (true, true) else if drain != 0 then (false, true) else (false, false)

def execLcnext (p : Option Pair) (r dn : Fin 4) (s : State) : Res :=
  let run := s.lcv r
  let drain := s.lcv dn
  let st := lcStep run drain
  let w := if run != 0 then [LWrite.lc r (run - 1)] else if drain != 0 then [LWrite.lc dn (drain - 1)] else []
  let l := s.core.live
  let pw := match p with
    | some p => s.pairTo p st.2
    | none => []
  .next ({ s with core := { s.core with live := { l with stage := st.1 } } }.expose 1
    (w ++ pw ++ [s.sqFree]))

/-! ### Identity (spec/06 R165) -/

def Task.membValid (t : Task) (k : Nat) : Bool := t.desc.getLsbD (415 + 16 * k)
def Task.memb (t : Task) (k : Nat) : Nat := (t.desc.extractLsb' (400 + 16 * k) 16).toNat
def Task.midx (t : Task) (k : Nat) : Nat := (t.desc.extractLsb' (384 - 16 * k) 16).toNat
def Task.prio (t : Task) : Nat := (t.desc.extractLsb' 240 3).toNat

/-- The task whose state stands on the core, or whose handler runs. -/
def State.curTask (s : State) : Option Task := s.core.task.bind fun n => s.tasks.find? (·.id == n)

def State.identity (s : State) (sel : Nat) : Word :=
  let die := keyDie s.here
  let idx := keyIdx s.here
  let sf := s.onSaffron
  let t := s.curTask
  let ofT := fun (d : Word) (f : Task → Word) => if sf then d else match t with
    | some t => f t
    | none => 0
  match sel with
  | 0 => BitVec.ofNat 64 idx
  | 1 => BitVec.ofNat 64 (keyCluster s.here)
  | 2 => BitVec.ofNat 64 die
  | 3 => BitVec.ofNat 64 (if sf then 576 + 9 * die + (idx - 72) else 72 * die + idx)
  | 4 => BitVec.ofNat 64 s.device
  | 5 | 6 | 7 | 8 => ofT (-1) fun t => if t.membValid (sel - 5) then BitVec.ofNat 64 (t.midx (sel - 5)) else -1
  | 9 => ofT 0 fun t => BitVec.ofNat 64 (t.desc.extractLsb' 400 64).toNat
  | 10 => if sf then BitVec.ofNat 64 s.core.ctx else ofT 0 fun t => BitVec.ofNat 64 t.ctx
  | 11 => s.tag
  | 12 => ofT 0 fun t => BitVec.ofNat 64 t.prio
  | 13 => if s.core.tcw.getLsbD 1 then 1 else 0
  | _ => if sf then 1 else 0

def execRdid (d : XReg) (sel : Fin 15) (s : State) : Res := .next (s.toX 1 d (s.identity sel.val))

/-! ### Status, generators, steps, formats (spec/06 R166 to R169) -/

def execRdfst (d : XReg) (s : State) : Res := .next (s.toX 1 d ((s.fstRead).setWidth 64))

/-- Enables from A[15:8]; flags cleared where A[7:0] has a 1. -/
def fstWrite (old : BitVec 16) (a : Word) : BitVec 16 :=
  (a.setWidth 16 &&& 0xFF00) ||| (old &&& 0x00FF &&& ~~~(a.setWidth 16))

def execWrfst (a : Src) (s : State) : Res :=
  let s' := s.loadS a
  let l := s'.core.live
  .next { s' with core := { s'.core with live := { l with fst := fstWrite l.fst (s.src .s a) } } }.sqLands

/-- Add an effect at the end of the bundle. -/
def State.atEnd (s : State) (w : EobWrite) : State :=
  { s with core := { s.core with iss := { s.core.iss with eob := s.core.iss.eob ++ [w] } } }

def execSgset (n : Fin 16) (a : Src) (s : State) : Res :=
  let v := s.src .s a
  .next ((s.loadS a).atEnd (.sg n (if v = 0 then sgReset[n] else v))).sqLands
def execVstp (k : Fin 2) (a : Src) (s : State) : Res := .next ((s.loadS a).atEnd (.vstp k (portVMask (s.src .s a)))).sqLands
def execFmset (n : Fin 8) (a : Src) (s : State) : Res := .next ((s.loadS a).atEnd (.fm n (fmMask ((s.src .s a).setWidth 32)))).sqLands
def execFmget (d : XReg) (n : Fin 8) (s : State) : Res := .next (s.toX 1 d ((s.core.live.fm[n]).setWidth 64))

/-! ### Branch preparation (spec/07 R195) -/

/-- Target relative to this bundle's header. -/
def State.bprep (s : State) (t : Fin 8) (b : Imm) (link : Bool) : Res :=
  .next (s.atEnd (.tb t (s.core.iss.pcb + b.val) link)).sqLands
def State.bprepI (s : State) (t : Fin 8) (a : Src) (link : Bool) : Res :=
  .next ((s.loadS a).atEnd (.tb t (((s.src .s a).setWidth 48).signExtend 64) link)).sqLands

def execBprep (t : Fin 8) (b : Imm) (s : State) : Res := s.bprep t b false
def execBprepL (t : Fin 8) (b : Imm) (s : State) : Res := s.bprep t b true
def execBprepi (t : Fin 8) (a : Src) (s : State) : Res := s.bprepI t a false
def execBprepiL (t : Fin 8) (a : Src) (s : State) : Res := s.bprepI t a true

/-! ### System calls and return (spec/07 R197, R198) -/

def State.callTrap (s : State) (cause : Nat) (b : Imm) : Res :=
  let c := s.core
  -- the bundle has issued and is not undone: it counts from here on (spec/07 R197, spec/20 R404)
  let s := if c.phase == .handler || s.onSaffron then s else { s with core := { c with icntCk := c.icntCk + 1 } }
  .next (s.takeTrap { cause := cause, detail := b.val.setWidth 32, slot := 3, pcb := c.iss.pcb, seq := c.seq,
                      resume := some c.iss.next })

def execSysc (b : Imm) (s : State) : Res := s.callTrap 0x0F b
def execBrk (b : Imm) (s : State) : Res := s.callTrap 0x10 b

/-- Outside the privileged mode a privileged instruction raises PRIV (spec/04 R101). -/
def State.privileged (s : State) (r : Res) : Res := if s.core.priv then r else .next (s.trap 0x03)

/-- Return from a handler. With no handler running (a privileged task) there is no trapped task: the registers TRTCW and
TRPC still name where it goes, and the duplicate set is what the last checkpoint saved (log 51). -/
def execRfe (s : State) : Res := s.privileged (.next s.returnTrap)

/-! ### Control registers (spec/06 R170, spec/18 R342) -/

def State.crRead (s : State) (n : Nat) : Option Word :=
  let c := s.core
  if n = 0x000 then some c.tcw
  else if n = 0x001 then some c.pbound
  else if n = 0x002 then some (BitVec.ofNat 64 c.acnt)
  else if inRange n 0x008 8 then some (BitVec.ofNat 64 (c.livemask.toNat >>> (64 * (n - 8))))
  else if n = 0x010 then some (if c.phase == .handler then c.hroot else c.ptroot)
  else if n = 0x020 then some c.trtcw
  else if n = 0x021 then some c.trpc
  else if n = 0x030 then some (semapWord c.semap)
  else if n = 0x040 then some c.tcause
  else if n = 0x041 then some c.tbund
  else if n = 0x042 then some c.taddr
  else if n = 0x043 then some c.tckpt
  else if n = 0x044 then some c.tres0
  else if n = 0x045 then some c.tres1
  else if n = 0x046 then some c.tres2
  else if n = 0x047 then some c.tstart
  else if n = 0x048 then some c.ttick
  else if inRange n 0x049 7 then some 0
  else none

/-- Every register takes its value for the bundles after this one. Of PBOUND and LIVEMASK something between the repeats of this bundle
would see it: they take it at the end of the bundle. -/
def Core.crWrite (c : Core) (n : Nat) (v : Word) : Core :=
  let later := fun w => { c with iss := { c.iss with eob := c.iss.eob ++ [w] } }
  if n = 0x000 then { c with tcw := mergeMask 2 c.tcw v }
  else if n = 0x001 then later (.pbound v)
  else if inRange n 0x008 8 then later (.mask ⟨(n - 8) % 8, Nat.mod_lt _ (by decide)⟩ v)
  else if n = 0x020 then { c with trtcw := mergeMask 2 c.trtcw v }
  else if n = 0x021 then { c with trpc := v }
  else c

def execRdcr (d : XReg) (n : Imm) (s : State) : Res :=
  s.privileged (match s.crRead n.val.toNat with
    | some v => .next (s.toX 1 d v)
    | none => .next (s.trap 0x02))

def execWrcr (n : Imm) (a : Src) (s : State) : Res :=
  s.privileged (match s.crRead n.val.toNat with
    | some _ =>
      let s' := s.loadS a
      .next { s' with core := s'.core.crWrite n.val.toNat (s.src .s a) }.sqLands
    | none => .next (s.trap 0x02))

/-- `halt`: the core issues nothing after this bundle (spec/06 R170). -/
def execHalt (s : State) : Res :=
  s.privileged (.next { s with core := { s.core with iss := { s.core.iss with ending := 2 } } })

/-! ### The prefix (spec/02 R56, R57, spec/07 R194) -/

def execPfx (r : Frnd) (sat : Sat) (q : Qrnd) (n : Fin 16) (s : State) : Res :=
  .next { s with core := { s.core with iss := { s.core.iss with frnd := r, sat := sat, qrnd := q, seed := n } } }

end Sys2Proof.Machine
end

