-- ==== Sys2Proof/Machine/Tasks.lean ====
section
/-!
DEFINITION. Tasks and groups as the scheduler holds them: the group table (spec/19 R374), descriptors and their checks
(spec/01 R17, R18, spec/18 R341), acceptance (spec/19 R366, spec/07 R184).
-/
namespace Sys2Proof.Machine

/-! ### The group table (spec/19 R374) -/

def State.gStrict (s : State) (g : Nat) : Bool := !(s.gctl g).testBit 62
def State.gHome (s : State) (g : Nat) : Nat := natBits (s.gctl g) 11 0
def State.gNmem (s : State) (g : Nat) : Nat := rdNat s.mem (s.grpAt g + 0x08) 4
def State.gQuorum (s : State) (g : Nat) : Nat := rdNat s.mem (s.grpAt g + 0x0C) 4
def State.gLate (s : State) (g : Nat) : Nat := rdNat s.mem (s.grpAt g + 0x10) 8
def State.gYield (s : State) (g : Nat) : Nat := rdNat s.mem (s.grpAt g + 0x18) 8
def State.gMema (s : State) (g : Nat) : Nat := rdNat s.mem (s.grpAt g + 0x20) 8
def State.gRpt (s : State) (g : Nat) : Word := BitVec.ofNat 64 (rdNat s.mem (s.grpAt g + 0x28) 8)
def State.gRcnt (s : State) (g : Nat) : Nat := rdNat s.mem (s.grpAt g + 0x30) 4

def State.memAt (s : State) (g m : Nat) : Nat := s.gMema g + 16 * m
/-- First word of a member entry: BOUND and TRIPLE. -/
def State.memWhere (s : State) (g m : Nat) : Nat := rdNat s.mem (s.memAt g m) 8
/-- Second word: STATE and SEQ. -/
def State.memStat (s : State) (g m : Nat) : Nat := rdNat s.mem (s.memAt g m + 8) 8
def State.memState (s : State) (g m : Nat) : Nat := natBits (s.memStat g m) 33 32
def State.memSeq (s : State) (g m : Nat) : Nat := natBits (s.memStat g m) 31 0
def State.setMemState (s : State) (g m st : Nat) : State :=
  s.wrNat (s.memAt g m + 8) 8 (s.memSeq g m + st % 4 * 2 ^ 32)
def State.setMemSeq (s : State) (g m n : Nat) : State :=
  s.wrNat (s.memAt g m + 8) 8 (s.memState g m * 2 ^ 32 + n % 2 ^ 32)

/-- Rebind a member index to where its task runs: spec/19 R375. -/
def State.rebind (s : State) (g m die core : Nat) : State :=
  s.wrNat (s.memAt g m) 8 (2 ^ 63 + s.device % 4096 + die * 2 ^ 12 + core * 2 ^ 15)

/-- No task holds a member index any more: BOUND reads 0, and TRIPLE stays (spec/19 R374). -/
def State.unbind (s : State) (g m : Nat) : State := s.wrNat (s.memAt g m) 8 (s.memWhere g m % 2 ^ 63)

/-! ### Descriptors -/

def dbits (d : BitVec 512) (hi lo : Nat) : Nat := natBits d.toNat hi lo
def descPrio (d : BitVec 512) : Nat := dbits d 242 240
def descCtx (d : BitVec 512) : Nat := dbits d 191 176
def descEntry (d : BitVec 512) : Word := (d.extractLsb' 64 48).signExtend 64
def descArgs (d : BitVec 512) : Word := (d.extractLsb' 128 48).signExtend 64
def descAff (d : BitVec 512) : Nat := dbits d 335 264
def descTag (d : BitVec 512) : Word := d.setWidth 64

/-- Valid memberships of a descriptor: number, group, member index. -/
def descMembs (d : BitVec 512) : List (Nat × Nat × Nat) :=
  [0, 1, 2, 3].filterMap fun k =>
    if d.getLsbD (415 + 16 * k) then some (k, dbits d (407 + 16 * k) (400 + 16 * k), dbits d (399 - 16 * k) (384 - 16 * k))
    else none

def noDup : List Nat → Bool
  | [] => true
  | x :: xs => !(xs.contains x) && noDup xs

/-- R18's checks of a descriptor. -/
def State.descOk (s : State) (d : BitVec 512) : Bool :=
  let ms := descMembs d
  dbits d 511 464 == 0 && dbits d 263 256 == 0 && dbits d 255 243 == 0 && dbits d 127 112 == 0 &&
  dbits d 197 192 == 0 && dbits d 133 128 == 0 && dbits d 65 64 == 0 &&
  ([0, 1, 2, 3].all fun k => dbits d (414 + 16 * k) (408 + 16 * k) == 0) &&
  descAff d != 0 && noDup (ms.map fun m => m.2.1) &&
  (ms.all fun m => s.gValid m.2.1 && decide (m.2.2 < s.gNmem m.2.1))

/-- R341's checks of a context entry. -/
def State.ctxOk (s : State) (die ctx : Nat) : Bool :=
  let a := s.ctxAt die ctx
  let cfg := rdNat s.mem (a + 8) 8
  let root := rdNat s.mem a 8
  let bucket := fun o => natBits (rdNat s.mem (a + o) 8) 15 0 == 0
  cfg.testBit 63 && natBits cfg 62 35 == 0 && natBits cfg 31 16 == 0 && natBits cfg 7 2 == 0 && natBits cfg 0 0 == 0 &&
  natBits root 11 0 == 0 && natBits root 63 52 == 0 && rdNat s.mem (a + 0x18) 8 == 0 &&
  bucket 0x60 && bucket 0x68 && bucket 0x70 && natBits (rdNat s.mem (a + 0x78) 8) 63 32 == 0

/-! ### Acceptance -/

def State.queueFull (s : State) (die q : Nat) : Bool :=
  s.queueCount die q == natBits (s.dget die (offTQCTL q)).toNat 12 0 || decide (4096 ≤ s.dieCount die)

def State.queueEn (s : State) (die q : Nat) : Bool := (s.dget die (offTQCTL q)).getLsbD 63

/-- A task as accepted. -/
def State.newTask (s : State) (die q : Nat) (d : BitVec 512) (node : Option (Nat × Nat × Nat)) (act : Bool) : Task :=
  let rdy := act && s.queueEn die q
  { id := s.nextId, desc := d, die := die, queue := q, state := if rdy then .ready else .queued, wait := .none,
    ready := s.tick, yielded := false, pin := none, node := node, act := act, begun := false, held := none,
    ag := .replicate 4 {} }

/-- Put a task at the tail of its queue. -/
def State.enqueue (s : State) (die q : Nat) (d : BitVec 512) (node : Option (Nat × Nat × Nat)) (act : Bool) : State :=
  { s with tasks := s.tasks ++ [s.newTask die q d node act], nextId := s.nextId + 1 }

/-- Acceptance of a descriptor: status 0, 1 or 2 of spec/07 R184. -/
def State.accept (s : State) (die q : Nat) (d : BitVec 512) (node : Option (Nat × Nat × Nat)) (act : Bool) : Nat × State :=
  if !(s.descOk d && s.ctxOk die (descCtx d)) then (1, s)
  else if s.queueFull die q then (2, s)
  else (0, s.enqueue die q d node act)

end Sys2Proof.Machine
end

