-- ==== Sys2Proof/Machine/Memory.lean ====
section
/-!
DEFINITION. The L slot: loads, stores, atomics, fences, queues and tasks (spec/07 R171 to R185, R201, R203).
-/
namespace Sys2Proof.Machine

/-! ### Shared shapes -/

/-- Effective address: spec/07 R171. An IDX coded `ko` beside a BASE that is not reads the port as it stood before this operation loads
it: the model's choice (log 110). -/
def State.ea (s : State) (base : Src) (off : Opnd) : Word := s.src .l base + s.opnd .l off

/-- Once entry of a slot (0 the L slot, 1 the Y slot): the task's, or the handler's own (spec/20 R390). Saffron keeps none
(spec/07 R203). -/
def State.once (s : State) (i : Fin 2) : OnceRec := if s.onSaffron then {} else s.core.records[i]

def State.setOnce (s : State) (i : Fin 2) (r : OnceRec) : State :=
  if s.onSaffron then s
  else if s.core.phase == .handler then { s with core := { s.core with once2 := s.core.once2.set i r } }
  else { s with core := { s.core with once := s.core.once.set i r } }

/-- A scoreboarded result of this issue. -/
def State.deliver (s : State) (d : Option XReg) (v : Word) (lq : Option Word) (pair : Option (Pair × Bool)) : State :=
  let l := s.core.live
  s.result { seq := s.core.seq, pcb := s.core.iss.pcb, ld := none, xd := d.map (physX l), val := v, lq := lq,
             pair := pair.map fun p => (physP l (pairEven p.1), physP l (pairOdd p.1), p.2), fault := none, host := false }

/-- Perform the released stores of this core that meet n bytes: its own strong accesses come after them (spec/07 R175). -/
def State.flushBytes (s : State) (pa n : Nat) : State :=
  let same := fun e : Released => match e with
    | .store qa c _ => decide (qa < pa + n) && decide (pa < qa + c.length)
    | .post _ _ => false
  let rel := s.core.rel
  let s1 := s.modCore s.here fun c => { c with rel := rel.filter fun e => !same e }
  (rel.filter same).foldl (fun s e => s.performRel s.here e) s1

/-- Enter the withholding buffer: STF on overflow, spec/07 R201, at the effective address `ea` (spec/20 R386). -/
def State.enter (s : State) (e : WEntry) (ea : Word) : State :=
  if whbMax ≤ s.core.whb.length then s.trap 0x06 6 ea else s.withhold e

/-! ### Loads and stores (spec/07 R173 to R176) -/

/-- A load record whose bytes own stores not yet at home supply. -/
def State.ldOf (s : State) (pa n : Nat) (strong : Bool) (cl : Nat) : Ld :=
  { bytes := (List.range n).map fun i => (pa + i, s.core.ownByte (pa + i)), strong := strong, cl := cl, acq := s.core.acq,
    seq := s.wseq, held := s.core.whb.length }

/-- A load of n bytes. Its fault is raised when the load would complete (spec/07 R173), on Saffron at its bundle (spec/11
R305); a misaligned address at once. -/
def State.load (s : State) (n : Nat) (strong : Bool) (d : XReg) (base : Src) (off : Opnd) : Res :=
  let ea := s.ea base off
  let s1 := s.loadL base
  let c := s1.core
  if ea.toNat % n ≠ 0 then .next (s.trap 0x07 0 ea)
  else
    let o : Outst := { seq := c.seq, pcb := c.iss.pcb, ld := none, xd := some (physX c.live d), val := ea, lq := none,
                       pair := none, fault := none, host := false }
    match s.access s.acc .rd (.lslot strong) ea (s.core.utag 120) with
    | .error k =>
      let t : TrapInfo := { cause := 0x05, detail := BitVec.ofNat 32 k, slot := 4, pcb := c.iss.pcb, addr := ea, seq := c.seq }
      if s.onSaffron then .next (s.takeTrap t) else .next (s1.result { o with fault := some t })
    | .ok t =>
      let ld := s.ldOf t.pa n strong t.cl
      -- Saffron performs its accesses as they issue (spec/07 R203, spec/12 R332)
      if s.onSaffron then
        let v := BitVec.ofNat 64 (leNat ((s.flushBytes t.pa n).ldBytes ld))
        .next ((s1.flushBytes t.pa n).result { o with val := v, lq := some v, host := isHostPa t.pa })
      else .next (s1.result { o with ld := some ld, host := isHostPa t.pa })

/-- A store of n bytes. A D coded `ko` beside a BASE that is not reads the port as it stood before this operation loads it: the model's choice
(log 110). -/
def State.store (s : State) (n : Nat) (strong : Bool) (v : Src) (base : Src) (off : Opnd) : Res :=
  let ea := s.ea base off
  let val := s.src .l v
  let s1 := s.loadL base
  if ea.toNat % n ≠ 0 then .next (s.trap 0x07 0 ea)
  else
    match s.access s.acc .wr (.lslot strong) ea (s.core.utag 120) with
    | .error k => .next (s.trap 0x06 k ea)
    | .ok t =>
      let data := leBytes n val.toNat
      if s.onSaffron then
        if s.idleRange t.pa then .next (s.trap 0x06 5 ea) else .next (s1.performStore s1.here t.pa data)
      else .next (s1.enter (.store ea t.pa data strong s.acc) ea)

def execLdN8 (d : XReg) (b : Src) (o : Opnd) (s : State) : Res := s.load 1 false d b o
def execLdN16 (d : XReg) (b : Src) (o : Opnd) (s : State) : Res := s.load 2 false d b o
def execLdN32 (d : XReg) (b : Src) (o : Opnd) (s : State) : Res := s.load 4 false d b o
def execLdN64 (d : XReg) (b : Src) (o : Opnd) (s : State) : Res := s.load 8 false d b o
def execLdsN8 (d : XReg) (b : Src) (o : Opnd) (s : State) : Res := s.load 1 true d b o
def execLdsN16 (d : XReg) (b : Src) (o : Opnd) (s : State) : Res := s.load 2 true d b o
def execLdsN32 (d : XReg) (b : Src) (o : Opnd) (s : State) : Res := s.load 4 true d b o
def execLdsN64 (d : XReg) (b : Src) (o : Opnd) (s : State) : Res := s.load 8 true d b o
def execStN8 (v b : Src) (o : Opnd) (s : State) : Res := s.store 1 false v b o
def execStN16 (v b : Src) (o : Opnd) (s : State) : Res := s.store 2 false v b o
def execStN32 (v b : Src) (o : Opnd) (s : State) : Res := s.store 4 false v b o
def execStN64 (v b : Src) (o : Opnd) (s : State) : Res := s.store 8 false v b o
def execStsN8 (v b : Src) (o : Opnd) (s : State) : Res := s.store 1 true v b o
def execStsN16 (v b : Src) (o : Opnd) (s : State) : Res := s.store 2 true v b o
def execStsN32 (v b : Src) (o : Opnd) (s : State) : Res := s.store 4 true v b o
def execStsN64 (v b : Src) (o : Opnd) (s : State) : Res := s.store 8 true v b o

/-! ### Atomics (spec/07 R179) -/

/-- In replay an instruction that is performed passes over the record its recording left (log 50). -/
def State.passOnce (s : State) : State :=
  if s.repMode = 2 then match s.nextRec inputKind with
    | some r => if r.kind = 1 then s.consume r else s
    | none => s
  else s

/-- A once-only result recorded and logged for replay. -/
def State.onceDone (s : State) (i : Fin 2) (v lq : Word) (pair : Option Bool) : State :=
  let pr := match pair with
    | some b => 2 + b.toNat
    | none => 0
  ((s.setOnce i { done := true, val := v, aux := lq, pair := pair }).logRec 1 v.toNat lq.toNat pr).passOnce

/-- One indivisible strong access; `f old v` is the new value. -/
def State.amo (s : State) (f : Word → Word → Word) (d : XReg) (base : Src) (v : Opnd) : Res :=
  let ea := s.src .l base
  let x := s.opnd .l v
  let s1 := s.loadL base
  let r := s.once 0
  if r.done then .next (s1.deliver (some d) r.val (some r.val) none)
  else if s.repMode = 2 then
    match s1.replayed 1 with
    | none => .next s.diverge
    | some (e, s2) =>
      .next ((s2.setOnce 0 { done := true, val := e.value, aux := e.value }).deliver (some d) e.value (some e.value) none)
  else if ea.toNat % 8 ≠ 0 then .next (s.trap 0x07 0 ea)
  else
    match s.access s.acc .rw (.lslot true) ea (s.core.utag 120) with
    | .error k => .next (s.trap 0x05 k ea)
    | .ok t =>
      let s2 := s1.flushBytes t.pa 8
      let old := BitVec.ofNat 64 (rdNat s2.mem t.pa 8)
      let s3 := s2.performStore s2.here t.pa (leBytes 8 (f old x).toNat)
      .next ((s3.onceDone 0 old old none).deliver (some d) old (some old) none)

def execAmoadd (d : XReg) (b : Src) (v : Opnd) (s : State) : Res := s.amo (· + ·) d b v
def execAmoswp (d : XReg) (b : Src) (v : Opnd) (s : State) : Res := s.amo (fun _ x => x) d b v
def execAmocas (d : XReg) (b : Src) (v : Opnd) (s : State) : Res := s.amo (fun o x => if o = s.x d then x else o) d b v
def execAmomin (d : XReg) (b : Src) (v : Opnd) (s : State) : Res := s.amo (fun o x => if o.slt x then o else x) d b v
def execAmomax (d : XReg) (b : Src) (v : Opnd) (s : State) : Res := s.amo (fun o x => if o.slt x then x else o) d b v
def execAmoand (d : XReg) (b : Src) (v : Opnd) (s : State) : Res := s.amo (· &&& ·) d b v
def execAmoor (d : XReg) (b : Src) (v : Opnd) (s : State) : Res := s.amo (· ||| ·) d b v

/-! ### Fences (spec/07 R180, R181) -/

/-- Scope 0 core, 1 die, 2 device, 3 fabric; 4 an `ifence`. It completes in a FENCE_COMPLETION step. -/
def State.fenceOp (s : State) (scope : Nat) : Res := .next { s with core := { s.core with fence := some scope } }

def execFenceCore (s : State) : Res := s.fenceOp 0
def execFenceDie (s : State) : Res := s.fenceOp 1
def execFenceDev (s : State) : Res := s.fenceOp 2
def execFenceFab (s : State) : Res := s.fenceOp 3
def execIfence (s : State) : Res := s.fenceOp 4

/-- An earlier copy of this core into region 0x8 whose token is still to be written; one withheld in this interval is not yet
released (R180). -/
def State.farOpen (s : State) (x : Copy) : Bool := x.state != .withheld && !x.tokDone && s.landsAway x

/-- What the outstanding fence waits for is done but for stores it may push home. -/
def State.fenceReady (s : State) : Bool :=
  match s.core.fence with
  | none => false
  | some n => s.core.outst.isEmpty && (n != 3 || !(s.core.copies.any s.farOpen))

/-- The fence completes: every released access is performed at its scope. -/
def execFenceCompletion (s : State) : Res :=
  if s.fenceReady then
    match s.core.fence with
    | none => .next s
    | some n =>
      -- fetch after an `ifence` sees every store this core sees, its own released ones among them (spec/04 R121)
      let s1 := if n = 0 then s else s.flushRel s.here
      let c := { s1.core with fence := none }
      if n = 4 then
        .next { s1 with core := { c with ifseq := s1.wseq, live := { c.live with tb := c.live.tb.map fun t => { t with copy := false } } } }
      else if n = 0 then .next { s1 with core := c }
      else .next { s1 with core := { c with acq := s1.wseq } }
  else .next s

/-! ### Queues (spec/07 R182, R183) -/

def execQpush (q : Src) (v : Opnd) (s : State) : Res :=
  let qv := s.src .l q
  let msg := s.opnd .l v
  let s1 := s.loadL q
  if s.qRefused s.acc qv then .next (s.trap 0x06 8 qv)
  else if s.onSaffron then
    .next ((s1.flushRel s1.here).qAppend (qDie qv) (qNum qv) { ctx := s.core.ctx, val := msg })
  else .next (s1.enter (.push qv msg s.acc) qv)

/-- A Saffron request queue: spec/19 R378. -/
def saffronQueue (qv : Word) : Bool := decide (112 ≤ qNum qv) && decide (qNum qv ≤ 120)

/-- `qpop` (pair none) and `qtry`. A `qpop` on an empty queue gives up the core in a Q bundle, and elsewhere waits. -/
def State.pop (s : State) (d : XReg) (p : Option Pair) (q : Src) : Res :=
  let qv := s.src .l q
  let s1 := s.loadL q
  let r := s.once 0
  let del := fun (s : State) (v : Word) (hit : Option Bool) =>
    let got := hit.getD true
    s.deliver (if got then some d else none) v none (p.map fun p => (p, got))
  if r.done then .next (del s1 r.val r.pair)
  else if s.repMode = 2 then
    match s1.replayed 1 with
    | none => .next s.diverge
    | some (e, s2) =>
      let hit := if p.isSome then some (decide (e.pair % 2 = 1)) else none
      .next (del (s2.setOnce 0 { done := true, val := e.value, aux := e.aux, pair := hit }) e.value hit)
  else if saffronQueue qv || s.qRefused s.acc qv then .next (s.trap 0x05 8 qv)
  else
    match s1.qTake (qDie qv) (qNum qv) with
    | some (m, s2) =>
      let hit := if p.isSome then some true else none
      -- an acquire (spec/12 R332)
      let s3 := { s2 with core := { s2.core with acq := s2.wseq } }
      .next (del (s3.onceDone 0 m.val 0 hit) m.val hit)
    | none =>
      match p with
      | some _ => .next (del (s1.onceDone 0 0 0 (some false)) 0 (some false))
      | none =>
        if s.core.iss.q then
          .next { s1 with core := { s1.core with iss := { s1.core.iss with leave := some (.queue (qDie qv) (qNum qv)) } } }
        else .next s

def execQpop (d : XReg) (q : Src) (s : State) : Res := s.pop d none q
def execQtry (d : XReg) (p : Pair) (q : Src) (s : State) : Res := s.pop d (some p) q

/-! ### Tasks (spec/07 R184, R185) -/

/-- The queue's die is closed to this master, or the register names no queue: status 3. -/
def State.spawnShut (s : State) (qv : Word) : Bool :=
  let die := natBits qv.toNat 8 6
  let a := s.acc
  natBits qv.toNat 63 9 != 0 || s.pathShut a (.win (.scratch die 0)) ||
  (a.accid != 0 && !((s.accEntry (keyDie a.key) 1 a.accid).testBit (64 + die)))

/-- `tspawn`: spec/07 R184. Of several statuses that apply, 3 stands before 1, and 1 before 2: the model's choice (log 117). -/
def execTspawn (d : XReg) (b q : Src) (s : State) : Res :=
  let ea := s.src .l b
  let qv := s.src .l q
  let s1 := s.loadL b
  let r := s.once 0
  if r.done then .next (s1.deliver (some d) r.val none none)
  else if ea.toNat % 64 ≠ 0 then .next (s.trap 0x07 0 ea)
  else
    match s.access s.acc .rd (.lslot true) ea (s.core.utag 120) with
    | .error k => .next (s.trap 0x05 k ea)
    | .ok t =>
      -- a release at device scope (spec/12 R333)
      let s2 := s1.flushRel s1.here
      let desc := BitVec.ofNat 512 (rdNat s2.mem t.pa 64)
      let p := if s.spawnShut qv then (3, s2)
        else s2.accept (natBits qv.toNat 8 6) (natBits qv.toNat 5 0) desc none true
      let v := BitVec.ofNat 64 p.1
      .next ((p.2.onceDone 0 v 0 none).deliver (some d) v none none)

def execTend (s : State) : Res :=
  let s1 := if (s.once 0).done then s else s.onceDone 0 0 0 none
  .next { s1 with core := { s1.core with iss := { s1.core.iss with ending := 1 } } }

/-! ### Loads complete -/

/-- A byte that a weak load finds at its home alone: no L1 copy serves it (spec/12 R324, R328). -/
def Ld.homeOnly (l : Ld) (pa : Nat) : Bool := !l.strong && (l.cl != 0 || isWin pa)

/-- Loads of one byte that no L1 copy serves never go backwards: the later one is not performed first (spec/12 R324). -/
def Ld.keeps (l m : Ld) : Bool := l.bytes.any fun p => l.homeOnly p.1 && m.homeOnly p.1 && m.bytes.any fun q => q.1 == p.1

/-- The weak load at a place of the list may be performed ahead of the others: it has no place in an order of loads (spec/12 R318) but for
those of its bytes that are served at their homes alone. -/
def Core.mayPerform (c : Core) (i : Nat) : Bool :=
  match c.outst[i]? with
  | some o => o.fault.isNone && (match o.ld with
    | some m => !m.strong && (c.outst.take i).all fun p => !(p.ld.any fun l => l.keeps m)
    | none => false)
  | none => false

/-- The first outstanding result is written; results of one core are written in issue order (spec/07 R173). A faulting load raises its
trap here. A later index performs that weak load, ahead of the others. -/
def execLoadCompletion (i : Nat) (s : State) : Res :=
  match s.core.outst with
  | [] => .next s
  | o :: os =>
    if i ≠ 0 then match s.core.outst[i]? with
      | some p =>
        if s.core.mayPerform i then .next { s with core := { s.core with outst := s.core.outst.set i (s.loadDone p) } } else .next s
      | none => .next s
    else match o.fault with
      | some t => .next (s.takeTrap t)
      | none => .next ({ s with core := { s.core with outst := os } }.writeResult o)

/-- The host does not complete an access in time. A load: LDF, DETAIL kind 9 (spec/07 R176). An index past the outstanding results
names a withheld host write, which its release will then refuse (R202); one past those a copy, which ends with −4 (spec/10 R261). -/
def execHostCompletionTimeout (i : Nat) (s : State) : Res :=
  match s.core.outst[i]? with
  | none =>
    let j := i - s.core.outst.length
    match s.core.whb[j]? with
    | some (.store _ pa _ _ _) =>
      if isHostPa pa then .next { s with core := { s.core with hostLate := j :: s.core.hostLate } } else .next s
    | some _ => .next s
    | none => match s.core.copies[j - s.core.whb.length]? with
      | some x => if x.state == .running && x.early.isNone && s.cHosted x then .next (s.copyLate x) else .next s
      | none => .next s
  | some o =>
    if o.host && o.fault.isNone then
      let t : TrapInfo := { cause := 0x05, detail := 9, slot := 4, pcb := o.pcb, addr := o.val, seq := o.seq }
      .next (s.takeTrap t)
    else .next s

end Sys2Proof.Machine
end

