-- ==== Sys2Proof/Machine/Sync.lean ====
section
/-!
DEFINITION. The Y slot but for agreements: waits, posts, barriers and `yield` (spec/07 R186 to R193), and the steps in which
posts, stores and messages reach their homes.
-/
namespace Sys2Proof.Machine

/-! ### Waits (spec/07 R187, R189, R192) -/

def State.thr (s : State) : Thr → Nat
  | .short n => n.toNat
  | .long n => n.toNat
  | .reg r => (s.src .y r).toNat

/-- The flag has reached the threshold. -/
def State.waitOk (s : State) (f : Fin 32) (n : Thr) : Bool := decide (s.thr n ≤ (s.core.flag f.val).toNat)

/-- A completed wait is an acquire: later loads see what was visible at the post. -/
def State.acquire (s : State) (f : Fin 32) : State :=
  { s with core := { s.core with acq := max s.core.acq (s.core.fseq[f]) } }

/-- An unsatisfied `wait` holds its bundle (the issue stalls): nothing changes. -/
def execWait (f : Fin 32) (n : Thr) (s : State) : Res := if s.waitOk f n then .next (s.acquire f) else .next s

/-- Give up the core after this issue (spec/07 R190). -/
def State.giveUp (s : State) (w : TWait) : State :=
  { s with core := { s.core with iss := { s.core.iss with leave := some w } } }

def execWaity (f : Fin 32) (n : Thr) (s : State) : Res :=
  if s.waitOk f n then .next (s.acquire f) else .next (s.giveUp (.flag s.here f.val (s.thr n)))

/-! ### Posts (spec/07 R188, R189) -/

/-- A post of the Y slot: withheld, or on Saffron performed at issue after earlier stores. -/
def State.post (s : State) (xt : Word) (own : Bool) (p : Post) : Res :=
  if s.onSaffron then
    if !own && s.postRefused s.acc p.key then .next (s.trap 0x06 5 xt) else .next ((s.flushRel s.here).doPost p)
  else .next (s.enter (.post xt own p s.acc) (if own then 0 else xt))

def execPost (f : Fin 32) (n : Amt) (set : Bool) (s : State) : Res :=
  let amt := match n with
    | .short n => n.toNat
    | .long n => n.toNat
  s.post (BitVec.ofNat 64 (keyIdx s.here + keyDie s.here * 128)) true { key := s.here, flag := f.val, amt := amt, set := set }

def execPostr (f : Fin 32) (t : Src) (n : Option (BitVec 16)) (set : Bool) (s : State) : Res :=
  let xt := s.src .y t
  let amt := match n with
    | some n => n.toNat
    | none => 1
  let key := natBits xt.toNat 9 0
  if natBits xt.toNat 63 10 != 0 || decide (80 < keyIdx key) then .next (s.trap 0x06 5 xt)
  else s.post xt false { key := key, flag := f.val, amt := amt, set := set }

/-! ### Barriers (spec/07 R191, spec/19 R377) -/

def barArr (w : Word) : Nat := natBits w.toNat 31 16
def barExp (w : Word) : Nat := natBits w.toNat 15 0
def barPhase (w : Word) : Nat := natBits w.toNat 47 32

/-- A `barr` performed before waits again while its phase lasts (log 52). -/
def execBarr (n : Fin 64) (s : State) : Res :=
  let die := keyDie s.here
  let off := offBAR n.val
  let w := s.dget die off
  let r := s.once 1
  if r.done then
    if r.val.toNat = barPhase w && barArr w != 0 then .next (s.giveUp (.barrier die n.val))
    -- the phase has changed: its completion was an acquire (spec/12 R327)
    else .next { s with core := { s.core with acq := max s.core.acq (assocGet 0 s.barAt (die * 64 + n.val)) } }
  else if natBits w.toNat 63 48 != s.core.ctx || barExp w == 0 then .next (s.trap 0x06 8)
  else
    -- the arrival is a release, the completion an acquire (spec/12 R327)
    let s1 := (s.flushRel s.here).onceDone 1 (BitVec.ofNat 64 (barPhase w)) 0 none
    if barArr w + 1 = barExp w then
      let w' := putBits (putBits w 31 16 0) 47 32 (barPhase w + 1)
      let s1 := { s1 with core := { s1.core with acq := s1.wseq }, barAt := assocSet s1.barAt (die * 64 + n.val) s1.wseq }
      .next ((s1.dset die off w').wake fun t => match t with
        | .barrier d k => d == die && k == n.val
        | _ => false)
    else .next ((s1.dset die off (putBits w 31 16 (barArr w + 1))).giveUp (.barrier die n.val))

def execYield (s : State) : Res :=
  if (s.once 1).done then .next s else .next ((s.onceDone 1 0 0 none).giveUp .none)

/-! ### Posts, stores and messages reach home -/

/-- A released post reaches its flag after every earlier store (spec/07 R189). -/
def execFlagPostDelivery (i : Nat) (s : State) : Res :=
  match s.core.rel[i]? with
  | some (.post _ _) => .next (s.relAt s.here i)
  | _ => .next s

/-- Some of what a program's steps have still to write reaches its home. -/
def State.runPart (s : State) (p : Nat × BRun) : State :=
  let l := p.2.rest.foldl (fun (l : State × List Rest) q =>
    let u := l.1.restPart (fun pa => (s.wrBad p.2.acc pa).isSome) q
    (u.1, l.2 ++ [u.2])) (s, [])
  let before := p.2.rest.flatMap fun q => q.ws.map (·.1)
  let after := l.2.flatMap fun q => q.ws.map (·.1)
  let new := before.filter fun a => !after.contains a
  let r := { p.2 with rest := l.2.filter fun q => !q.ws.isEmpty, wrote := new ++ p.2.wrote }
  { l.1.noteDirect r.key new with bruns := l.1.bruns.map fun b => if b.2.id == r.id then (b.1, r) else b }

/-- Some of a frame's payload and entry reaches its home; with the last of it TAIL advances. -/
def State.framePart (s : State) (f : Frame) : State :=
  let u := s.restPart (fun _ => false) f.rest
  let g : Frame := { f with rest := u.2 }
  if u.2.ws.isEmpty then (({ u.1 with frames := u.1.frames.erase f }).frameTail f)
  else { u.1 with frames := u.1.frames.map fun x => if x = f then g else x }

/-- Programs and frames of a die that still write. -/
def State.dieRests (s : State) (die : Nat) : List (Nat × BRun) × List Frame :=
  (s.bruns.filter fun p => p.1 == die && !p.2.rest.isEmpty, s.frames.filter fun f => f.die == die)

/-- One of them lets some of its bytes be seen. -/
def State.diePartAt (s : State) (i : Nat) : State :=
  let l := s.dieRests (keyDie s.here)
  match l.1[i]?, l.2[i - l.1.length]? with
  | some p, _ => s.runPart p
  | none, some f => s.framePart f
  | none, none => s

/-- A released weak store is performed at its home (spec/12 R318, R325). An index past the released entries names a copy, of a die's own
agent a Bellows program or a frame: their bytes are weak writes too, and some of them reach their homes before the rest (R330). -/
def execWeakStoreReachesHome (i : Nat) (s : State) : Res :=
  match s.core.rel[i]? with
  | some (.store _ _ _) => .next (s.relAt s.here i)
  | some (.post _ _) => .next s
  | none =>
    if keyIdx s.here = 127 then .next (s.diePartAt (i - s.core.rel.length))
    else .next (s.copyPartAt (i - s.core.rel.length))

/-- A message reaches a queue of the die in focus (spec/19 R380). -/
def execQueueMessageAppend (q ctx : Nat) (msg : Word) (s : State) : Res :=
  let die := keyDie s.here
  if s.qEnabled die q && s.qRoom die q ctx (s.ctxQuota die ctx) then .next (s.qAppend die q { ctx := ctx, val := msg }) else .next s

/-- The Flue moves messages into the on-chip ring while it has room (spec/19 R380). -/
def execFlueMove (q : Nat) (s : State) : Res := .next (s.setMq (flueFill 64 (s.mq (keyDie s.here) q)))

end Sys2Proof.Machine
end

