-- ==== Sys2Proof/Machine/Agree.lean ====
section
/-!
DEFINITION. Agreements: contribution and delivery at a member, decision at the home unit (spec/01 R22 to R29, spec/11 R283
to R294, spec/15 R336, spec/19 R375, R376).
-/
namespace Sys2Proof.Machine

/-! ### The combine (spec/11 R285) -/

def agCmp (tc : Fin 4) (a t : Int) : Bool :=
  match tc with
  | 1 => decide (t ≤ a)
  | 2 => decide (a ≤ t)
  | 3 => decide (a = t)
  | 0 => decide (a ≠ 0)

def satS32 (v : Int) : Int := if v < -(2 ^ 31) then -(2 ^ 31) else if 2 ^ 31 - 1 < v then 2 ^ 31 - 1 else v

/-- c and cond, and whether the sum was clamped. -/
def combine (cmb : Cmb) (tc : Fin 4) (t : Int) (vs : List Int) : Int × Bool × Bool :=
  match cmb with
  | .all => let c : Int := if vs.all fun v => agCmp tc v t then 1 else 0; (c, decide (c ≠ 0), false)
  | .any => let c : Int := if vs.any fun v => agCmp tc v t then 1 else 0; (c, decide (c ≠ 0), false)
  | .sum => let e := vs.foldl (· + ·) 0; let c := satS32 e; (c, agCmp tc c t, decide (c ≠ e))
  | .min => let c := match vs with
      | [] => 0
      | v :: vs => vs.foldl (fun a b => if b < a then b else a) v
    (c, agCmp tc c t, false)
  | .max => let c := match vs with
      | [] => 0
      | v :: vs => vs.foldl (fun a b => if a < b then b else a) v
    (c, agCmp tc c t, false)

/-! ### Outcomes at a member (spec/11 R286, R292) -/

end Sys2Proof.Machine

namespace Sys2Proof
open Machine

/-- The decided arm reaches the member: AGREED, or LATE behind an AGREED decision. -/
def AgOut.taken (o : AgOut) : Bool := o.own == 0 || (o.own == 1 && o.decided == 0)
def AgOut.gq (o : AgOut) : Word := if o.taken then BitVec.ofInt 64 o.c else 0
def AgOut.even (o : AgOut) : Bool := o.taken && o.cond
def AgOut.status (o : AgOut) : Word :=
  BitVec.ofNat 64 (o.own % 8 + boolW o.missing 3 + o.decided % 8 * 16 + boolW o.clamped 7 + o.ncontr % 2 ^ 16 * 2 ^ 16 +
    o.seq % 2 ^ 32 * 2 ^ 32)


def Contrib.key (c : Contrib) : BitVec 32 × Cmb × Fin 4 × Int := (c.site, c.cmb, c.tc, c.t)

end Sys2Proof

namespace Sys2Proof.Machine

/-- The trapping form fails: from a status word (spec/11 R291). -/
def agFails (st : Word) : Bool :=
  let own := natBits st.toNat 2 0
  let dec := natBits st.toNat 6 4
  inRange own 2 3 || (own == 1 && inRange dec 2 3)

/-- Record an outcome in a Y entry; `fresh` while its record is still to be logged. -/
def onceOf (gq st : Word) (pair : Option Bool) (fresh : Bool := false) : OnceRec :=
  { done := true, val := gq, aux := st, pair := pair, wait := false, trapped := false, fresh := fresh }

/-- Latest status of a membership (spec/11 R292). -/
def State.setAgStat (s : State) (id mb : Nat) (st rpt : Word) : State :=
  { s with tasks := s.tasks.map fun t =>
      if t.id == id then { t with ag := t.ag.setIfInBounds mb { sel0 := st, sel2 := rpt } } else t }

/-- Write gq and the pair of the agreement in focus. -/
def Core.agWrite (c : Core) (gq : Word) (pair : Option (Fin 16 × Fin 16)) (even : Bool) : Core :=
  let l := { c.live with gq := gq }
  let l := match pair with
    | some (e, o) =>
      let m : BitVec 16 := (1 <<< e.val) ||| (1 <<< o.val)
      { l with p := (l.p &&& ~~~m) ||| (if even then 1 <<< e.val else 1 <<< o.val) }
    | none => l
  { c with live := l }

/-- The same at the end of the issue that knows them already: its other slots read what stood before (spec/04 R103). -/
def Core.agSoon (c : Core) (gq : Word) (pair : Option (Fin 16 × Fin 16)) (even : Bool) : Core :=
  { c with iss := { c.iss with eob := c.iss.eob ++ [.ag gq (pair.map fun p => (p.1, p.2, even))] } }

/-- The AGREE record of an outcome. -/
def State.agLog (s : State) (gq st : Word) (pair : Option Bool) : State :=
  s.logRec 2 st.toNat gq.toNat (match pair with
    | some b => 2 + b.toNat
    | none => 0)

/-- AGFAIL, with the results of the performed agreement; `out` marks the case of spec/01 R23. A trap that ranks earlier is taken
instead, and this one is raised when the bundle issues again. -/
def State.agFail (s : State) (w : AgWait) (gq st : Word) (pair : Option Bool) (out : Bool) : State :=
  let tr2 : BitVec 2 := match pair with
    | some b => if b then 3 else 2
    | none => 0
  let t : TrapInfo :=
    { cause := 0x0A, detail := BitVec.ofNat 32 (natBits st.toNat 2 0 + natBits st.toNat 6 4 * 16 + boolW out 7),
      slot := 2, pcb := w.pcb, seq := w.bseq, once := some (gq, st, tr2) }
  let s := s.landEverything
  let mine := s.core.dueTrap t == t
  (s.setOnce 1 { s.once 1 with trapped := mine }).takeTrap t

/-- Bytes of a report record as they are when its outcome is read: loads of the reader find no older ones (spec/12 R334). -/
def State.sawReport (s : State) (n : Nat) (rpt : Word) : State :=
  if rpt = 0 then s
  else match s.vaddrs s.acc .rd .copy rpt (2 ^ 61) n 0 with
    | .ok ps => { s with core := { s.core with lastWr := lastPut s.core.lastWr ps s.wseq } }
    | .error _ => s

/-- Hand results to the bundle that issued the agreement: registers, once record, log, and AGFAIL of the trapping form. `soon`
while that bundle's issue is under way; `out` marks the case of spec/01 R23. -/
def State.agDeliver (s : State) (w : AgWait) (gq st : Word) (even : Bool) (soon : Bool := false) (out : Bool := false) : State :=
  let pair := w.gqPhys.map fun _ => even
  let c := if soon then s.core.agSoon gq w.gqPhys even else s.core.agWrite gq w.gqPhys even
  let s := { s with core := { c with agw := none } }
  let s := (s.setOnce 1 (onceOf gq st pair)).agLog gq st pair
  if w.trapping && agFails st then s.agFail w gq st pair out else s

def rptSize (n : Nat) : Nat := (64 + 8 * n + 63) / 64 * 64

/-! ### Issue -/

/-- Where a membership's member contributes next: the count of its contributions, else the member array's SEQ. -/
def State.nextSeq (s : State) (g m : Nat) : Nat :=
  match s.mseq.find? fun p => p.1 == (g, m) with
  | some p => p.2
  | none => s.memSeq g m

def State.setSeq (s : State) (g m n : Nat) : State :=
  { s with mseq := ((g, m), n % 2 ^ 32) :: s.mseq.filter fun p => p.1 != (g, m) }

/-- The member's device finds the group's home absent: spec/11 R294. -/
def State.homeAbsent (s : State) (g : Nat) : Bool :=
  s.absent.contains g ||
  (s.gHome g != s.device &&
    (rdNat s.mem ((s.dget 0 offFABBASE).toNat + 16 * s.gHome g) 16 == 0 || s.lost.contains (s.gHome g)))

/-- No Chimney's access table grants the running task agreement traffic to the group's home: its own contribution is refused, no other
member's (spec/18 R352, log 91). -/
def State.homeDenied (s : State) (g : Nat) : Bool :=
  s.gHome g != s.device && [0, 1].all fun w => !s.chimneyGrants s.acc w 1 (s.gHome g)

/-- A path to another device is up: a Chimney of a die that is not fenced, with its link (spec/18 R351, spec/21 R417). -/
def State.pathUp (s : State) : Bool := (List.range 16).any fun i => s.links.getLsbD i && !s.fenced (i / 2)

/-- The Chimneys of a fenced die send no contribution to another device: its members are lost (spec/18 R351, log 91). -/
def State.homeShut (s : State) (g : Nat) : Bool := s.gHome g != s.device && s.fenced (keyDie s.here)

/-- The running task's membership, none in a handler. -/
def State.membership (s : State) (mb : Fin 4) : Option (Nat × Nat) :=
  if s.core.phase == .handler then none
  else match s.curTask with
    | some t => if t.membValid mb.val then some (t.memb mb.val % 256, t.midx mb.val) else none
    | none => none

def State.agWaitOf (s : State) (a : AgArgs) (trapping : Bool) (g m seq : Nat) (hint : Option Bool) : AgWait :=
  let l := s.core.live
  { g := g, m := m, mb := a.mb.val, seq := seq,
    gqPhys := a.pr.map fun p => (physP l (pairEven p), physP l (pairOdd p)),
    trapping := trapping, hint := hint, since := s.tick, pcb := s.core.iss.pcb, bseq := s.core.seq, on := true }

/-- An outcome that needs no home: delivered at issue. -/
def State.agLocal (s : State) (a : AgArgs) (trapping : Bool) (g m seq : Nat) (out23 : Bool) : State :=
  let o := lostOut seq
  let w := s.agWaitOf a trapping g m seq none
  let st := o.status
  let pair := w.gqPhys.map fun _ => false
  let s := match s.core.task with
    | some id => if out23 then s else s.setAgStat id a.mb.val st 0
    | none => s
  let s := { s with core := s.core.agSoon 0 w.gqPhys false }
  let s := (s.setOnce 1 (onceOf 0 st pair)).agLog 0 st pair
  if trapping then s.agFail w 0 st pair out23 else s

/-- An outcome from the once record: the bundle that issues again takes it, and an AGFAIL not raised before is (spec/11 R290,
R291). -/
def State.agAgain (s : State) (a : AgArgs) (trapping : Bool) (r : OnceRec) : State :=
  let w := s.agWaitOf a trapping 0 0 0 none
  let s := { s with core := s.core.agSoon r.val w.gqPhys (r.pair.getD false) }
  let s := if r.fresh then (s.setOnce 1 { r with fresh := false }).agLog r.val r.aux r.pair else s
  let s := match s.membership a.mb, s.curTask with
    | some (g, _), some t => s.sawReport (rptSize (s.gNmem g)) t.ag[a.mb].sel2
    | _, _ => s
  if trapping && agFails r.aux && !r.trapped then s.agFail w r.val r.aux r.pair false else s

/-- The contribution leaves: spec/01 R24, R25, spec/11 R284, R294. -/
def State.agree (s : State) (a : AgArgs) (trapping : Bool) (hint : Option Bool) : Res :=
  let v := s.src .y a.v
  let r := s.once 1
  if r.done then
    if r.wait then
      .next { s with core := { s.core with agw := s.core.agw.map fun w =>
        { w with on := true, hint := none, gqPhys := (s.agWaitOf a trapping w.g w.m w.seq none).gqPhys, trapping := trapping,
                 pcb := s.core.iss.pcb, bseq := s.core.seq } } }
    else .next (s.agAgain a trapping r)
  else
    let mm := s.membership a.mb
    if s.repMode = 2 then
      match s.replayed 2 with
      | none => .next s.diverge
      | some (e, s1) =>
        let w := s1.agWaitOf a trapping (mm.map (·.1) |>.getD 0) (mm.map (·.2) |>.getD 0) 0 none
        let s2 := match s1.core.task with
          | some id => if mm.isNone then s1 else s1.setAgStat id a.mb.val e.value 0
          | none => s1
        .next (s2.agDeliver w e.aux e.value (decide (e.pair % 2 = 1)) true mm.isNone)
    else match mm with
      | none => .next (s.agLocal a trapping 0 0 0 true)
      | some (g, m) =>
        let n := s.nextSeq g m
        if !s.gValid g then .next (s.agLocal a trapping g m n false)
        else if s.homeShut g || (!s.homeAbsent g && s.homeDenied g) then .next ((s.setSeq g m (n + 1)).agLocal a trapping g m n false)
        else if s.homeAbsent g then
          .next (({ s with absent := if s.absent.contains g then s.absent else g :: s.absent }.setSeq g m (n + 1)).agLocal
            a trapping g m n false)
        else
          let t : Int := if a.tc = 0 then 0 else (v.extractLsb' 32 32).toInt
          let c : Contrib := { seq := n, site := a.site, cmb := a.cmb, tc := a.tc, t := t, v := (v.extractLsb' 0 32).toInt }
          let s1 := s.setSeq g m (n + 1)
          let s2 := { s1 with agMail := s1.agMail ++ [(g, m, c)] }
          let s3 := s2.setOnce 1 { done := true, wait := true }
          .next { s3 with core := { s3.core with agw := some (s.agWaitOf a trapping g m n hint), runAhead := hint.isSome } }

def execAgree (a : AgArgs) (s : State) : Res := s.agree a false none
def execAgreep (a : AgArgs) (hint : Bool) (s : State) : Res := s.agree a false (some hint)
def execAgreeT (a : AgArgs) (s : State) : Res := s.agree a true none

/-- Counts of present, departed and lost members. -/
def State.memCounts (s : State) (g : Nat) : Nat × Nat × Nat :=
  (List.range (s.gNmem g)).foldl (fun p m =>
    match s.memState g m with
    | 0 => (p.1 + 1, p.2.1, p.2.2)
    | 1 => (p.1, p.2.1 + 1, p.2.2)
    | _ => (p.1, p.2.1, p.2.2 + 1)) (0, 0, 0)

def execAgst (d : XReg) (mb : Fin 4) (sel : Fin 4) (s : State) : Res :=
  let v : Word := match s.membership mb with
    | none => -1
    | some (g, m) =>
      let st := match s.curTask with
        | some t => t.ag[mb]
        | none => {}
      match sel with
      | 0 => st.sel0
      | 1 => if s.gValid g then BitVec.ofNat 64 (s.nextSeq g m) else -1
      | 2 => st.sel2
      | 3 =>
        if s.gValid g then
          let p := s.memCounts g
          BitVec.ofNat 64 (p.1 + p.2.1 * 2 ^ 17 + p.2.2 * 2 ^ 34)
        else -1
  .next (s.deliver (some d) v none none)

/-! ### The home unit (spec/11 R287 to R289, R293) -/

/-- A context in which a group's report area is written: that of a local task of the group, or of the last that ran here (log 53). -/
def State.rptAcc (s : State) (g : Nat) : Option Acc :=
  match s.tasks.find? fun t => [0, 1, 2, 3].any fun k => t.membValid k && t.memb k % 256 == g with
  | some t => some (s.ctxAcc (t.die * 128) t.ctx true)
  | none => (s.grpCtx.find? fun p => p.1 == g).map fun p => s.ctxAcc (p.2.1 * 128) p.2.2 true

def State.rptAddr (s : State) (g seq : Nat) : Word :=
  s.gRpt g + BitVec.ofNat 64 (rptSize (s.gNmem g) * (seq % max 1 (s.gRcnt g)))

/-- MEMi of a report: the site contributed and the state. A member that contributed counts as such, though it departed or was lost before the
decision: the model's choice (log 120). -/
def State.memWord (s : State) (h : AgHome) (m : Nat) : Nat :=
  match h.contr.find? fun p => p.1 == m with
  | some p => p.2.2.toNat
  | none => (match s.memState h.g m with
    | 0 => 1
    | 1 => 2
    | _ => 3) * 2 ^ 32

/-- The record of a decision. DSITE of a LOST one, which has no decided key (R288), is the first contribution's SITE: the model's choice (log
120). -/
def State.rptBytes (s : State) (h : AgHome) (o : AgOut) : List Byte :=
  let n := s.gNmem h.g
  let site := if o.decided = 2 then 0 else match h.key with
    | some k => k.1.toNat
    | none => 0
  leBytes 8 (h.seq % 2 ^ 32) ++ leBytes 4 o.decided ++ leBytes 4 n ++ leBytes 4 site ++
    leBytes 4 (if o.decided = 0 then (o.c % 2 ^ 32).toNat else 0) ++ leBytes 8 h.t0 ++ leBytes 8 s.tick ++ leBytes 24 0 ++
    (List.range n).flatMap fun m => leBytes 8 (s.memWord h m)

/-- Write a report record's bytes in this device's area; whether they stand there. A home that no member ever ran on has no context to write
its own in, and the copies on the members' devices are all there is (log 53). -/
def State.writeReport (s : State) (g : Nat) (rpt : Word) (bs : List Byte) : State × Bool :=
  match s.rptAcc g with
  | none => (s, false)
  | some a =>
    match s.vaddrs a .wr .copy rpt (2 ^ 61) bs.length 0 with
    | .ok ps => (s.putAt ps bs, true)
    | .error _ => (s, false)

/-- Other devices that hold a member and can be reached: each is sent the record (spec/15 R336). -/
def State.copyDevices (s : State) (g : Nat) : List Nat :=
  (((List.range (s.gNmem g)).filterMap fun m =>
    let w := s.memWhere g m
    if w.testBit 63 then some (natBits w 11 0) else none).filter fun d =>
      d != s.device && s.pathUp && s.fabEntry d != 0 && !s.lost.contains d).eraseDups

/-- Members that are departed or lost, with their states. -/
def State.gone (s : State) (g : Nat) : List (Nat × Nat) :=
  ((List.range (s.gNmem g)).map fun m => (m, s.memState g m)).filter fun p => p.2 != 0

def State.putHome (s : State) (h : AgHome) : State :=
  { s with homes := s.homes.map fun x => if x.g == h.g && x.seq == h.seq then h else x }

/-- Address of a record as agst sel 2 names it to a member: 0 where its device holds none, as one that is sent no copy (spec/15 R336). -/
def State.rptFor (s : State) (g m : Nat) (copies : List Nat) (rpt : Word) : Word :=
  let d := natBits (s.memWhere g m) 11 0
  if d = s.device || copies.contains d then rpt else 0

/-- Decide a sequence number, as the group stands in `v`: outcome code, over the contributions given, with the members missing. Its record
goes to the members' devices whether or not this device's own copy could be written (spec/15 R336). -/
def State.decideIn (v s : State) (h : AgHome) (code : Nat) (contribs : List (Nat × Int × BitVec 32)) (missing : Bool) : State :=
  let r := match h.key with
    | some k => combine k.2.1 k.2.2.1 k.2.2.2 (contribs.map fun p : Nat × Int × BitVec 32 => p.2.1)
    | none => (0, false, false)
  let o : AgOut := { own := code, decided := code, c := if code = 0 then r.1 else 0, cond := code == 0 && r.2.1,
                     missing := missing, clamped := code == 0 && r.2.2, ncontr := contribs.length, seq := h.seq % 2 ^ 32, report := 0,
                     states := v.gone h.g }
  let told := (code != 0 || missing) && v.gRpt h.g != 0
  let bs := v.rptBytes h o
  let rpt := v.rptAddr h.g (h.seq % 2 ^ 32)
  let p := if told then s.writeReport h.g rpt bs else (s, false)
  let devs := if told then v.copyDevices h.g else []
  let o := { o with report := if told then rpt else 0 }
  p.1.putHome { h with decided := some o, td := s.tick, copies := if told then devs.map fun d => (d, bs) else h.copies, wrote := p.2
                       todo := h.todo ++ h.contr.map fun q => (q.1, { o with report := v.rptFor h.g q.1 devs o.report }) }

def State.decide' (s : State) (h : AgHome) (code : Nat) (contribs : List (Nat × Int × BitVec 32)) (missing : Bool) : State :=
  State.decideIn s s h code contribs missing

def State.presents (s : State) (g : Nat) : List Nat := (List.range (s.gNmem g)).filter fun m => s.memState g m == 0

/-- Effective quorum. -/
def State.qe (s : State) (g : Nat) : Nat :=
  max 1 (s.gQuorum g - ((List.range (s.gNmem g)).filter fun m => s.memState g m == 1).length)

/-- Apply the decision rules of spec/11 R287 to an open sequence number. -/
def State.evaluate (s : State) (h : AgHome) : State :=
  if h.decided.isSome then s
  else
    let ps := s.presents h.g
    let has := fun m => h.contr.any fun p => p.1 == m
    if ps.length < s.qe h.g then s.decide' h 3 h.contr false
    else if !h.contr.isEmpty && ps.all has then s.decide' h 0 h.contr false
    else if h.expired then
      if s.gStrict h.g then s.decide' h 4 h.contr false
      else
        let contribs := h.contr.filter fun p => ps.contains p.1
        if s.qe h.g ≤ contribs.length then s.decide' h 0 contribs true else s
    else s

/-- Tick at which the late limit of an open sequence number expires. -/
def State.limitAt (s : State) (h : AgHome) : Nat := h.t0 + s.gLate h.g

/-- A late limit that has not expired and does before a tick. -/
def State.limitBy (s : State) (lim : Nat) (h : AgHome) : Bool :=
  s.gLate h.g != 0 && !h.contr.isEmpty && h.decided.isNone && !h.expired && decide (s.limitAt h < lim)

/-- The late limit has come, and everything else that reached the home unit in its tick came before it (spec/11 R287, same tick). -/
def State.limitPast (s : State) (h : AgHome) : Bool := s.limitBy s.tick h

/-- The late limit expires, at its tick (spec/11 R287). -/
def State.expire (s : State) (h : AgHome) : State :=
  if s.limitPast h then
    let h' := { h with expired := true }
    { (State.putHome { s with tick := s.limitAt h } h').evaluate h' with tick := s.tick }
  else s

/-- Expiries that came before what now reaches the home unit. -/
def State.expireAll (s : State) (g : Nat) : State := (s.homes.filter fun h => h.g == g).foldl (fun s h => s.expire h) s

/-- Expiries before tick `lim`, to which time passes: each the last in its tick, and none missed. -/
def State.expireTo (s : State) (lim : Nat) : State :=
  (s.homes.filter fun h => s.limitBy lim h).foldl (fun s h => { State.expire { s with tick := lim } h with tick := s.tick }) s

/-- Apply the rules to every open sequence number of a group, after a loss or a departure. -/
def State.evaluateAll (s : State) (g : Nat) : State :=
  (s.homes.filter fun h => h.g == g && h.decided.isNone && decide (h.seq < 2 ^ 32)).foldl (fun s h => s.evaluate h) s

/-- A late member's MEMi is rewritten in the record at an address (spec/11 R293, spec/15 R336). -/
def State.lateReport (s : State) (g : Nat) (rpt : Word) (m : Nat) (site : BitVec 32) : State :=
  match s.rptAcc g with
  | some a =>
    if rpt = 0 then s
    else match s.vaddrs a .wr .copy (rpt + BitVec.ofNat 64 (64 + 8 * m)) (2 ^ 61) 8 0 with
      | .ok ps => s.putAt ps (leBytes 8 (site.toNat + 4 * 2 ^ 32))
      | .error _ => s
  | none => s

/-- A late contribution is answered, after its MEMi has been rewritten in the record (spec/11 R288, R293, spec/15 R336). -/
def State.answerLate (s : State) (h : AgHome) (o : AgOut) (m : Nat) (site : BitVec 32) : State :=
  let s1 := if h.wrote then s.lateReport h.g o.report m site else s
  let a := { o with late := some site, states := s.gone h.g, report := s.rptFor h.g m (h.copies.map (·.1)) o.report }
  s1.putHome { h with todo := h.todo ++ [(m, a)], late := h.late ++ [(m, site)] }

/-- A lost or departed member is answered LOST, late where its sequence number has been decided, with that decision's outcome and number of
contributors in its status (spec/11 R292); where that is not yet open it opens none (spec/11 R289, spec/01 R20). -/
def State.answerLost (s : State) (g m seq : Nat) (site : BitVec 32) : State :=
  let o : AgOut := { lostOut seq with states := s.gone g }
  match s.homes.find? fun h => h.g == g && h.seq == seq with
  | some h => match h.decided with
    | some d => s.answerLate h { d with own := 3 } m site
    | none => s.putHome { h with todo := h.todo ++ [(m, o)] }
  | none =>
    { s with homes := s.homes ++ [{ g := g, seq := s.pastSeqs g + seq, key := none, contr := [], t0 := s.tick, td := s.tick,
                                    expired := false, decided := some o, todo := [(m, o)], late := [], copies := [] }] }

/-- A loss, a departure or an expiry has reached a group's home: no contribution comes after it in its tick (spec/11 R287). -/
def State.tookLast (s : State) (g : Nat) : State := { s with goneAt := (g, s.tick) :: s.goneAt.filter fun p => p.1 != g }

/-- A member departs: as its task retires here, or as its device tells this home (spec/01 R20). -/
def State.departHome (s : State) (g m : Nat) : State :=
  if s.gValid g && s.gHome g == s.device && s.memState g m == 0 then
    (((s.expireAll g).setMemState g m 1).evaluateAll g).tookLast g
  else s

/-- A contribution at its home. -/
def State.contribute (s : State) (g m : Nat) (c : Contrib) : State :=
  let s := (s.expireAll g).setMemSeq g m (c.seq + 1)
  if s.memState g m != 0 then s.answerLost g m c.seq c.site else
  let s := if s.homes.any fun h => h.g == g && h.seq == c.seq then s
    else { s with homes := s.homes ++ [AgHome.fresh g c.seq s.tick c.key] }
  match s.homes.find? fun h => h.g == g && h.seq == c.seq with
  | none => s
  | some h =>
    match h.decided with
    | some o =>
      let reply := fun own => s.answerLate h { o with own := own } m c.site
      if o.decided = 3 then reply 3 else if o.decided = 2 then reply 2 else if h.key = some c.key then reply 1 else reply 2
    | none =>
      let h' := { h with contr := h.contr ++ [(m, c.v, c.site)] }
      let s := s.putHome h'
      if (s.presents g).length < s.qe g then s.evaluate h'
      else if h.key = some c.key then s.evaluate h' else s.decide' h' 2 h'.contr false

/-- A member bound to this device. -/
def State.memberHere (s : State) (g m : Nat) : Bool :=
  (s.memWhere g m).testBit 63 && natBits (s.memWhere g m) 11 0 == s.device

/-- A contribution, or word of a departure, arrives at this module's package agreement unit. Those of local members come from
`agMail`, each member's in sequence order; those of remote members from outside, while a path is up. In one tick contributions come
before losses and departures (spec/11 R287). -/
def execAgreementContributionArrival (g m : Nat) (c : Contrib) (s : State) : Res :=
  if s.gHome g != s.device || !s.gValid g || s.goneAt.contains (g, s.tick) then .next s
  else
    match s.agMail.find? fun p => p.1 == g && p.2.1 == m with
    | some p =>
      if p.2.2 = c then .next ({ s with agMail := s.agMail.erase p }.contribute g m c) else .next s
    | none => if s.memberHere g m || !s.pathUp then .next s else .next (if c.leave then s.departHome g m else s.contribute g m c)

/-- The late limit of sequence number n has expired: in a tick before this one, after everything else that reached the home unit in it. -/
def execLateLimitExpiry (g n : Nat) (s : State) : Res :=
  match s.homes.find? fun h => h.g == g && h.seq == n with
  | none => .next s
  | some h => .next (s.expire h)

/-- System software writes VALID 0: the home decides every open sequence number LOST (spec/19 R376), as the group stood when the entry read
so; a contribution still under way is answered LOST too, and the group starts afresh when it is re-formed (log 71). -/
def execGroupInvalidate (g : Nat) (s : State) : Res :=
  if s.gValid g && !(s.invSeen.any fun p => p.1 == g) then .next s
  else
    let s1 := if s.invSeen.any fun p => p.1 == g then s else s.setApart g
    let n := ((s1.invSeen.find? fun p => p.1 == g).map (·.2)).getD s1.wseq
    let v : State := { s1 with mem := s1.memBack n }
    let s2 := (s1.homes.filter fun h => h.g == g && h.decided.isNone && decide (2 ^ 32 ≤ h.seq)).foldl (fun s h => State.decideIn v s h 3 h.contr false) s1
    .next { s2 with invSeen := s2.invSeen.filter fun p => p.1 != g }

/-- A group whose entry reads VALID 0 still has open state, or what it had open is set apart. -/
def State.toInvalidate (s : State) (g : Nat) : Bool :=
  (s.openGroups.contains g && !s.gValid g) || s.invSeen.any fun p => p.1 == g

/-- The next group to be decided LOST: at once, as its entry reads VALID 0. -/
def State.invalidated (s : State) : Option Nat := (s.invSeen.map (·.1) ++ s.openGroups).find? s.toInvalidate

/-! ### Losses and departures (spec/11 R289, spec/01 R20) -/

/-- Every present member that satisfies `p` (device, die) of every group homed here is lost. -/
def State.loseMembers (s : State) (p : Nat → Nat → Bool) : State :=
  (List.range 256).foldl (fun s g =>
    if !s.gValid g || s.gHome g != s.device then s
    else
      let ms := (s.presents g).filter fun m =>
        let w := s.memWhere g m
        w.testBit 63 && p (natBits w 11 0) (natBits w 14 12)
      if ms.isEmpty then s
      else
        let s := s.expireAll g
        ((ms.foldl (fun s m => s.setMemState g m 2) s).evaluateAll g).tookLast g) s

/-- A member departs as its task retires: no task holds its index any more (spec/19 R374), and the home hears of it, by a message
where it is another device. -/
def State.depart (s : State) (g m : Nat) : State :=
  let s1 := s.unbind g m
  if !s.gValid g then s1
  else if s.gHome g == s.device then s1.departHome g m
  else
    { s1 with agMail := s1.agMail ++ [(g, m, { seq := s.nextSeq g m, site := 0, cmb := .all, tc := 0, t := 0, v := 0,
                                                    leave := true })] }

/-! ### Delivery (spec/11 R290, spec/01 R25 to R28) -/

def AgWait.matches (w : AgWait) (g m seq : Nat) : Bool := w.g == g && w.m == m && w.seq == seq

/-- Deliver to the core in focus. While its bundle is not on the core (a rollback, a handler), only the once record takes
the outcome. Where no arm is decided the pair stands at (0, 1), and the arm whose cond is 0 counts as decided: the model's choice (log
108). -/
def State.agArrive (s : State) (w : AgWait) (o : AgOut) : State :=
  let s := match s.core.task with
    | some id => s.setAgStat id w.mb o.status o.report
    | none => s
  let pair := w.gqPhys.map fun _ => o.even
  let stored := onceOf o.gq o.status pair true
  if w.on && s.core.phase == .run then
    if s.core.runAhead && w.hint != some o.even then
      -- the other arm: the bundle issues again and takes the outcome from the once record
      let s := { s with core := { s.core with agw := none, once := s.core.once.set 1 stored } }
      s.rollback
    else
      let held := s.core.heldTrap
      let s := { s with core := { s.core with runAhead := false, heldTrap := none } }
      let s := (s.sawReport (rptSize (s.gNmem w.g)) o.report).agDeliver w o.gq o.status o.even
      match held with
      | some t => s.takeTrap t
      | none => s
  else { s with core := { s.core with agw := none, once := s.core.once.set 1 stored } }

/-- Deliver to a task whose state its die holds. -/
def State.agHeld (s : State) (t : Task) (h : HeldSt) (w : AgWait) (o : AgOut) : State :=
  let pair := w.gqPhys.map fun _ => o.even
  let h' := { h with agw := none, once := h.once.set 1 (onceOf o.gq o.status pair true) }
  let s := s.setAgStat t.id w.mb o.status o.report
  let s := { s with tasks := s.tasks.map fun u : Task => if u.id == t.id then { u with held := some h' } else u }
  s.wake fun x => match x with
    | .agree g m n => g == w.g && m == w.m && n == w.seq
    | _ => false

/-- What an outcome from another device's home brings: the member states it tells, and a late member's MEMi in this device's copy,
before the answer (spec/15 R336). -/
def State.fromHome (s : State) (g m : Nat) (o : AgOut) : State :=
  let s1 := o.states.foldl (fun s p => s.setMemState g p.1 p.2) s
  match o.late with
  | some site => s1.lateReport g o.report m site
  | none => s1

/-- This device's copy of a record: whether it was written, once it has come. -/
def State.copyOfRpt (s : State) (g n : Nat) : Option Bool := (s.rptGot.find? fun p => p.1 == (g, n)).map (·.2)

/-- The outcome stands in the list of a home record of this module, or comes from another device's home, after this device's copy of
the record it reports. -/
def State.outcomeFrom (s : State) (g m : Nat) (o : AgOut) : Option (State × AgOut) :=
  match s.homes.find? fun h => h.g == g && h.todo.contains (m, o) with
  | some h => some (s.putHome { h with todo := h.todo.erase (m, o) }, { o with report := if h.wrote then o.report else 0 })
  | none =>
    if s.gHome g = s.device || !s.pathUp then none
    else if o.report = 0 then some (s.fromHome g m o, o)
    else match s.copyOfRpt g o.seq with
      | none => none
      | some w =>
        let o := { o with report := if w then o.report else 0 }
        some (s.fromHome g m o, o)

/-- An outcome reaches a member: on its core, or held with its task. -/
def execAgreementOutcomeDelivery (g m : Nat) (o : AgOut) (s : State) : Res :=
  match s.outcomeFrom g m o with
  | none => .next s
  | some (s1, o) =>
    let on := fun k => match (s1.coreOf k).agw with
      | some w => w.matches g m o.seq
      | none => false
    match s1.keys.find? on with
    | some k =>
      let s2 := s1.focus k
      match s2.core.agw with
      | some w => .next ((s2.agArrive w o).focus s.here)
      | none => .next s1
    | none =>
      let off := s1.tasks.findSome? fun t => match t.held with
        | some h => match h.agw with
          | some w => if w.matches g m o.seq then some (t, h, w) else none
          | none => none
        | none => none
      match off with
      | some (t, h, w) => .next (s1.agHeld t h w o)
      | none => .next s1

/-- The master that writes a group's area in a context, which a member here runs in or the last one did. -/
def State.rptAccIn (s : State) (g ctx : Nat) : Option Acc :=
  match s.tasks.find? fun t => t.ctx == ctx && [0, 1, 2, 3].any fun k => t.membValid k && t.memb k % 256 == g with
  | some t => some (s.ctxAcc (t.die * 128) ctx true)
  | none => (s.grpCtx.find? fun p => p.1 == g && p.2.2 == ctx).map fun p => s.ctxAcc (p.2.1 * 128) ctx true

/-- A member device writes its copy of a report record in a member's context (spec/15 R336). -/
def execReportCopyWrite (g n ctx : Nat) (data : List Byte) (s : State) : Res :=
  let got := fun (s : State) b => { s with rptGot := ((g, n), b) :: s.rptGot.filter fun p => p.1 != (g, n) }
  if !s.pathUp then .next s
  else match s.rptAccIn g ctx with
    -- no context to write it in, or no area: its members read address 0 (log 53)
    | none => .next (got s false)
    | some a =>
      if s.gRpt g = 0 then .next (got s false)
      else match s.vaddrs a .wr .copy (s.rptAddr g n) (2 ^ 61) data.length 0 with
        | .ok ps => .next (got (s.putAt ps data) true)
        | .error _ => .next (got s false)

end Sys2Proof.Machine
end

