-- ==== Sys2Proof/Machine/Special.lean ====
section
/-!
DEFINITION. The special functions of spec/02 R65 to R67: each f32 input gives the exact value rounded once to f32, to
nearest-even. Transcendental values are enclosed between two fixed-point numbers of 320 fraction bits, and both round to one
code (log 30).
-/
namespace Sys2Proof.Machine

/-- Fraction bits of the enclosures. -/
def fxP : Nat := 320
def fxOne : Nat := 2 ^ fxP

/-- An enclosure: lo × 2^e ≤ value ≤ hi × 2^e. -/
structure Encl where
  lo : Nat
  hi : Nat
  e  : Int
deriving DecidableEq, Repr

/-- Taylor sum of e^y for a fixed-point y in [0, 1), rounded down; the true value exceeds it by less than 2^10
units. -/
def expTaylor (y : Nat) : Nat → Nat → Nat → Nat → Nat
  | 0, _, _, acc => acc
  | f + 1, k, t, acc => expTaylor y f (k + 1) (t * y / fxOne / (k + 1)) (acc + t)

def fxExp (y : Nat) : Nat := expTaylor y 100 0 fxOne 0

/-- atanh-type sum: Σ z^(2i+1)/(2i+1) for fixed-point z ≤ 1/3, rounded down. -/
def atanhSum (z2 : Nat) : Nat → Nat → Nat → Nat → Nat
  | 0, _, _, acc => acc
  | f + 1, k, t, acc => atanhSum z2 f (k + 2) (t * z2 / fxOne) (acc + t / k)

/-- ln(a/b) for 1 ≤ a/b < 2, rounded down; the true value exceeds it by less than 2^10 units. -/
def fxLn (a b : Nat) : Nat :=
  let z := (a - b) * fxOne / (a + b)
  2 * atanhSum (z * z / fxOne) 120 1 z 0

/-- ln 2. -/
def fxLn2 : Nat := fxLn 2 1 + 0

/-- Units of error every enclosure allows. -/
def fxErr : Nat := 2 ^ 24

/-- Enclosure of 2^(n/d) for n/d ≥ 0 given as fraction bits: the exponent splits off, the rest is e^(f ln 2). -/
def enclExp2 (neg : Bool) (n : Nat) (e : Int) : Encl :=
  -- x = ± n × 2^e; k = ⌊x⌋, f = x − k in fixed point
  let mag := shl2 n (e + fxP)
  let k : Int := if neg then -((mag + fxOne - 1) / fxOne : Nat) else (mag / fxOne : Nat)
  let f : Nat := if neg then ((-k).toNat * fxOne - mag) else mag % fxOne
  let v := fxExp (f * fxLn2 / fxOne)
  { lo := v - fxErr, hi := v + fxErr, e := k - fxP }

/-- Enclosure of e^(−t) for t = n × 2^e ≥ 0, as m × 2^k with m in [1, 2): through 2^(−t/ln 2). -/
def enclExpNeg (n : Nat) (e : Int) : Encl :=
  let t := shl2 n (e + fxP)
  let x := t * fxOne / fxLn2
  let k : Nat := (x + fxOne - 1) / fxOne
  let f := k * fxOne - x
  let v := fxExp (f * fxLn2 / fxOne)
  { lo := v - fxErr * 2 ^ 12, hi := v + fxErr * 2 ^ 12, e := -(k : Int) - fxP }

/-- Round an enclosure to f32: the code of its lower end, which is that of its upper end too (log 30). -/
def enclRound (s : Bool) (lo : Nat) (lod : Nat) (hi : Nat) (hid : Nat) (e : Int) : Nat × Fl :=
  let a := fmtF32.round {} s lo lod e true
  let b := fmtF32.round {} s hi hid e true
  (a.1, a.2 ||| b.2)

def spRcp (x : Nat) : Nat × Fl :=
  match fmtF32.val x with
  | .nan g => (fmtF32.qnan, flIf g fNV)
  | .inf s => (fmtF32.zero s, 0)
  | .fin s n e =>
    if n = 0 then (fmtF32.inf s, fDZ) else fmtF32.round { sat := .ovfi } s 1 n (-e) false

def spRsq (x : Nat) : Nat × Fl :=
  match fmtF32.val x with
  | .nan g => (fmtF32.qnan, flIf g fNV)
  | .inf s => if s then (fmtF32.qnan, fNV) else (0, 0)
  | .fin s n e =>
    if n = 0 then (fmtF32.inf s, fDZ)
    else if s then (fmtF32.qnan, fNV)
    else
      -- 1/√(n 2^e) = √(n 2^e) / (n 2^e)
      let r := sqrtParts n e 200
      fmtF32.round {} false r.1 n (r.2.1 - e) r.2.2

def spSqrt (x : Nat) : Nat × Fl := fmtF32.sqrt {} (fmtF32.val x)

def spExp2 (x : Nat) : Nat × Fl :=
  match fmtF32.val x with
  | .nan g => (fmtF32.qnan, flIf g fNV)
  | .inf s => if s then (0, 0) else (fmtF32.inf false, 0)
  | .fin s n e =>
    if n = 0 then (0x3F800000, 0)
    else if !s && decide (7 ≤ ilog2 n 1 e) then (fmtF32.inf false, fOF ||| fNX)
    else if s && decide (8 ≤ ilog2 n 1 e) then (0, fUF ||| fNX)
    else if s && fvLt false (.fin true n e) (.fin true 149 0) then (0, fUF ||| fNX)
    else if 0 ≤ e || n % 2 ^ (-e).toNat = 0 then
      let k : Int := sgn s (shl2 n e)
      fmtF32.round {} false 1 1 k false
    else
      let r := enclExp2 s n e
      enclRound false r.lo 1 r.hi 1 r.e

def spLog2 (x : Nat) : Nat × Fl :=
  match fmtF32.val x with
  | .nan g => (fmtF32.qnan, flIf g fNV)
  | .inf s => if s then (fmtF32.qnan, fNV) else (fmtF32.inf false, 0)
  | .fin s n e =>
    if n = 0 then (fmtF32.inf true, fDZ)
    else if s then (fmtF32.qnan, fNV)
    else
      let k := ilog2 n 1 e
      let top := 2 ^ n.log2
      if n = top then fmtF32.round {} (decide (k < 0)) k.natAbs 1 0 false
      else
        -- log2 x = k + ln(n/top)/ln 2
        let l := fxLn n top * fxOne / fxLn2
        let lo : Int := k * fxOne + (l : Int) - fxErr
        let hi : Int := k * fxOne + (l : Int) + fxErr
        if 0 ≤ lo then enclRound false lo.toNat 1 hi.toNat 1 (-(fxP : Int))
        else enclRound true (-hi).toNat 1 (-lo).toNat 1 (-(fxP : Int))

def spTanh (x : Nat) : Nat × Fl :=
  match fmtF32.val x with
  | .nan g => (fmtF32.qnan, flIf g fNV)
  | .inf s => (0x3F800000 + fmtF32.zero s, 0)
  | .fin s n e =>
    if n = 0 then (x % 2 ^ 32, 0)
    else if 5 ≤ ilog2 n 1 e then (0x3F800000 + fmtF32.zero s, fNX)
    else
      -- (1 − E)/(1 + E) with E = e^(−2|x|)
      let r := enclExpNeg n (e + 1)
      let elo := shl2 r.lo (r.e + fxP)
      let ehi := shl2 r.hi (r.e + fxP) + 1
      enclRound s (fxOne - ehi) (fxOne + ehi) (fxOne - elo) (fxOne + elo) 0

def spSigm (x : Nat) : Nat × Fl :=
  match fmtF32.val x with
  | .nan g => (fmtF32.qnan, flIf g fNV)
  | .inf s => (if s then 0 else 0x3F800000, 0)
  | .fin s n e =>
    if n = 0 then (0x3F000000, 0)
    else if 8 ≤ ilog2 n 1 e then (if s then 0 else 0x3F800000, fNX ||| flIf s fUF)
    else
      let r := enclExpNeg n e
      -- E = m 2^e with e ≤ −fxP: 1/(1 + E), or E/(1 + E) for x < 0
      let one := 2 ^ (-r.e).toNat
      if s then enclRound false r.lo (one + r.lo) r.hi (one + r.hi) 0
      else enclRound false one (one + r.hi) one (one + r.lo) 0

/-- Special functions in opcode order, 0 `vrcp` to 6 `vsigm` (spec/08 R218). -/
def special (k : Nat) (x : Nat) : Nat × Fl :=
  match k with
  | 0 => spRcp x
  | 1 => spRsq x
  | 2 => spSqrt x
  | 3 => spExp2 x
  | 4 => spLog2 x
  | 5 => spTanh x
  | _ => spSigm x

end Sys2Proof.Machine
end

