-- ==== Sys2Proof/Machine/Rat32.lean ====
section
/-!
DEFINITION. The exact rationals of Clove: the Q32 format, its neighbours and rounding (spec/02 R68 to R73).
-/
namespace Sys2Proof.Machine

/-- A Q32 datum's value: NaR, an infinity, or n/d with sign. -/
inductive QV where
  | nar
  | inf (s : Bool)
  | rat (n : Int) (d : Nat)
deriving DecidableEq, Repr

def bitLen (n : Nat) : Nat := if n = 0 then 0 else n.log2 + 1

/-- Value of a code: spec/02 R68, R69. -/
def qVal (c : Nat) : QV :=
  let s := decide (c / 2 ^ 31 % 2 = 1)
  let b := c / 2 ^ 26 % 32
  if 26 < b then .nar
  else
    let n := c / 2 ^ (26 - b) % 2 ^ b
    let d := c % 2 ^ (26 - b)
    if d = 0 then (if n = 1 then .inf s else .nar)
    else .rat (sgn s n) d

def qNaR : Nat := 0
def qInf (s : Bool) : Nat := if s then 0x86000000 else 0x06000000

/-- Canonical code of a representable n/d in lowest terms. -/
def qEnc (s : Bool) (n d : Nat) : Nat :=
  if n = 0 then 1
  else (if s then 2 ^ 31 else 0) + bitLen n * 2 ^ 26 + n * 2 ^ (26 - bitLen n) + d

/-! ### Neighbours: the walk of the Stern–Brocot tree within one split of the widths -/

/-- Largest k < 2^bits for which `ok k`, `ok` falling once. -/
def maxStep (ok : Nat → Bool) : Nat → Nat → Nat
  | 0, k => k
  | b + 1, k => maxStep ok b (if ok (k + 2 ^ b) then k + 2 ^ b else k)

/-- Fractions as pairs; `le a b` says a/b ≤ x for the value x looked for (never equal to a representable one). -/
def sbWalk (le : Nat → Nat → Bool) (nb db : Nat) : Nat → (Nat × Nat) → (Nat × Nat) → (Nat × Nat) × (Nat × Nat)
  | 0, lo, hi => (lo, hi)
  | fuel + 1, lo, hi =>
    let inb := fun (p q : Nat × Nat) (k : Nat) => decide (p.1 + k * q.1 ≤ nb) && decide (p.2 + k * q.2 ≤ db)
    let k := maxStep (fun k => inb lo hi k && le (lo.1 + k * hi.1) (lo.2 + k * hi.2)) 26 0
    let lo' := (lo.1 + k * hi.1, lo.2 + k * hi.2)
    let j := maxStep (fun k => inb hi lo' k && !le (hi.1 + k * lo'.1) (hi.2 + k * lo'.2)) 26 0
    let hi' := (hi.1 + j * lo'.1, hi.2 + j * lo'.2)
    if k = 0 && j = 0 then (lo, hi) else sbWalk le nb db fuel lo' hi'

def fracLt (a b : Nat × Nat) : Bool := decide (a.1 * b.2 < b.1 * a.2)

/-- The neighbours below and above x in the representable set (spec/02 R70), over every split b of the 26 bits. -/
def qNeighbours (le : Nat → Nat → Bool) : (Nat × Nat) × (Nat × Nat) :=
  (List.range 26).foldl (fun best b =>
    let p := sbWalk le (2 ^ (b + 1) - 1) (2 ^ (25 - b) - 1) 80 (0, 1) (1, 0)
    (if fracLt best.1 p.1 then p.1 else best.1, if fracLt p.2 best.2 then p.2 else best.2))
    ((0, 1), (1, 0))

/-- Round a positive value to one of its neighbours: spec/02 R71. `le` compares a fraction with it, `eq` says that a
fraction equals it. A tie between neighbours of one denominator goes to the larger magnitude (log 85). -/
def qPick (q : Qrnd) (s : Bool) (le eq : Nat → Nat → Bool) : Nat × Nat :=
  let p := qNeighbours le
  let lo := p.1
  let hi := p.2
  let smaller := if lo.2 < hi.2 then lo else hi
  match q with
  | .qz => lo
  | .qd => if s then hi else lo
  | .qu => if s then lo else hi
  | .qn =>
    let mn := lo.1 * hi.2 + hi.1 * lo.2
    let md := 2 * lo.2 * hi.2
    if eq mn md then smaller else if le mn md then hi else lo
  | .qm =>
    let mn := lo.1 + hi.1
    let md := lo.2 + hi.2
    if eq mn md then smaller else if le mn md then hi else lo

/-- Magnitude beyond 33,554,431: spec/02 R71. -/
def qOver (sat : Sat) (s : Bool) : Nat × Fl :=
  ((match sat with | .satf => qEnc s 33554431 1 | _ => qInf s), fQNX)

/-- Deliver the exact rational n/d (d > 0): spec/02 R70, R71. -/
def qRound (q : Qrnd) (sat : Sat) (n : Int) (d : Nat) : Nat × Fl :=
  let g := Nat.gcd n.natAbs d
  let a := n.natAbs / g
  let b := d / g
  let s := decide (n < 0)
  if a = 0 then (qEnc false 0 1, 0)
  else if bitLen a + bitLen b ≤ 26 then (qEnc s a b, 0)
  else if 33554431 * b < a then qOver sat s
  else
    let r := qPick q s (fun x y => decide (x * b ≤ a * y)) (fun x y => decide (x * b = a * y))
    (qEnc s r.1 r.2, fQNX)

/-! ### Operations (spec/06 R162, R163; spec/02 R72) -/

/-- Exact sum, delivered; the sum of two infinities of one sign is that infinity, without a flag (log 86). -/
def qAdd (q : Qrnd) (sat : Sat) : QV → QV → Nat × Fl
  | .nar, _ => (qNaR, 0)
  | _, .nar => (qNaR, 0)
  | .inf a, .inf b => if a == b then (qInf a, 0) else (qNaR, fNV)
  | .inf a, _ => (qInf a, 0)
  | _, .inf b => (qInf b, 0)
  | .rat n1 d1, .rat n2 d2 => qRound q sat (n1 * d2 + n2 * d1) (d1 * d2)

def QV.neg : QV → QV
  | .nar => .nar
  | .inf s => .inf !s
  | .rat n d => .rat (-n) d

/-- Exact product, or a special result with its flags; the product of two infinities is the signed infinity, without a flag
(log 86). -/
def qMulV : QV → QV → QV × Fl
  | .nar, _ => (.nar, 0)
  | _, .nar => (.nar, 0)
  | .inf a, .inf b => (.inf (a != b), 0)
  | .inf a, .rat n _ => if n = 0 then (.nar, fNV) else (.inf (a != decide (n < 0)), 0)
  | .rat n _, .inf b => if n = 0 then (.nar, fNV) else (.inf (b != decide (n < 0)), 0)
  | .rat n1 d1, .rat n2 d2 => (.rat (n1 * n2) (d1 * d2), 0)

def qDeliver (q : Qrnd) (sat : Sat) : QV → Nat × Fl
  | .nar => (qNaR, 0)
  | .inf s => (qInf s, 0)
  | .rat n d => qRound q sat n d

def qMul (q : Qrnd) (sat : Sat) (a b : QV) : Nat × Fl :=
  let p := qMulV a b
  let r := qDeliver q sat p.1
  (r.1, r.2 ||| p.2)

def qFma (q : Qrnd) (sat : Sat) (a b : QV) : QV → Nat × Fl
  | .nar => (qNaR, 0)
  | c =>
    let p := qMulV a b
    let r := qAdd q sat p.1 c
    (r.1, r.2 ||| p.2)

def qDiv (q : Qrnd) (sat : Sat) : QV → QV → Nat × Fl
  | .nar, _ => (qNaR, 0)
  | _, .nar => (qNaR, 0)
  | .inf _, .inf _ => (qNaR, fNV)
  | .inf a, .rat n _ => (qInf (a != decide (n < 0)), 0)
  | .rat _ _, .inf _ => (qEnc false 0 1, 0)
  | .rat n1 d1, .rat n2 d2 =>
    if n2 = 0 then (if n1 = 0 then (qNaR, fNV) else (qInf (decide (n1 < 0)), fQZD))
    else
      let n := n1 * d2 * (if n2 < 0 then -1 else 1)
      qRound q sat n (d1 * n2.natAbs)

/-- Square root: exact for the square of a representable value, else a neighbour of the true root. -/
def qSqrt (q : Qrnd) : QV → Nat × Fl
  | .nar => (qNaR, 0)
  | .inf s => if s then (qNaR, fNV) else (qInf false, 0)
  | .rat n d =>
    if n < 0 then (qNaR, fNV)
    else if n = 0 then (qEnc false 0 1, 0)
    else
      let g := Nat.gcd n.natAbs d
      let a := n.natAbs / g
      let b := d / g
      let ra := isqrt a
      let rb := isqrt b
      if ra * ra = a && rb * rb = b && decide (bitLen ra + bitLen rb ≤ 26) then (qEnc false ra rb, 0)
      else
        let r := qPick q false (fun x y => decide (x * x * b ≤ a * (y * y)))
          (fun x y => decide (x * x * b = a * (y * y)))
        (qEnc false r.1 r.2, fQNX)

/-- Order of two values that are not NaR. -/
def qLt : QV → QV → Bool
  | .inf a, .inf b => a && !b
  | .inf a, _ => a
  | _, .inf b => !b
  | .rat n1 d1, .rat n2 d2 => decide (n1 * d2 < n2 * d1)
  | _, _ => false

def QV.isNar : QV → Bool
  | .nar => true
  | _ => false

def qMinMax (wantMax : Bool) (a b : QV) : Nat :=
  if a.isNar || b.isNar then qNaR
  else
    let pick := if wantMax then (if qLt a b then b else a) else (if qLt b a then b else a)
    (qDeliver .qn .satf pick).1

def qToInt (t : ITy) (m : Rnd) : QV → Int × Fl
  | .nar => (0, fNV)
  | .inf s => (if s then t.lo else t.hi, fNV)
  | .rat n d =>
    let r := toInt t m (decide (n < 0)) n.natAbs d 0
    (r.1, r.2 &&& fNV)

/-- f32 to Q32: spec/02 R73. -/
def qFromF (q : Qrnd) (sat : Sat) : FV → Nat × Fl
  | .nan sig => (qNaR, flIf sig fNV)
  | .inf s => (qInf s, 0)
  | .fin s n e => if 0 ≤ e then qRound q sat (sgn s (n * 2 ^ e.toNat)) 1 else qRound q sat (sgn s n) (2 ^ (-e).toNat)

/-- Q32 to a float format: spec/02 R73. -/
def qToF (f : FFmt) (m : Rnd) : QV → Nat × Fl
  | .nar => (f.qnan, 0)
  | .inf s => (f.inf s, 0)
  | .rat n d => f.round m (decide (n < 0)) n.natAbs d 0 false

/-- Floor and ceiling with the special results of spec/06 R163. -/
def qFloor : QV → Int × Fl
  | .nar => (0, fNV)
  | .inf s => (if s then -(2 ^ 63) else 2 ^ 63 - 1, fNV)
  | .rat n d => (n / d, 0)

def qCeil : QV → Int × Fl
  | .nar => (0, fNV)
  | .inf s => (if s then -(2 ^ 63) else 2 ^ 63 - 1, fNV)
  | .rat n d => (-((-n) / d), 0)

end Sys2Proof.Machine
end

