-- ==== Sys2Proof/Machine/Float.lean ====
section
/-!
DEFINITION. The f32 instructions of the S slot, their rational mode, and Clove (spec/06 R160 to R163).
-/
namespace Sys2Proof.Machine

/-- The rational-mode bit, sampled at issue (spec/06 R162). -/
def State.rm (s : State) : Bool := s.core.tcw.getLsbD 1

def lo32 (w : Word) : Nat := w.toNat % 2 ^ 32
def fv32 (w : Word) : FV := fmtF32.val (lo32 w)
def qv32 (w : Word) : QV := qVal (lo32 w)

def State.qr (s : State) : Qrnd := s.core.iss.qrnd
def State.qsat (s : State) : Sat := s.core.iss.sat

/-- A float operation that consumes one output under STO, or its rational counterpart (spec/02 R58, spec/06 R162). -/
def State.fop (s : State) (lat : Nat) (d : XReg) (a : Src) (f : Rnd → Nat × Fl) (q : Qrnd → Sat → Nat × Fl) : Res :=
  let s1 := s.loadS a
  if s.rm then
    let r := q s.qr s.qsat
    .next (s1.toX 40 d (BitVec.ofNat 64 r.1) r.2)
  else
    let p := s1.draw1
    let r := f p.1
    .next (p.2.toX lat d (BitVec.ofNat 64 r.1) r.2)

/-- A two-operand operation. -/
def State.fbin (s : State) (lat : Nat) (d : XReg) (a : Src) (b : Opnd) (f : Rnd → FV → FV → Nat × Fl)
    (q : Qrnd → Sat → QV → QV → Nat × Fl) : Res :=
  let x := s.src .s a
  let y := s.opnd .s b
  s.fop lat d a (fun m => f m (fv32 x) (fv32 y)) (fun r t => q r t (qv32 x) (qv32 y))

def execFadd (d : XReg) (a : Src) (b : Opnd) (s : State) : Res := s.fbin 4 d a b fmtF32.add qAdd
def execFsub (d : XReg) (a : Src) (b : Opnd) (s : State) : Res :=
  s.fbin 4 d a b fmtF32.sub (fun r t x y => qAdd r t x y.neg)
def execFmul (d : XReg) (a : Src) (b : Opnd) (s : State) : Res := s.fbin 4 d a b fmtF32.mul qMul
def execFma (d : XReg) (a : Src) (b : Opnd) (s : State) : Res :=
  let z := s.x d
  s.fbin 4 d a b (fun m x y => fmtF32.fma m x y (fv32 z)) (fun r t x y => qFma r t x y (qv32 z))
def execFdiv (d : XReg) (a : Src) (b : Opnd) (s : State) : Res := s.fbin 14 d a b fmtF32.div qDiv
def execFsqrt (d : XReg) (a : Src) (s : State) : Res :=
  let x := s.src .s a
  s.fop 14 d a (fun m => fmtF32.sqrt m (fv32 x)) (fun r _ => qSqrt r (qv32 x))

/-- `fmin` and `fmax`: no rounding. -/
def State.fmm (s : State) (wantMax : Bool) (d : XReg) (a : Src) (b : Opnd) : Res :=
  let x := s.src .s a
  let y := s.opnd .s b
  if s.rm then .next ((s.loadS a).toX 40 d (BitVec.ofNat 64 (qMinMax wantMax (qv32 x) (qv32 y))))
  else
    let r := fmtF32.minmax wantMax (lo32 x) (lo32 y)
    .next ((s.loadS a).toX 4 d (BitVec.ofNat 64 r.1) r.2)

def execFmin (d : XReg) (a : Src) (b : Opnd) (s : State) : Res := s.fmm false d a b
def execFmax (d : XReg) (a : Src) (b : Opnd) (s : State) : Res := s.fmm true d a b

/-- A float compare. `quiet` sets NV for a signalling NaN only (in rational mode for no NaR). -/
def State.fcmp (s : State) (quiet : Bool) (f : FV → FV → Bool) (q : QV → QV → Bool) (p : Pair) (a : Src) (b : Opnd) : Res :=
  let x := s.src .s a
  let y := s.opnd .s b
  if s.rm then
    let u := qv32 x
    let v := qv32 y
    let nar := u.isNar || v.isNar
    .next ((s.loadS a).toPair 40 p (!nar && q u v) (flIf (nar && !quiet) fNV))
  else
    let u := fv32 x
    let v := fv32 y
    let nv := if quiet then u.isSnan || v.isSnan else u.isNan || v.isNan
    .next ((s.loadS a).toPair 4 p (f u v) (flIf nv fNV))

def execFcmpeq (p : Pair) (a : Src) (b : Opnd) (s : State) : Res :=
  s.fcmp true fvEq (fun x y => !qLt x y && !qLt y x) p a b
def execFcmplt (p : Pair) (a : Src) (b : Opnd) (s : State) : Res := s.fcmp false fvCmpLt qLt p a b
def execFcmple (p : Pair) (a : Src) (b : Opnd) (s : State) : Res := s.fcmp false fvCmpLe (fun x y => !qLt y x) p a b

/-- Integer type of a conversion: spec/06 R161. -/
def cvtTy (t : Fin 4) : ITy :=
  match t with
  | 0 => ⟨true, 64⟩
  | 1 => ⟨false, 64⟩
  | 2 => ⟨true, 32⟩
  | 3 => ⟨false, 32⟩

def execFcvtfi (d : XReg) (a : Src) (t : Fin 4) (s : State) : Res :=
  let x := s.src .s a
  let p := (s.loadS a).draw1
  let r := if s.rm then qToInt (cvtTy t) p.1 (qv32 x) else fvToInt (cvtTy t) p.1 (fv32 x)
  .next (p.2.toX (if s.rm then 40 else 4) d (BitVec.ofInt 64 r.1) r.2)

/-- The integer a conversion reads. -/
def cvtIn (t : Fin 4) (x : Word) : Int :=
  match t with
  | 0 => x.toInt
  | 1 => x.toNat
  | 2 => toSigned 32 (lo32 x)
  | 3 => lo32 x

def execFcvtif (d : XReg) (a : Src) (t : Fin 4) (s : State) : Res :=
  let v := cvtIn t (s.src .s a)
  s.fop 4 d a (fun m => fmtF32.round m (decide (v < 0)) v.natAbs 1 0 false) (fun r u => qRound r u v 1)

/-! ### Clove (spec/06 R163) -/

def qmkV (r : Qrnd) (t : Sat) (a b : Int) : Nat × Fl :=
  if b = 0 then (if a = 0 then (qNaR, fNV) else (qInf (decide (a < 0)), fQZD))
  else qRound r t (if b < 0 then -a else a) b.natAbs

/-- Numerator and denominator in lowest terms. -/
def qnumV : QV → Int
  | .nar => 0
  | .inf s => if s then -1 else 1
  | .rat n d => n / (Nat.gcd n.natAbs d : Int)
def qdenV : QV → Int
  | .nar => 0
  | .inf _ => 0
  | .rat n d => d / Nat.gcd n.natAbs d

def State.clove (s : State) (d : XReg) (a : Src) (v : Int) (f : Fl) : Res :=
  .next ((s.loadS a).toX 40 d (BitVec.ofInt 64 v) f)

def execQmk (d : XReg) (a : Src) (b : Opnd) (s : State) : Res :=
  let r := qmkV s.qr s.qsat (s.src .s a).toInt (s.opnd .s b).toInt
  s.clove d a r.1 r.2
def execQnum (d : XReg) (a : Src) (s : State) : Res := s.clove d a (qnumV (qv32 (s.src .s a))) 0
def execQden (d : XReg) (a : Src) (s : State) : Res := s.clove d a (qdenV (qv32 (s.src .s a))) 0
def execQflr (d : XReg) (a : Src) (s : State) : Res :=
  let r := qFloor (qv32 (s.src .s a))
  s.clove d a r.1 r.2
def execQceil (d : XReg) (a : Src) (s : State) : Res :=
  let r := qCeil (qv32 (s.src .s a))
  s.clove d a r.1 r.2
def execQfromf (d : XReg) (a : Src) (s : State) : Res :=
  let r := qFromF s.qr s.qsat (fv32 (s.src .s a))
  s.clove d a r.1 r.2
def execQtof (d : XReg) (a : Src) (s : State) : Res :=
  let x := s.src .s a
  let p := (s.loadS a).draw1
  let r := qToF fmtF32 p.1 (qv32 x)
  .next (p.2.toX 40 d (BitVec.ofNat 64 r.1) r.2)

end Sys2Proof.Machine
end

