-- ==== Sys2Proof/Machine/Vector.lean ====
section
/-!
DEFINITION. The V slots: whole plane rows as lanes (spec/08 R204 to R225), index stepping (spec/04 R111), and the rows an
interval reads and writes (spec/05 R147).
-/
namespace Sys2Proof.Machine

/-! ### Rows read and written in the interval -/

/-- Rows read enter the set, then rows written are tested against it. A handler's interval is its own. -/
def State.trkSets (s : State) (rd wr : List Nat) : State :=
  if s.core.phase == .handler then s
  else
    let t := s.core.trk
    let rows := rd ++ t.rdRows
    { s with core := { s.core with trk := { t with
        rdRows := rows
        wrRows := wr ++ t.wrRows
        broken := t.broken || wr.any fun r => rows.contains r } } }

/-- The rows of a V operation: all of a bundle's are read as it issues, so that what an earlier slot of it writes is written after this
one's read (spec/08 R210). -/
def State.trkRows (s : State) (rd wr : List Nat) : State :=
  let clash := rd.any fun r => s.core.trk.wrNow.contains r
  let s1 := s.trkSets rd wr
  if s.core.phase == .handler then s1
  else
    let t := s1.core.trk
    { s1 with core := { s1.core with trk := { t with wrNow := wr ++ t.wrNow, broken := t.broken || clash } } }

/-! ### Operands (spec/08 R205, R207) -/

/-- The A row: encoded, or the row kept in the operand port. -/
def State.vA (s : State) (v : VArgs) : Fin 512 :=
  match v.a with
  | .row n => n
  | .ko => ⟨(s.port s.core.iss.slot).toNat % 512, Nat.mod_lt _ (by decide)⟩

/-- The format a narrow type names. -/
def State.nfmt (s : State) (n : Fin 8) : NFmt := NFmt.ofReg s.core.live.fm[n]

/-- A type that names no format register, or a valid one: spec/02 R42. -/
def State.fmOk (s : State) : VTy → Bool
  | .fm n => (s.nfmt n).valid
  | _ => true

/-- Bits of a lane that hold its datum; an integer fills its lane (spec/02 R54, R55). -/
def State.dbits (s : State) (t : VTy) : Nat :=
  match t with
  | .fm n => (s.nfmt n).width
  | t => if t.isInt then t.width else t.datum 0

/-- The lane value that every lane receives from a scalar. A NaN read as f32 for `.a80` is converted to the canonical
NaN (log 22). -/
def State.bcast (s : State) (t : VTy) (x : Word) : Nat :=
  if t == .a80 then (fmtA80.roundFV {} (fmtF32.val (x.toNat % 2 ^ 32))).1
  else if t.isInt then
    let d := t.datum 0
    let lo := x.toNat % 2 ^ d
    if t.isSigned then wrapNat t.width (toSigned d lo) else lo
  else x.toNat % 2 ^ s.dbits t

/-- Lanes of a row under a type. -/
def State.lanesOf (s : State) (n : Fin 512) (w : Nat) : Nat → Nat :=
  let r := s.vrow n w
  fun i => laneOf r w i

def State.laneA (s : State) (v : VArgs) : Nat → Nat := s.lanesOf (s.vA v) v.ty.width

def State.laneB (s : State) (v : VArgs) : Nat → Nat :=
  match v.b with
  | .idx n => s.lanesOf n v.ty.width
  | .scal r =>
    let x := s.bcast v.ty (s.src s.core.iss.slot r)
    fun _ => x

/-- An amount: an immediate, or the whole scalar operand. -/
def State.amount (s : State) (v : VArgs) : Nat :=
  match v.b with
  | .idx n => n.val
  | .scal r => (s.src s.core.iss.slot r).toNat

/-- Rows that A and B name, for the rule of spec/05 R147. -/
def State.rdA (s : State) (v : VArgs) : List Nat := [(s.vA v).val]
def rdB (v : VArgs) : List Nat := match v.b with
  | .idx n => [n.val]
  | .scal _ => []

/-- The row of a lane mask. -/
def maskRow (m : Fin 17) : Fin 512 := ⟨495 + m.val, by omega⟩

/-- Enabled lanes, increasing (spec/03 R84). -/
def State.enabled (s : State) (v : VArgs) : List Nat :=
  if v.mask.val = 0 then List.range v.ty.lanes
  else
    let m := s.vrow (maskRow v.mask) 1
    (List.range v.ty.lanes).filter m.getLsbD

/-! ### Results -/

def packAt (w : Nat) (ls : List (Nat × Nat)) : Nat := ls.foldl (fun a p => a ||| ((p.2 % 2 ^ w) <<< (w * p.1))) 0

/-- A write of some lanes of a row. -/
def rowWrite (n : Fin 512) (w : Nat) (ls : List (Nat × Nat)) : LWrite :=
  .row n w (BitVec.ofNat 10240 (packAt w (ls.map fun p => (p.1, 2 ^ w - 1)))) (BitVec.ofNat 10240 (packAt w ls))

/-- Results of a V operation: rows and flags, within `lat`. -/
def State.vput (s : State) (lat : Nat) (ws : List LWrite) (f : Fl) : State :=
  s.expose lat (ws ++ if f = 0 then [] else [LWrite.flags f])

/-- Work lanes in order, each with its rounding. -/
def mapLanes (mk : Nat → Rnd) (f : Nat → Rnd → Nat × Fl) : List Nat → List Nat → List (Nat × Nat) × Fl
  | [], _ => ([], 0)
  | i :: is, rs =>
    let r := f i (mk (rs.headD 0))
    let q := mapLanes mk f is rs.tail
    ((i, r.1) :: q.1, r.2 ||| q.2)

/-- Draw for `es` under STO where `sto`, and work them. -/
def State.work (s : State) (sto : Bool) (es : List Nat) (f : Nat → Rnd → Nat × Fl) : (List (Nat × Nat) × Fl) × State :=
  let p := if sto then s.draw es.length else ([], s)
  (mapLanes (fun r => s.rnd r) f es p.1, p.2)

/-- A lane-wise operation on the enabled lanes. -/
def State.vlanes (s : State) (lat : Nat) (v : VArgs) (sto : Bool) (rd : List Nat) (f : Nat → Rnd → Nat × Fl) : State :=
  let r := s.work sto (s.enabled v) f
  (r.2.vput lat [rowWrite v.d v.ty.width r.1.1] r.1.2).trkRows rd [v.d.val]

/-- Every V operation: ILLOP where it names an invalid format register (spec/02 R42). -/
def State.vgo (s : State) (ts : List VTy) (r : State) : Res := if ts.all s.fmOk then .next r else .next (s.trap 0x02)

/-! ### Arithmetic (spec/08 R211) -/

/-- Three-operand arithmetic: on whole integer lanes, or on float codes. -/
def State.varith (s : State) (lat : Nat) (v : VArgs) (sto useB useC : Bool) (fi : Int → Int → Int → Int)
    (ff : FFmt → Rnd → Nat → Nat → Nat → Nat × Fl) : Res :=
  let a := s.laneA v
  let b := if useB then s.laneB v else fun _ => 0
  let c := if useC then s.lanesOf v.c v.ty.width else fun _ => 0
  let rd := s.rdA v ++ (if useB then rdB v else []) ++ (if useC then [v.c.val] else [])
  let k := 2 ^ s.dbits v.ty
  s.vgo [v.ty] (match v.ty.ffmt with
    | some f => s.vlanes lat v sto rd fun i m => ff f m (a i % k) (b i % k) (c i % k)
    | none => s.vlanes lat v false rd fun i _ =>
        (wrapNat v.ty.width (fi (laneInt v.ty (a i)) (laneInt v.ty (b i)) (laneInt v.ty (c i))), 0))

def execVadd (v : VArgs) (s : State) : Res :=
  s.varith 2 v true true false (fun a b _ => a + b) (fun f m a b _ => f.add m (f.val a) (f.val b))
def execVsub (v : VArgs) (s : State) : Res :=
  s.varith 2 v true true false (fun a b _ => a - b) (fun f m a b _ => f.sub m (f.val a) (f.val b))
def execVmul (v : VArgs) (s : State) : Res :=
  s.varith 4 v true true false (fun a b _ => a * b) (fun f m a b _ => f.mul m (f.val a) (f.val b))
def execVfma (v : VArgs) (s : State) : Res :=
  s.varith 4 v true true true (fun a b c => a * b + c) (fun f m a b c => f.fma m (f.val a) (f.val b) (f.val c))
def execVfms (v : VArgs) (s : State) : Res :=
  s.varith 4 v true true true (fun a b c => a * b - c) (fun f m a b c => f.fma m (f.val a) (f.val b) (f.val c).neg)
def execVmin (v : VArgs) (s : State) : Res :=
  s.varith 2 v false true false (fun a b _ => if b < a then b else a) (fun f _ a b _ => f.minmax false a b)
def execVmax (v : VArgs) (s : State) : Res :=
  s.varith 2 v false true false (fun a b _ => if a < b then b else a) (fun f _ a b _ => f.minmax true a b)

/-- A sign operation on a float code: exact, but for NaNs. -/
def signOp (f : FFmt) (g : Nat → Nat) (a : Nat) : Nat × Fl :=
  match f.val a with
  | .nan sig => (f.qnan, flIf sig fNV)
  | _ => (g a, 0)

def execVabs (v : VArgs) (s : State) : Res :=
  s.varith 2 v false false false (fun a _ _ => a.natAbs) (fun f _ a _ _ => signOp f (fun a => a % f.signBit) a)
def execVneg (v : VArgs) (s : State) : Res :=
  s.varith 2 v false false false (fun a _ _ => -a)
    (fun f _ a _ _ => signOp f (fun a => (a + f.signBit) % (2 * f.signBit)) a)

/-! ### Bits moved: movement, logic, selection (spec/08 R211, R212, R214) -/

/-- A lane-wise operation on bits. -/
def State.vbits (s : State) (v : VArgs) (rd : List Nat) (f : Nat → Nat) : Res :=
  let k := 2 ^ s.dbits v.ty
  s.vgo [v.ty] (s.vlanes 2 v false rd fun i _ => (f i % k, 0))

def execVmov (v : VArgs) (s : State) : Res :=
  match v.b with
  | .scal _ => s.vbits v [] (s.laneB v)
  | .idx _ => s.vbits v (s.rdA v) (s.laneA v)

def State.vlogic (s : State) (v : VArgs) (f : Nat → Nat → Nat) : Res :=
  let a := s.laneA v
  let b := s.laneB v
  s.vbits v (s.rdA v ++ rdB v) fun i => f (a i) (b i)

def execVand (v : VArgs) (s : State) : Res := s.vlogic v (· &&& ·)
def execVor (v : VArgs) (s : State) : Res := s.vlogic v (· ||| ·)
def execVxor (v : VArgs) (s : State) : Res := s.vlogic v (· ^^^ ·)
def execVnot (v : VArgs) (s : State) : Res :=
  let a := s.laneA v
  s.vbits v (s.rdA v) fun i => 2 ^ v.ty.width - 1 - a i

def execVshl (v : VArgs) (s : State) : Res := s.vlogic v fun a n => a <<< (n % 128)
def execVshr (v : VArgs) (s : State) : Res := s.vlogic v fun a n => a >>> (n % 128)
def execVsar (v : VArgs) (s : State) : Res :=
  s.vlogic v fun a n => wrapNat v.ty.width (toSigned v.ty.width a / 2 ^ (n % 128))

def execVsel (v : VArgs) (s : State) : Res :=
  let a := s.laneA v
  let b := s.laneB v
  let c := s.vrow v.c 1
  s.vbits v (s.rdA v ++ rdB v ++ [v.c.val]) fun i => if c.getLsbD i then a i else b i

/-! ### Compares (spec/08 R213) -/

/-- A compare writes all of D. -/
def State.vcmp (s : State) (v : VArgs) (quiet : Bool) (fi : Int → Int → Bool) (ff : FV → FV → Bool) : Res :=
  let a := s.laneA v
  let b := s.laneB v
  let k := 2 ^ s.dbits v.ty
  let r := mapLanes (fun _ => {}) (fun i _ => match v.ty.ffmt with
    | some f =>
      let x := f.val (a i % k)
      let y := f.val (b i % k)
      ((ff x y).toNat, flIf (if quiet then x.isSnan || y.isSnan else x.isNan || y.isNan) fNV)
    | none => ((fi (laneInt v.ty (a i)) (laneInt v.ty (b i))).toNat, 0)) (s.enabled v) []
  s.vgo [v.ty] ((s.vput 2 [.row v.d v.ty.width (BitVec.allOnes 10240) (BitVec.ofNat 10240 (packAt 1 r.1))] r.2).trkRows
    (s.rdA v ++ rdB v) [v.d.val])

def execVceq (v : VArgs) (s : State) : Res := s.vcmp v true (fun a b => decide (a = b)) fvEq
def execVclt (v : VArgs) (s : State) : Res := s.vcmp v false (fun a b => decide (a < b)) fvCmpLt
def execVcle (v : VArgs) (s : State) : Res := s.vcmp v false (fun a b => decide (a ≤ b)) fvCmpLe

/-! ### Conversions (spec/08 R215 to R217) -/

def VTy.ity (t : VTy) : ITy := { signed := t.isSigned, bits := t.datum 0 }

/-- A float, A80 or narrow code as a value, an escape as a NaN that sets NV. -/
def State.cvtVal (s : State) (t : VTy) (c : Nat) : FV × Fl :=
  match t with
  | .fm n => match (s.nfmt n).val c with
    | .v x => (x, 0)
    | .esc => (.nan false, fNV)
  | t => match t.ffmt with
    | some f => (f.val c, 0)
    | none => (.nan false, 0)

/-- Deliver a value to a destination type other than Q32. -/
def State.cvtTo (s : State) (t : VTy) (m : Rnd) (x : FV) : Nat × Fl :=
  match t with
  | .fm n => (s.nfmt n).conv m x
  | t => match t.ffmt with
    | some f => f.roundFV m x
    | none => let r := fvToInt (VTy.ity t) m x; (wrapNat t.width r.1, r.2)

def intFV (x : Int) : FV := .fin (decide (x < 0)) x.natAbs 0

/-- One lane converted. -/
def State.cvtLane (s : State) (st dt : VTy) (m : Rnd) (c : Nat) : Nat × Fl :=
  if st == .q32 then qToF fmtF32 m (qVal (c % 2 ^ 32))
  else if dt == .q32 then qFromF s.qr s.qsat (fmtF32.val (c % 2 ^ 32))
  else if st.isInt then
    let x := laneInt st c
    if dt.isInt then let r := narrowInt (VTy.ity dt) m.sat x; (wrapNat dt.width r.1, r.2) else s.cvtTo dt m (intFV x)
  else
    let x := s.cvtVal st (c % 2 ^ s.dbits st)
    let r := s.cvtTo dt m x.1
    (r.1, r.2 ||| x.2)

/-- Destination and source lanes of `vcvt`. -/
def cvtMap (la ld part : Nat) : List (Nat × Nat) :=
  (List.range (min la ld)).map fun j => if la ≤ ld then (part * la + j, j) else (j, part * ld + j)

def execVcvt (v : VArgs) (s : State) : Res :=
  match vcvtSrc v.c.val with
  | none => .next (s.trap 0x02)
  | some st =>
    let a := s.lanesOf (s.vA v) st.width
    let en := s.enabled v
    let ps := (cvtMap st.lanes v.ty.lanes v.b.val).filter fun p => en.contains p.1
    let sto := v.ty != .q32 && !(st.isInt && v.ty.isInt)
    let k := if st.lanes ≤ v.ty.lanes then fun i => i - v.b.val * st.lanes else fun i => v.b.val * v.ty.lanes + i
    let r := s.work sto (ps.map (·.1)) fun i m => s.cvtLane st v.ty m (a (k i))
    s.vgo [v.ty, st] ((r.2.vput 4 [rowWrite v.d v.ty.width r.1.1] r.1.2).trkRows (s.rdA v) [v.d.val])

/-- Source format of `vmx`. -/
def vmxFmt (b : Nat) : FFmt := match b / 4 % 4 with
  | 0 => fmtF32
  | 1 => fmtBf16
  | _ => fmtF16

def clampI (lo hi x : Int) : Int := if x < lo then lo else if hi < x then hi else x

/-- Scale byte of a block: spec/02 R62. -/
def mxScale (f : NFmt) (xs : List FV) : Option Nat :=
  if xs.any fun x => x.isNan || x.isInf then none
  else
    let es := xs.filterMap FV.exp
    match es with
    | [] => some 0
    | e :: es => some (clampI (-127) 127 (es.foldl max e - f.emaxElem) + 127).toNat

/-- One code of a block whose scale is known; a zero block has codes 0. -/
def mxCode (f : NFmt) (m : Rnd) (zero : Bool) (sc : Nat) : FV → Nat × Fl
  | .fin s n e => if zero then (0, 0) else f.round m s n (e - ((sc : Int) - 127))
  | _ => (0, 0)

def execVmx (v : VArgs) (s : State) : Res :=
  match v.ty with
  | .fm n =>
    let f := s.nfmt n
    let la := vmxLanes v.b.val
    let part := v.b.val % 4
    let sf := vmxFmt v.b.val
    let a := s.lanesOf (s.vA v) (10240 / la)
    let x := fun i => sf.val (a i % (2 * sf.signBit))
    let blk := fun j => (List.range 16).map fun k => x (16 * j + k)
    let sc := (List.range (la / 16)).map fun j => mxScale f (blk j)
    let zero := (List.range (la / 16)).map fun j => (blk j).all FV.isZero
    let r := s.work true ((List.range la).map (part * la + ·)) fun i m =>
      let j := i - part * la
      match (sc[j / 16]?).getD none with
      | none => (0, fNV)
      | some k => mxCode f m ((zero[j / 16]?).getD false) k (x j)
    let scs := ((List.range (la / 16)).zip sc).map fun p => (part * (la / 16) + p.1, p.2.getD 255)
    s.vgo [v.ty] ((r.2.vput 4 [rowWrite v.d 10 r.1.1, rowWrite v.c 10 scs] r.1.2).trkRows (s.rdA v) [v.d.val, v.c.val])
  | _ => .next (s.trap 0x02)

/-- One lane of `vunmx`. -/
def unmxLane (f : FFmt) (nf : NFmt) (m : Rnd) (c sc : Nat) : Nat × Fl :=
  if sc = 255 then (f.qnan, 0)
  else match nf.val c with
    | .esc => (f.qnan, fNV)
    | .v (.nan sig) => (f.qnan, flIf sig fNV)
    | .v (.inf s) => (f.inf s, 0)
    | .v (.fin s n e) => f.round m s n 1 (e + ((sc : Int) - 127)) false

def execVunmx (v : VArgs) (s : State) : Res :=
  match v.ty.ffmt with
  | some f =>
    let n : Fin 8 := ⟨v.b.val / 4 % 8, Nat.mod_lt _ (by decide)⟩
    let nf := s.nfmt n
    let part := v.b.val % 4
    let ld := v.ty.lanes
    let a := s.lanesOf (s.vA v) 10
    let c := s.lanesOf v.c 10
    let r := s.work true (List.range ld) fun i m =>
      unmxLane f nf m (a (part * ld + i) % 2 ^ nf.width) (c (part * ld / 16 + i / 16) % 256)
    s.vgo [.fm n] ((r.2.vput 4 [rowWrite v.d v.ty.width r.1.1] r.1.2).trkRows (s.rdA v ++ [v.c.val]) [v.d.val])
  | none => .next (s.trap 0x02)

/-! ### Special functions (spec/08 R218) -/

/-- Special function k of one lane: in f32, with one further rounding for bf16 and f16. -/
def specialLane (k : Nat) (f : FFmt) (m : Rnd) (c : Nat) : Nat × Fl :=
  match f.val c with
  | .nan sig => (f.qnan, flIf sig fNV)
  | x =>
    let r := special k (fmtF32.roundFV {} x).1
    if f.fb = 23 then r
    else
      let q := f.roundFV m (fmtF32.val r.1)
      (q.1, r.2 ||| q.2)

def State.vspecial (s : State) (k : Nat) (v : VArgs) : Res :=
  match v.ty.ffmt with
  | some f =>
    let a := s.laneA v
    .next (s.vlanes 10 v (f.fb != 23) (s.rdA v) fun i m => specialLane k f m (a i % 2 ^ s.dbits v.ty))
  | none => .next (s.trap 0x02)

def execVrcp (v : VArgs) (s : State) : Res := s.vspecial 0 v
def execVrsq (v : VArgs) (s : State) : Res := s.vspecial 1 v
def execVsqrt (v : VArgs) (s : State) : Res := s.vspecial 2 v
def execVexp2 (v : VArgs) (s : State) : Res := s.vspecial 3 v
def execVlog2 (v : VArgs) (s : State) : Res := s.vspecial 4 v
def execVtanh (v : VArgs) (s : State) : Res := s.vspecial 5 v
def execVsigm (v : VArgs) (s : State) : Res := s.vspecial 6 v

/-! ### Reductions (spec/08 R219, R220) -/

/-- One value into every lane of D. -/
def State.vall' (s : State) (lat : Nat) (v : VArgs) (x : Nat) (f : Fl) : State :=
  (s.vput lat [rowWrite v.d v.ty.width ((List.range v.ty.lanes).map fun i => (i, x))] f).trkRows (s.rdA v) [v.d.val]

/-- The type's negative limit, or 0. -/
def negLimit (t : VTy) : Nat := if t.isSigned then wrapNat t.width (-(2 ^ (t.datum 0 - 1))) else 0

def nanFlags (xs : List FV) : Fl := flIf (xs.any FV.isSnan) fNV

/-- Exact float sum, rounded once. -/
def sumFloat (f : FFmt) (m : Rnd) (xs : List FV) : Nat × Fl :=
  if xs.any FV.isNan then (f.qnan, nanFlags xs ||| flIf (xs.contains (.inf true) && xs.contains (.inf false)) fNV)
  else match xs with
    | [] => (f.zero false, 0)
    | x :: xs => f.out m (xs.foldl (fun p y => let r := fvAdd m.isRdn p.1 y; (r.1, r.2 ||| p.2)) (x, 0))

def execVrsum (v : VArgs) (s : State) : Res :=
  let a := s.laneA v
  let en := s.enabled v
  match v.ty.ffmt with
  | some f =>
    let p := s.draw1
    let r := sumFloat f p.1 (en.map fun i => f.val (a i % 2 ^ s.dbits v.ty))
    s.vgo [v.ty] (p.2.vall' 8 v r.1 r.2)
  | none => s.vgo [v.ty] (s.vall' 8 v (wrapNat v.ty.width ((en.map fun i => laneInt v.ty (a i)).foldl (· + ·) 0)) 0)

/-- The greatest or least code of a list. -/
def pickFloat (f : FFmt) (wantMax : Bool) (cs : List Nat) : Nat × Fl :=
  let xs := cs.map f.val
  if xs.any FV.isNan then (f.qnan, nanFlags xs)
  else match cs with
    | [] => (f.inf wantMax, 0)
    | c :: cs => (cs.foldl (fun b c => (f.minmax wantMax b c).1) c, 0)

def pickInt (t : VTy) (wantMax : Bool) : List Int → Nat
  | [] => negLimit t
  | x :: xs => wrapNat t.width (xs.foldl (fun b y => if wantMax then max b y else min b y) x)

def State.vextreme (s : State) (wantMax : Bool) (v : VArgs) : Res :=
  let a := s.laneA v
  let en := s.enabled v
  match v.ty.ffmt with
  | some f =>
    let r := pickFloat f wantMax (en.map fun i => a i % 2 ^ s.dbits v.ty)
    s.vgo [v.ty] (s.vall' 8 v r.1 r.2)
  | none => s.vgo [v.ty] (s.vall' 8 v (pickInt v.ty wantMax (en.map fun i => laneInt v.ty (a i))) 0)

def execVrmax (v : VArgs) (s : State) : Res := s.vextreme true v
def execVrmin (v : VArgs) (s : State) : Res := s.vextreme false v

/-- A lane as an exact value, integers among them. -/
def State.laneVal (s : State) (t : VTy) (c : Nat) : FV :=
  match t.ffmt with
  | some f => f.val (c % 2 ^ s.dbits t)
  | none => intFV (laneInt t c)

/-- The first lane of greatest value, +0 above −0, NaN lanes passed over. -/
def bestLane : List (Nat × FV) → Option (Nat × FV) → Option Nat
  | [], b => b.map (·.1)
  | p :: ps, b =>
    if p.2.isNan then bestLane ps b
    else match b with
      | none => bestLane ps (some p)
      | some q => bestLane ps (some (if fvLt true q.2 p.2 then p else q))

def execVargmax (v : VArgs) (s : State) : Res :=
  let a := s.laneA v
  let en := s.enabled v
  let ls := en.map fun i => (i, s.laneVal v.ty (a i))
  let r := match en with
    | [] => 2 ^ v.ty.width - 1
    | e :: _ => (bestLane ls none).getD e
  s.vgo [v.ty] (s.vall' 8 v r (nanFlags (ls.map (·.2))))

/-! ### `vtopk` (spec/08 R221) -/

/-- p comes before q: value descending, NaN lanes last, then the lower lane. -/
def topBefore (p q : Nat × FV) : Bool :=
  if p.2.isNan then q.2.isNan && decide (p.1 < q.1)
  else q.2.isNan || fvLt true q.2 p.2 || (!fvLt true p.2 q.2 && decide (p.1 < q.1))

def topLane : List (Nat × FV) → Option (Nat × FV)
  | [] => none
  | p :: ps => some (ps.foldl (fun b q => if topBefore q b then q else b) p)

/-- The first k lanes of the order. -/
def topList : Nat → List (Nat × FV) → List (Nat × FV)
  | 0, _ => []
  | k + 1, ls => match topLane ls with
    | none => []
    | some p => p :: topList k (ls.filter fun q => q.1 != p.1)

/-- The k largest lanes and their places: spec/08 R221. A scalar k of 0 writes nothing and sets no flag, a signalling NaN in an enabled
lane or not: the model's choice (log 111). -/
def execVtopk (v : VArgs) (s : State) : Res :=
  let k := match v.b with
    | .idx n => n.val
    | .scal _ => min (s.amount v) 64
  let a := s.laneA v
  let ls := (s.enabled v).map fun i => (i, s.laneVal v.ty (a i))
  let top := topList k ls
  let val := fun p : Nat × FV => match v.ty.ffmt with
    | some f => if p.2.isNan then f.qnan else a p.1 % 2 ^ s.dbits v.ty
    | none => a p.1
  let fill := match v.ty.ffmt with
    | some f => f.inf true
    | none => negLimit v.ty
  let ds := (List.range k).map fun j => (j, match top[j]? with
    | some p => val p
    | none => fill)
  let cs := (List.range k).map fun j => (j, match top[j]? with
    | some p => p.1
    | none => 0xFFFFFFFF)
  if k = 0 then s.vgo [v.ty] s
  else s.vgo [v.ty] ((s.vput 16 [rowWrite v.d v.ty.width ds, rowWrite v.c 40 cs] (nanFlags (ls.map (·.2)))).trkRows
    (s.rdA v) [v.d.val, v.c.val])

/-! ### Permutes and single lanes (spec/08 R222 to R224) -/

def execVperm (v : VArgs) (s : State) : Res :=
  let a := s.laneA v
  let b := s.laneB v
  s.vbits v (s.rdA v ++ rdB v) fun i => a (b i % v.ty.lanes)

def execVrot (v : VArgs) (s : State) : Res :=
  let a := s.laneA v
  let n := s.amount v
  s.vbits v (s.rdA v) fun i => a ((i + n) % v.ty.lanes)

def execVbcast (v : VArgs) (s : State) : Res :=
  let x := s.laneA v (s.amount v % v.ty.lanes)
  s.vbits v (s.rdA v) fun _ => x

/-- A scalar destination named by the D field. -/
def vXreg (d : Fin 512) : XReg := ⟨d.val % 56, Nat.mod_lt _ (by decide)⟩

def execVext (v : VArgs) (s : State) : Res :=
  let x := s.laneA v (s.amount v % v.ty.lanes)
  let w : Word := if v.ty.isInt then BitVec.ofInt 64 (laneInt v.ty x) else BitVec.ofNat 64 (x % 2 ^ s.dbits v.ty)
  s.vgo [v.ty] ((s.expose 2 [LWrite.x (physX s.core.live (vXreg v.d)) w]).trkRows (s.rdA v) [])

def execVins (v : VArgs) (s : State) : Res :=
  let n := match v.a with
    | .row n => match Src.ofCode n.val with
      | some r => (s.src s.core.iss.slot r).toNat % v.ty.lanes
      | none => 0
    | .ko => 0
  let b := s.laneB v
  let ls := if (s.enabled v).contains n then [(n, b n)] else []
  s.vgo [v.ty] ((s.vput 2 [rowWrite v.d v.ty.width ls] 0).trkRows [] [v.d.val])

/-! ### Conditions (spec/08 R225) -/

def vPair (d : Fin 512) : Pair := ⟨(d.val / 2 - 1) % 7, Nat.mod_lt _ (by decide)⟩

def State.vcond (s : State) (v : VArgs) (f : List Nat → (Nat → Bool) → Bool) : Res :=
  let a := s.vrow (s.vA v) 1
  s.vgo [v.ty] ((s.expose 8 (s.pairTo (vPair v.d) (f (s.enabled v) a.getLsbD))).trkRows (s.rdA v) [])

def execVany (v : VArgs) (s : State) : Res := s.vcond v fun l p => l.any p
def execVall (v : VArgs) (s : State) : Res := s.vcond v fun l p => l.all p

/-! ### Stepping (spec/04 R111, spec/08 R206) -/

def stepIdx (n : Fin 512) (st : Int) : Fin 512 := ⟨wrapNat 9 ((n.val : Int) + st) % 512, Nat.mod_lt _ (by decide)⟩

/-- Advance the indices that name rows by a slot's VSTP. -/
def stepArgs (f : VForm) (port : Word) (v : VArgs) : VArgs :=
  let st := fun hi lo => toSigned 8 (natBits port.toNat hi lo)
  { v with
    d := if f.d = .row then stepIdx v.d (st 39 32) else v.d
    a := match v.a, v.b with
      | .row n, .idx _ => if f.a = .row || f.a = .mov then .row (stepIdx n (st 47 40)) else .row n
      | .row n, .scal _ => if f.a = .row then .row (stepIdx n (st 47 40)) else .row n
      | .ko, _ => .ko
    b := match v.b with
      | .idx n => if f.b = .rowScal then .idx (stepIdx n (st 55 48)) else .idx n
      | b => b
    c := if f.c = .row then stepIdx v.c (st 63 56) else v.c }

/-- The operation after one issue. Where the steps of `vtopk` or `vmx` make D equal C, the repeat raises nothing and writes the one row
twice, C's write last: the model's choice (log 112). -/
def stepInstr (port : Word) (i : Instr) : Instr :=
  match i.vform with
  | some (op, f, v) => match vCtor op with
    | some k => k (stepArgs f port v)
    | none => i
  | none => i

end Sys2Proof.Machine
end

