-- ==== Sys2Proof/Machine/HearthOps.lean ====
section
/-!
DEFINITION. The M slot: register instructions, starts, the rendezvous of cooperative starts and the landing of an operation
(spec/09 R226 to R249), and the byte ranges an interval reads and writes (spec/05 R147).
-/
namespace Sys2Proof.Machine

/-! ### Byte ranges of the interval -/

def meets (a b : Nat × Nat) : Bool := decide (a.1 < b.1 + b.2) && decide (b.1 < a.1 + a.2)

/-- A plane row that a physical range of this core touches. -/
def rowsIn (key : Nat) (r : Nat × Nat) : List Nat :=
  match locate r.1 with
  | .win (.plane k b false o) =>
    if k = key then (List.range (min 256 ((o + r.2 + 1279) / 1280) - o / 1280)).map (256 * b + o / 1280 + ·) else []
  | _ => []

/-- Sources enter the set, then destinations are tested against it; plane rows of this core count as rows. -/
def State.trkBytes (s : State) (srcs dsts : List (Nat × Nat)) : State :=
  if s.core.phase == .handler then s
  else
    let s := s.trkSets (srcs.flatMap (rowsIn s.here)) (dsts.flatMap (rowsIn s.here))
    let t := s.core.trk
    let all := srcs ++ t.srcs
    { s with core := { s.core with trk := { t with
        srcs := all
        dsts := dsts ++ t.dsts
        broken := t.broken || dsts.any fun d => all.any (meets d) } } }

/-! ### Registers (spec/09 R227) -/

/-- The Hearth's operand port takes every A source that is read. -/
def State.loadM (s : State) (a : Src) : State :=
  if a = .ko then s else { s with core := { s.core with live := { s.core.live with portM := s.src .m a } } }

/-- Write a shadow register: its RSV fields stay zero. -/
def State.mPut (s : State) (er : Fin 14) (v : Word) : State :=
  let l := s.core.live
  { s with core := { s.core with live := { l with hs := vset l.hs er.val (v &&& hearthMask er.val) } } }

def execMset (er : Fin 14) (a : Src) (s : State) : Res := .next ((s.loadM a).mPut er (s.src .m a))
def execMseti (er : Fin 14) (v : BitVec 32) (s : State) : Res := .next (s.mPut er (v.signExtend 64))

/-- The bits that R228 ignores in an address are kept and returned as they were written: the model's choice (log 101). -/
def execMget (d : XReg) (er : Fin 14) (act : Bool) (s : State) : Res :=
  let l := s.core.live
  .next (s.expose 1 [LWrite.x (physX l d) (vget (if act then l.ha else l.hs) er.val)])

def execMclr (s : State) : Res :=
  .next { s with core := { s.core with live := { s.core.live with hs := .replicate 14 0 } } }

/-! ### Starts (spec/09 R234, R238 to R241) -/

/-- The set and formats a start works with: the shadow set on an explicit start, the advanced active set afterwards. What `mgol` fixes (R249)
stands in no register: `mget .act` reads the fields as the shadow set had them, the model's choice (log 122). -/
def State.mSet (s : State) (op : Nat) (w : Option (Fin 14 × Src)) : State :=
  if s.core.iss.again then
    let l := s.core.live
    { s with core := { s.core with live := { l with ha := hAdvance op l.ha } } }
  else
    let s := match w with
      | some (er, a) => (s.loadM a).mPut er (s.src .m a)
      | none => s
    let l := s.core.live
    let f := fun hi lo => l.fm[(⟨hf l.hs 5 hi lo % 8, Nat.mod_lt _ (by decide)⟩ : Fin 8)]
    { s with core := { s.core with live := { l with ha := l.hs, hf := #v[f 2 0, f 6 4] } } }

def Live.fa (l : Live) : BitVec 32 := l.hf[0]
def Live.fb (l : Live) : BitVec 32 := l.hf[1]

/-- The check of an explicit start. -/
def State.mCheck (s : State) (op : Nat) : Option Nat :=
  let l := s.core.live
  if s.core.iss.again then none else hCheck op l.ha l.fa l.fb (keyIdx s.here % 8)

/-- Virtual ranges of A and its side data, each with bit 47 of the address it is reckoned from. -/
def hVirtNeg (op : Nat) (g : HImg) (fa : BitVec 32) : List ((Nat × Nat) × Bool) :=
  let a := hARanges g (hWidth (hType op) fa) (hA g)
  if (hVirt op g fa).isEmpty then []
  else
    ((a.map fun r => (r, (vget g 0).getLsbD 47)) ++ (hASide op g fa).map fun r => (r, r.1.testBit 47)).filter fun p =>
      p.1.2 != 0

/-- Virtual address of a place reckoned from a sign-extended base (log 14). -/
def hVa (a : Nat) (neg : Bool) : Word := BitVec.ofInt 64 (if neg then (a : Int) - 2 ^ 48 else a)

/-- Translate the pages of one range; none of the pages found so far is translated again. -/
def State.hPagesOf (s : State) (r : Nat × Nat) (neg : Bool) :
    List Nat → List (Nat × Nat × Nat) → Except (Nat × Word) (List (Nat × Nat × Nat))
  | [], acc => .ok acc
  | p :: ps, acc =>
    if acc.any fun q => q.1 == p then s.hPagesOf r neg ps acc
    else
      let va := hVa (max r.1 (p * 4096)) neg
      match s.access s.acc .rd .hearth va (2 ^ 52 + p % 2 ^ 40) with
      | .error k => .error (k, va)
      | .ok t => s.hPagesOf r neg ps ((p, t.pa / 4096, t.cl) :: acc)

def State.hPages (s : State) : List ((Nat × Nat) × Bool) → List (Nat × Nat × Nat) →
    Except (Nat × Word) (List (Nat × Nat × Nat))
  | [], acc => .ok acc
  | (r, neg) :: rs, acc =>
    let lo := r.1 / 4096
    match s.hPagesOf r neg ((List.range ((r.1 + r.2 - 1) / 4096 + 1 - lo)).map (lo + ·)) acc with
    | .error e => .error e
    | .ok acc => s.hPages rs acc

/-- Translations a start makes. -/
def State.mPages (s : State) (op : Nat) : Except (Nat × Word) (List (Nat × Nat × Nat)) :=
  let l := s.core.live
  s.hPages (hVirtNeg op (hEff op l.ha) l.fa) []

/-- Banks a start takes. -/
def State.mBanks (s : State) (op : Nat) : BitVec 64 :=
  let l := s.core.live
  hBanks op (hEff op l.ha) l.fa l.fb

/-- A range of a space that wraps, as the ranges it is made of (spec/09 R229, R243). -/
def splitWrap (size : Nat) (r : Nat × Nat) : List (Nat × Nat) :=
  let a := r.1 % size
  if a + r.2 ≤ size then [(a, r.2)] else [(a, size - a), (0, a + r.2 - size)]

/-- Physical ranges of places in the cluster's scratchpad and in the B-store of the core in focus. -/
def State.scratchRanges (s : State) (rs : List (Nat × Nat)) : List (Nat × Nat) :=
  (rs.flatMap (splitWrap scratchSize)).map fun r => (scratchAddr (keyDie s.here) (keyCluster s.here) r.1, r.2)
def State.bstoreRanges (s : State) (rs : List (Nat × Nat)) : List (Nat × Nat) :=
  (rs.flatMap (splitWrap 2097152)).map fun r => (winAddr s.here r.1, r.2)

/-- Start the operation of the active set. -/
def State.mLaunch (s : State) (op : Nat) (pages : List (Nat × Nat × Nat)) : State :=
  let c := s.core
  let l := c.live
  let g := hEff op l.ha
  if hEmpty g && !hShared op g then s
  else
    -- with M = 0 the banks are released at once (spec/09 R239)
    let o : HOp := { seq := c.seq, pcb := c.iss.pcb, op := op, img := l.ha, fa := l.fa, fb := l.fb,
                     banks := if hEmpty g then 0 else s.mBanks op, acc := s.acc, hseq := s.wseq, acq := c.acq, issued := c.cyc,
                     due := c.cyc + hLmax op g, latch := none, pages := pages, fwd := c.ownBytes, onWay := c.ownBytes.map (·.1),
                     blk := 0, bfloor := [] }
    let s := { s with core := { c with hops := c.hops ++ [o] } }
    if hShared op g then
      let w := hWidth (hType op) l.fb
      s.trkBytes (s.scratchRanges (hBRanges g w (hSOFF g))) (s.bstoreRanges (hBRanges g w (hBOFF g)))
    else s

/-- A start that needs no rendezvous, or whose rendezvous has completed. -/
def State.mGo (s : State) (op : Nat) (w : Option (Fin 14 × Src)) : Res :=
  let s1 := s.mSet op w
  match s1.mCheck op with
  | some n => .next (s.trap 0x09 n)
  | none =>
    match s1.mPages op with
    | .error e => .next (s.trap 0x05 e.1 e.2)
    | .ok ps => .next (s1.mLaunch op ps)

/-- What a member brings to a rendezvous at which it has stood since a tick. -/
def State.mJoinOf (s : State) (op : Nat) (w : Option (Fin 14 × Src)) (tick : Nat) : Join :=
  let s1 := s.mSet op w
  let l := s1.core.live
  { tick := tick, op := op, img := l.ha, fa := l.fa, fb := l.fb, banks := s1.mBanks op, go := false }

/-- Arrive at the rendezvous: the bundle stalls (spec/09 R244). -/
def State.mArrive (s : State) (op : Nat) (w : Option (Fin 14 × Src)) : State :=
  match s.core.joinAt with
  | some _ => s
  | none => { s with core := { s.core with joinAt := some (s.mJoinOf op w s.tick) } }

/-- A cooperative start: it issues once its rendezvous has completed, and waits there until then. -/
def State.mJoin (s : State) (op : Nat) (w : Option (Fin 14 × Src)) : Res :=
  match s.core.joinAt with
  | some j =>
    if j.go then ({ s with core := { s.core with joinAt := none } }.mGo op w) else .next s
  | none =>
    match (s.mSet op w).mCheck op with
    | some n => .next (s.trap 0x09 n)
    | none => .next (s.mArrive op w)

def execMgoBf16 (w : Option (Fin 14 × Src)) (s : State) : Res := s.mGo 0x08 w
def execMgoF16 (w : Option (Fin 14 × Src)) (s : State) : Res := s.mGo 0x09 w
def execMgoW8 (w : Option (Fin 14 × Src)) (s : State) : Res := s.mGo 0x0A w
def execMgoS8 (w : Option (Fin 14 × Src)) (s : State) : Res := s.mGo 0x0B w
def execMgoW4 (w : Option (Fin 14 × Src)) (s : State) : Res := s.mGo 0x0C w
def execMgoS4 (w : Option (Fin 14 × Src)) (s : State) : Res := s.mGo 0x0D w
def execMjoinBf16 (w : Option (Fin 14 × Src)) (s : State) : Res := s.mJoin 0x10 w
def execMjoinF16 (w : Option (Fin 14 × Src)) (s : State) : Res := s.mJoin 0x11 w
def execMjoinW8 (w : Option (Fin 14 × Src)) (s : State) : Res := s.mJoin 0x12 w
def execMjoinS8 (w : Option (Fin 14 × Src)) (s : State) : Res := s.mJoin 0x13 w
def execMjoinW4 (w : Option (Fin 14 × Src)) (s : State) : Res := s.mJoin 0x14 w
def execMjoinS4 (w : Option (Fin 14 × Src)) (s : State) : Res := s.mJoin 0x15 w
def execMgol (s : State) : Res := s.mGo 0x18 none

/-! ### `mlatch` (spec/09 R248) -/

def latchOff (a : Word) : Nat := a.toNat % 2 ^ 64 / 64 * 64 % scratchSize
def latchBanks (off : Nat) : BitVec 64 := banksOf (off, 8192)

def execMlatch (a : Src) (s : State) : Res :=
  let off := latchOff (s.src .m a)
  let s := s.loadM a
  let c := s.core
  let t : State := { s with core := { c with hops := c.hops ++
    [{ seq := c.seq, pcb := c.iss.pcb, op := 5, img := .replicate 14 0, fa := 0, fb := 0, banks := latchBanks off,
       acc := s.acc, hseq := s.wseq, acq := c.acq, issued := c.cyc, due := c.cyc + 24, latch := some off, pages := [],
       fwd := c.ownBytes, onWay := c.ownBytes.map (·.1), blk := 0, bfloor := [] }] } }
  .next (t.trkBytes (s.scratchRanges [(off, 8192)]) (s.bstoreRanges [(0x1FE000, 8192)]))

/-! ### Landing (spec/09 R240) -/

/-- The oldest operation of the core in focus runs on, and lands with its last block sum. -/
def execHearthLanding (s : State) : Res := .next s.hStepFirst

/-- Land the operations whose bound has come. -/
def hDueLoop : Nat → State → State
  | 0, s => s
  | n + 1, s =>
    if s.core.hops.any fun o => decide (o.due ≤ s.core.cyc) then hDueLoop n s.hLandFirst else s

def State.hLandDue (s : State) : State := hDueLoop s.core.hops.length s

/-! ### The rendezvous (spec/09 R244, R245) -/

def Join.id (j : Join) : Nat := hf j.img 13 43 40
def Join.mask (j : Join) : Nat := hMask j.img

/-- It has waited more than JTO × 1,024 ticks: it withdraws (spec/09 R244). -/
def Join.late (j : Join) (tick : Nat) : Bool :=
  let jto := hf j.img 13 39 32
  jto != 0 && !j.go && decide (j.tick + jto * 1024 < tick)

/-- Cores of a cluster that wait at a rendezvous. -/
def State.waitersAt (s : State) (key id : Nat) : List (Nat × Join) :=
  ((List.range 8).map (key / 8 * 8 + ·)).filterMap fun k =>
    match (s.coreOf k).joinAt with
    | some j => if j.id = id && !j.go && !j.late s.tick then some (k, j) else none
    | none => none

/-- Two members agree on all that a cooperative start shares. -/
def Join.agrees (a b : Join) : Bool :=
  let same := fun er => vget a.img er == vget b.img er
  let t := hType a.op
  a.op == b.op && same 13 && same 4 && same 5 && same 10 &&
  (if hSHA a.img then
    same 2 && same 6 && (!(hEsc t a.fa || hSPA a.img) || same 11)
  else
    same 3 && hPITCH a.img == hPITCH b.img && same 7 && (!(hEsc t a.fb) || same 11))

/-- What the rendezvous of the core in focus has come to. -/
inductive JoinState where
  | waiting | clash (ks : List Nat) | ready (ks : List Nat)
deriving DecidableEq, Repr

def State.joinState (s : State) : JoinState :=
  match s.core.joinAt with
  | none => .waiting
  | some j =>
    if j.go || j.late s.tick then .waiting
    else
      let ws := s.waitersAt s.here j.id
      let ks := ws.map (·.1)
      if ws.any fun w => w.2.mask != j.mask then .clash ks
      else
        let need := (List.range 8).filter j.mask.testBit
        if !(need.all fun k => ks.contains (s.here / 8 * 8 + k)) then .waiting
        else if !(ws.all fun w => j.agrees w.2) then .clash ks
        else
          let banks := ws.foldl (fun (m : BitVec 64) w => m ||| w.2.banks) 0
          if s.bankHeld s.here &&& banks != 0 then .waiting else .ready ks

/-- MSHAPE at the stalled bundle: of each repeat and each re-issue too, which form rendezvous of their own (log 114). -/
def State.joinTrap (s : State) (detail : Nat) : State :=
  let c := { s.core with joinAt := none }
  let pcb := if c.iss.live then c.iss.pcb else c.pc
  State.takeTrap { s with core := c } { cause := 0x09, detail := BitVec.ofNat 32 detail, slot := 7, pcb := pcb, seq := c.seq }

/-- The core in focus has waited too long at its rendezvous. -/
def State.joinLate (s : State) : Bool := match s.core.joinAt with
  | some j => j.late s.tick
  | none => false

/-- A member has waited too long. -/
def execMjoinWaitLimitExpiry (s : State) : Res := if s.joinLate then .next (s.joinTrap 7) else .next s

end Sys2Proof.Machine
end

