-- ==== Sys2Proof/Machine/CopyOps.lean ====
section
/-!
DEFINITION. The C slots: register instructions, starts (spec/10 R250 to R260, R280), `cpost`, `carm` and `cdis` (R268 to
R272), and the steps in which a copy ends, fires and posts (R256, R267 to R270, R278).
-/
namespace Sys2Proof.Machine

/-! ### Registers (spec/10 R251) -/

/-- The slot's operand port takes every A source that is read. -/
def State.loadC (s : State) (a : Src) : State :=
  if a = .ko then s
  else
    let c := s.core
    { s with core := { c with live := { c.live with portC := c.live.portC.set c.unit (s.src c.iss.slot a) } } }

def Core.shadowC (c : Core) : CImg := c.live.cs[c.unit]
def Core.activeC (c : Core) : CImg := c.live.ca[c.unit]

def State.cPutReg (s : State) (er : Fin 9) (v : Word) : State :=
  let c := s.core
  let g := vset c.shadowC er.val (v &&& copyMask er.val)
  { s with core := { c with live := { c.live with cs := c.live.cs.set c.unit g } } }

def execCset (er : Fin 9) (a : Src) (s : State) : Res := .next ((s.loadC a).cPutReg er (s.src s.core.iss.slot a))
def execCseti (er : Fin 9) (v : BitVec 32) (s : State) : Res := .next (s.cPutReg er (v.signExtend 64))

def execCget (d : XReg) (er : Fin 9) (act : Bool) (s : State) : Res :=
  let c := s.core
  .next (s.expose 1 [LWrite.x (physX c.live d) (vget (if act then c.activeC else c.shadowC) er.val)])

/-! ### The set a start works with -/

/-- Explicit: W, then the shadow set; afterwards the advanced active set. -/
def State.cSetUp (s : State) (w : Option (Fin 9 × Src)) : State :=
  let put := fun (s : State) g =>
    { s with core := { s.core with live := { s.core.live with ca := s.core.live.ca.set s.core.unit g } } }
  if s.core.iss.again then put s (cAdvance s.core.activeC)
  else
    let s := match w with
      | some (er, a) => (s.loadC a).cPutReg er (s.src s.core.iss.slot a)
      | none => s
    put s s.core.shadowC

/-- The check of an explicit start: spec/10 R255. -/
def State.cCheck (s : State) (op : CopyOp) (t : XReg) : Bool :=
  !s.core.iss.again && cRefused op t.val s.core.activeC

/-! ### Ranges known at the start -/

/-- Physical runs of n bytes at a place, a page at a time; what `tr` does not translate is left out. -/
def cRuns (tr : Word → Option Nat) (a : Acc) (kind : Nat) : Nat → Int → Nat → List (Nat × Nat)
  | 0, _, _ => []
  | f + 1, at', n =>
    if n = 0 then []
    else if kind = 1 then
      let k := min n (4096 - (at' % 4096).toNat)
      ((tr (BitVec.ofInt 64 at')).map (·, k)).toList ++ cRuns tr a kind f (at' + k) (n - k)
    else
      let sz := if kind = 2 then 2097152 else scratchSize
      let off := wrapOff kind at'
      let k := min n (sz - off)
      let pa := if kind = 2 then winAddr a.key off else scratchAddr (keyDie a.key) (keyCluster a.key) off
      (pa, k) :: cRuns tr a kind f (at' + k) (n - k)

/-- The place of a byte that a copy reads (CSRC, CIDX) or writes (CDST, register 1), where nothing refuses it; the address of an address
group is only translated here, as its own die counts no more than the others. -/
def State.cWhere (s : State) (x : Copy) (er : Nat) (va : Word) : Option Nat :=
  let k := if er = 1 then AKind.wr else .rd
  if x.op == .mred || (x.op == .bcast && er == 1) then (s.cTrans x k va).toOption
  else ((s.accessOnce x.acc k va).toOption.map (·.pa)).filter fun pa => er != 1 || !s.idleRange pa

def State.cRow (s : State) (x : Copy) (er : Nat) (at' : Int) (n : Nat) : List (Nat × Nat) :=
  cRuns (s.cWhere x er) x.acc (cKind x.img er) (n / 4096 + 2) at' n

/-- Source and destination row numbers of a start. -/
def State.cRowNums (s : State) (x : Copy) : List (Option Nat × Nat) :=
  (List.range (cRows x.img)).map fun j => match x.op with
    | .gath | .scat => match s.cIndex x { status := 0, data := [] } {} j with
      | .ok i => (if i = 0xFFFFFFFF then none else some i, j)
      | .error _ => (none, j)
    | _ => (some j, j)

/-- What a start reads and writes, for the rule of spec/05 R147; `ckvc` counts as neither (spec/10 R277). -/
def State.cTouches (s : State) (x : Copy) : List (Nat × Nat) × List (Nat × Nat) :=
  let g := x.img
  let n := cLen g
  let src := fun j : Nat => s.cRow x 0 (cBase g 0 + j * cSStr g) n
  let dst := fun (j m : Nat) => s.cRow x 1 (cBase g 1 + j * cDStr g) m
  let rows := List.range (cRows g)
  let dies := fun (k : AKind) (l : List (Nat × Nat)) =>
    l.flatMap fun r => (diesOf g).filterMap fun d => (s.cOnDie x k d 0 r.1).toOption.map (·, r.2)
  if n = 0 then ([], [])
  else match x.op with
    | .go | .pfd | .arm => (rows.flatMap src, rows.flatMap fun j => dst j n)
    | .fill => ([], rows.flatMap fun j => dst j n)
    | .gath | .scat =>
      let l := (s.cRowNums x).filterMap fun p => p.1.map (·, p.2)
      let idx := s.cRow x 4 (cIdxBase g) (4 * cRows g)
      (idx ++ l.flatMap (fun p => src (if x.op = .gath then p.1 else p.2)),
       l.flatMap fun p => dst (if x.op = .gath then p.2 else p.1) n)
    | .dx =>
      let k := 2 * (8 * n / cEW g)
      (rows.flatMap src ++ s.cRow x 4 (cIdxBase g) ((cRows g * k + 7) / 8),
       if cfld g 7 9 9 = 0 then rows.flatMap fun j => dst j ((k * cEW g + 7) / 8)
       else (List.range k).flatMap fun j => dst j ((cRows g * cEW g + 7) / 8))
    | .bcast => (rows.flatMap src, dies .wr (rows.flatMap fun j => dst j n))
    | .mred => (dies .rd (rows.flatMap src), dies .wr (rows.flatMap fun j => dst j (n / rtyIn g * rtyOut g)))
    | .net => (rows.flatMap src, [])
    | .kvc | .bgo => ([], [])

/-- Status fixed at issue: an empty copy, a reduction over a die that does not answer as it starts (spec/10 R275), or known ranges
outside BSET. -/
def State.cEarly (s : State) (op : CopyOp) (g : CImg) : Option Int :=
  if op = .bgo then none
  else if cLen g = 0 then some 0
  else if op = .mred && (diesOf g).any (s.dieShut s.acc) then some (-4)
  -- any failure of a `cpfd` is −1 (R263)
  else if op.usesBank && (badOff (vget g 6) (cKnown op g)).isSome then some (if op = .pfd then -1 else -5) else none

/-! ### Starts -/

/-- Entries of a C slot that the withholding buffer takes; STF where it is full (spec/07 R201). -/
def State.enterAll (s : State) (es : List WEntry) : State :=
  if whbMax < s.core.whb.length + es.length then s.trap 0x06 6
  else { s with core := { s.core with whb := s.core.whb ++ es } }

/-- The copy of a start. -/
def State.newCopy (s : State) (op : CopyOp) (t : XReg) (pat : Word) (flag : Nat) (thr : Int) : Copy :=
  let c := s.core
  let g := c.activeC
  let held := op == .arm || op == .net || op == .bgo
  { id := c.nid, slot := c.unit.val, op := op, state := if held then .withheld else .running, img := g, pat := pat,
    tok := if t.val = 0 then none else some (physX c.live t).val, code := t.val, pcb := c.iss.pcb, acc := s.acc,
    task := c.owner, banks := cBanks op g, flag := flag, thr := if thr < 0 then 0 else thr.toNat, hit := false, ord := s.nextId, row0 := 0,
    early := s.cEarly op g, hseq := s.wseq, acq := c.acq, fwd := c.ownBytes, onWay := c.ownBytes.map (·.1), sinceCk := true, disc := false, status := 0,
    faddr := 0, tokDone := false, wrote := [], land := if (vget g 5).getLsbD 31 then some false else none }

/-- Start a copy: spec/10 R255, R260. -/
def State.cStart (s : State) (op : CopyOp) (t : XReg) (w : Option (Fin 9 × Src)) (pat : Word) (flag : Nat) (thr : Int) : Res :=
  let s1 := s.cSetUp w
  if s1.cCheck op t then .next (s.trap 0x02)
  else
    let x := s1.newCopy op t pat flag thr
    let tr := s1.cTouches x
    let s2 := { s1 with core := { s1.core with copies := s1.core.copies ++ [x], nid := s1.core.nid + 1 }, nextId := s1.nextId + 1 }
    let own : List WEntry := match op with
      | .arm => [.carm x.id]
      | .net => [.cnet x.id]
      | .bgo => [.bgo x.id]
      | _ => []
    .next ((s2.trkBytes tr.1 tr.2).enterAll (own ++ if x.land.isSome then [.land x.id] else []))

def execCgo (t : XReg) (w : Option (Fin 9 × Src)) (s : State) : Res := s.cStart .go t w 0 0 0
def execCgath (t : XReg) (w : Option (Fin 9 × Src)) (s : State) : Res := s.cStart .gath t w 0 0 0
def execCscat (t : XReg) (w : Option (Fin 9 × Src)) (s : State) : Res := s.cStart .scat t w 0 0 0
def execCfill (t : XReg) (a : Src) (s : State) : Res := (s.loadC a).cStart .fill t none (s.src s.core.iss.slot a) 0 0
def execCbcast (t : XReg) (w : Option (Fin 9 × Src)) (s : State) : Res := s.cStart .bcast t w 0 0 0
def execCdx (t : XReg) (w : Option (Fin 9 × Src)) (s : State) : Res := s.cStart .dx t w 0 0 0
def execCpfd (t : XReg) (w : Option (Fin 9 × Src)) (s : State) : Res := s.cStart .pfd t w 0 0 0
def execCarm (t : XReg) (f : Fin 32) (n : BitVec 16) (s : State) : Res :=
  s.cStart .arm t none 0 f.val (if s.core.iss.again then s.core.iss.thr else n.toNat)
def execCmred (t : XReg) (w : Option (Fin 9 × Src)) (s : State) : Res := s.cStart .mred t w 0 0 0
def execCkvc (t : XReg) (w : Option (Fin 9 × Src)) (s : State) : Res := s.cStart .kvc t w 0 0 0
def execCnet (t : XReg) (w : Option (Fin 9 × Src)) (s : State) : Res := s.cStart .net t w 0 0 0
def execBgo (t : XReg) (a : Src) (s : State) : Res := (s.loadC a).cStart .bgo t none (s.src s.core.iss.slot a) 0 0

/-! ### `cdis` and `cpost` (spec/10 R268, R272) -/

def execCdis (t : XReg) (s : State) : Res :=
  let c := s.core
  .next (s.enterAll [.cdis c.unit.val (physX c.live t).val])

def execCpost (t : Src) (f : Fin 32) (n : BitVec 16) (set : Bool) (s : State) : Res :=
  let xt := s.src s.core.iss.slot t
  let s1 := s.loadC t
  let key := natBits xt.toNat 9 0
  if natBits xt.toNat 63 10 != 0 || decide (80 < keyIdx key) then .next (s.trap 0x06 5 xt)
  else
    let c := s1.core
    let p : CPost := { id := c.nid, slot := c.unit.val, pcb := c.iss.pcb,
                       post := { key := key, flag := f.val, amt := n.toNat, set := set }, acc := s.acc, released := false,
                       after := [] }
    .next ({ s1 with core := { c with cposts := c.cposts ++ [p], nid := c.nid + 1 } }.enterAll [.cpost c.nid])

/-! ### Copies end -/

/-- A copy of the core in focus ends. The far side of a region-0x8 copy answers with `reply`; the first time, a free value may let a part
of its bytes be seen before it ends (spec/12 R330). -/
def execCopyCompletion (id : Nat) (reply : Remote) (s : State) : Res :=
  match s.copyOf id with
  | none => .next s
  | some x =>
    if x.state == .running && x.op != .bgo && x.op != .net then
      match x.rest with
      | some r => .next (s.endCopy s.here x (s.cRest x r))
      | none =>
        if x.inParts && s.cRemote x && s.free 1 (2 ^ 61 - 1) == 1#1 then .next (s.copyPart s.here x (s.cFinish x reply))
        else .next (s.endCopy s.here x (s.cFinish x reply))
    else .next s

/-- Copies whose status issue fixed end before the next bundle issues (spec/10 R255, R259). -/
def State.endEarly (s : State) : State :=
  (s.core.copies.filter fun x => x.state == .running && x.early.isSome && !x.cut).foldl
    (fun s x => s.endCopy s.here x (s.cFinish x { status := 0, data := [] })) s

/-- Read the rows of a send. -/
def State.cnetRows (s : State) (x : Copy) : Nat → Nat → Except CErr Unit
  | 0, _ => .ok ()
  | n + 1, r =>
    match s.cRead x { status := 0, data := [] } {} (cKind x.img 0) (cBase x.img 0 + r * cSStr x.img) (rowTag r) (cLen x.img) 0 with
    | .error e => .error e
    | .ok _ => s.cnetRows x n (r + 1)

/-- The peer acknowledges the whole message or refuses it, or the transport gives up (spec/10 R278, spec/21 R415). -/
def execCnetCompletion (id : Nat) (how : CnetEnd) (s : State) : Res :=
  match s.copyOf id with
  | none => .next s
  | some x =>
    if x.state == .running && x.op == .net then
      let r : CRes := match x.early with
        | some _ => s.cFinish x { status := 0, data := [] }
        | none => match s.cnetRows x (cRows x.img) 0 with
          | .error e => { ws := [], status := e.1, done := 0, faddr := e.2 }
          | .ok _ =>
            -- with every Chimney it may take gone, the transport gives up
            let st : Int := if (s.cnetWays x).isEmpty then -4 else match how with
              | .acked => (cRows x.img * cLen x.img : Nat)
              | .refused => -3
              | .gaveUp => -4
            { ws := [], status := st, done := 0, faddr := if st < 0 then BitVec.ofInt 64 (cIdxBase x.img) else 0 }
      .next (s.endCopy s.here x r)
    else .next s

/-! ### Landing posts and `cpost` -/

/-- A post that a copy engine makes is refused: −3, or −4 where its target is fenced or absent (spec/07 R202). -/
def State.engPostRefused (s : State) (a : Acc) (p : Post) : Option Int :=
  let l : Loc := .win (.flags p.key 0)
  if 80 < keyIdx p.key then some (-3)
  else if s.pathShut a l then some (-4)
  else if !s.granted a .wr (flagAddr p.key p.flag) l then some (-3) else none

def landPost (g : CImg) : Post :=
  { key := cfld g 5 29 20, flag := cfld g 5 4 0, amt := cfld g 5 19 5, set := cfld g 5 30 30 == 1 }

/-- Its copy has ended well and its entry is released. -/
def Copy.landDue (x : Copy) : Bool := x.state == .ended && x.tokDone && x.land == some true

def State.clearLand (s : State) (id : Nat) : State :=
  let cs := s.core.copies.map fun x : Copy => if x.id == id then { x with land := none } else x
  { s with core := Core.tidy { s.core with copies := cs } }

def execLandingPostDelivery (id : Nat) (s : State) : Res :=
  match s.copyOf id with
  | none => .next s
  | some x =>
    if !x.landDue then .next s
    else
      let s1 := s.clearLand id
      let p := landPost x.img
      -- a release: the stores of this core released before it come first (spec/12 R325)
      let s1 := s1.flushRel s.here
      if x.far then .next s1
      else match s.engPostRefused x.acc p with
        | some st =>
          let s2 := s.flushRel s.here
          let s3 := s2.logFault s.here x.slot x.img 0 st (BitVec.ofNat 64 (flagAddr p.key p.flag)) x.op.code x.code x.acc.ctx
          .next ((s3.setCopy s.here { x with land := none, logged := true }).modCore s.here Core.tidy)
        | none => .next (s1.doPost p)

/-- Every copy it waits for has written its token. -/
def Core.cpostDue (c : Core) (p : CPost) : Bool :=
  p.released && p.after.all fun i => !(c.copies.any fun x => x.id == i && !x.tokDone)

def execCpostDelivery (id : Nat) (s : State) : Res :=
  match s.core.cposts.find? (fun p => p.id == id) with
  | none => .next s
  | some p =>
    if !s.core.cpostDue p then .next s
    else
      let s1 := { s with core := { s.core with cposts := s.core.cposts.filter fun q => q.id != id } }
      match s.engPostRefused p.acc p.post with
      | some st =>
        .next (s1.logFault s.here p.slot (.replicate 9 0) 0 st (BitVec.ofNat 64 (flagAddr p.post.key p.post.flag)) 0x05 0 p.acc.ctx)
      | none => .next ((s1.flushRel s.here).doPost p.post)

/-! ### Armed copies fire (spec/10 R269, R270) -/

/-- Of the armed copies of the core in focus whose threshold was met and whose banks and slot are free, the first by the moment it was met,
then by the order of arming. -/
def State.armNext (s : State) : Option Copy :=
  let before := fun x y : Copy => decide (x.hitAt < y.hitAt) || (x.hitAt == y.hitAt && decide (x.id < y.id))
  (s.core.copies.filter (s.armFree s.here)).foldl (fun b x => match b with
    | none => some x
    | some y => some (if before x y then x else y)) none

/-- A copy that waited in its arm entry for its banks or its slot starts. -/
def execArmedCopyFire (id : Nat) (s : State) : Res :=
  match s.armNext with
  | some x => if x.id = id then .next (s.startNow s.here x) else .next s
  | none => .next s

end Sys2Proof.Machine
end

