-- ==== Sys2Proof/Machine/Stream.lean ====
section
/-!
DEFINITION. Stream contexts and their five instructions (spec/11 R295 to R303, spec/01 R30, spec/17 R338), and the arrival
of a frame (spec/21 R415).
-/
namespace Sys2Proof.Machine

/-! ### The context (spec/11 R295) -/

/-- The fields of a context that the device reads; `ok` says that its RSV fields are zero and its ranges hold (R297). -/
structure SCtx where
  pa   : Nat
  g    : Nat
  p    : Nat
  tb   : Int × Nat
  lpol : Bool
  dep  : Nat
  kvl  : Nat
  lf   : Nat
  head : Nat
  tail : Nat
  frl  : Nat
  frb  : Word
  snb  : Word
  sns  : Nat
  tkl  : Nat
  tkb  : Word
  w40  : Nat
  ok   : Bool
deriving DecidableEq, Repr

/-- A 48-bit base address, sign-extended (log 14). -/
def va48 (n : Nat) : Word := (BitVec.ofNat 48 n).signExtend 64

/-- Read a context at its home. -/
def State.sctx (s : State) (pa : Nat) : SCtx :=
  let w := fun o => rdNat s.mem (pa + o) 8
  let tb := match qVal (w 8 % 2 ^ 32) with
    | .rat n d => (n, d)
    | _ => (0, 1)
  let c : SCtx := {
    pa := pa, g := natBits (w 0) 31 0, p := natBits (w 0) 63 32, tb := tb, lpol := (w 8).testBit 32
    dep := natBits (w 8) 47 40, kvl := natBits (w 0x10) 31 0, lf := natBits (w 0x10) 63 32
    head := natBits (w 0x18) 31 0, tail := natBits (w 0x18) 63 32
    frl := natBits (w 0x20) 55 48, frb := va48 (w 0x20), snb := va48 (w 0x28), sns := natBits (w 0x30) 31 0
    tkl := natBits (w 0x38) 55 48, tkb := va48 (w 0x38), w40 := w 0x40, ok := false }
  let rsv := natBits (w 8) 63 48 + natBits (w 8) 39 34 + natBits (w 0x20) 63 56 + natBits (w 0x28) 63 48 +
    natBits (w 0x30) 63 32 + natBits (w 0x38) 63 56 + rdNat s.mem (pa + 0x48) 0x38
  { c with ok := rsv == 0 && decide (1 ≤ c.dep) && decide (c.dep ≤ 64) && decide (c.frl ≤ 16) && decide (c.tkl ≤ 24) &&
      c.sns != 0 && c.sns % 64 == 0 && decide (0 < tb.1) }

/-- A counter of the word at 0x40, by its low bit, stops at 0xFFFF. -/
def SCtx.count (c : SCtx) (lo : Nat) : SCtx :=
  if natBits c.w40 (lo + 15) lo = 0xFFFF then c else { c with w40 := c.w40 + 2 ^ lo }

/-- LATEC, CLAMPC, TRC and DROPC. -/
def lowLATEC : Nat := 0
def lowCLAMPC : Nat := 16
def lowTRC : Nat := 32
def lowDROPC : Nat := 48

/-- Put bytes of this core at their homes. -/
def State.putOwn (s : State) (ps : List Nat) (bs : List Byte) : State :=
  let s := s.putAt ps bs
  { s with core := { s.core with lastWr := lastPut s.core.lastWr ps s.wseq } }

/-- Store the fields that stream instructions change. -/
def State.putSctx (s : State) (c : SCtx) : State :=
  let s := s.performStore s.here c.pa (leBytes 4 c.g ++ leBytes 4 c.p)
  let s := s.performStore s.here (c.pa + 0x10) (leBytes 4 c.kvl ++ leBytes 4 c.lf ++ leBytes 4 c.head)
  s.performStore s.here (c.pa + 0x40) (leBytes 8 c.w40)

/-- The context a stream instruction names, after this core's earlier stores to it; or its trap's cause, detail. A
malformed context's LDF carries DETAIL kind 3 (log 31). -/
def State.sctxAt (s : State) (ea : Word) : Except (Nat × Nat) (State × SCtx) :=
  if ea.toNat % 256 ≠ 0 then .error (0x07, 0)
  else match s.access s.acc .rw (.lslot true) ea (s.core.utag 120) with
    | .error k => .error (0x05, k)
    | .ok t =>
      let s := s.flushBytes t.pa 256
      let c := s.sctx t.pa
      if c.ok then .ok (s, c) else .error (0x05, 3)

/-! ### Truncation (spec/11 R300) -/

/-- Truncate to i: the context, the snapshot's address, and whether it is older than the ring. -/
def SCtx.truncate (c : SCtx) (i : Nat) : SCtx × Word × Bool :=
  let deep := decide (c.dep < c.g - i)
  let snap := if deep then 0 else c.snb + BitVec.ofNat 64 (c.sns * (i % c.dep))
  (({ c with g := i, kvl := min c.kvl i }).count lowTRC, snap, deep)

/-- What a stream instruction leaves: context, destination, `lq`, pair value, trap. -/
structure SRes where
  c    : SCtx
  xd   : Word
  lq   : Word
  pair : Bool
  trap : Option Nat
deriving DecidableEq, Repr

def framePos (c : SCtx) (t : Nat) : Option Nat :=
  match qVal t with
  | .rat n d =>
    -- ⌈(n/d) / (tbn/tbd)⌉, clamped
    let num : Int := n * c.tb.2
    let den : Int := d * c.tb.1
    let k : Int := -((-num) / den)
    some (if k < 0 then 0 else min (2 ^ 32 - 1) k.toNat)
  | _ => none

def frameNeg (t : Nat) : Bool :=
  match qVal t with
  | .rat n _ => decide (n < 0)
  | _ => false

/-- Take a frame that arrived at t. -/
def SCtx.frame (c : SCtx) (t : Nat) : SRes :=
  let c := { c with head := (c.head + 1) % 2 ^ 32 }
  let pos := (framePos c t).getD c.p
  let late := (framePos c t).isNone || frameNeg t || decide (pos < c.p)
  if late && !c.lpol then { c := c.count lowLATEC, xd := BitVec.ofNat 64 pos, lq := 0, pair := false, trap := some 0x0B }
  else
    let i := if late then c.p else pos
    let c := if late then c.count lowCLAMPC else c
    let c := { c with lf := i }
    if i < c.g then
      let r := c.truncate i
      { c := r.1, xd := BitVec.ofNat 64 i, lq := r.2.1, pair := true, trap := if r.2.2 then some 0x0C else none }
    else { c := c, xd := BitVec.ofNat 64 i, lq := 0, pair := true, trap := none }

/-- `strunc` to i: spec/11 R301. -/
def SCtx.cut (c : SCtx) (i : Nat) : SRes :=
  if i < c.p && !c.lpol then { c := c.count lowLATEC, xd := 0, lq := 0, pair := false, trap := some 0x0B }
  else
    let late := decide (i < c.p)
    let c := if late then c.count lowCLAMPC else c
    let i := if late then c.p else i
    if c.g ≤ i then { c := c, xd := 0, lq := 0, pair := false, trap := none }
    else
      let r := c.truncate i
      { c := r.1, xd := BitVec.ofNat 64 i, lq := r.2.1, pair := false, trap := if r.2.2 then some 0x0C else none }

/-! ### The instructions (spec/11 R297 to R303) -/

/-- LATEF or TRDEP of an instruction that has been performed, with its results (R291). A trap that ranks earlier, of what lands first
among them (spec/20 R385), is taken instead, and this one is raised when the bundle issues again. -/
def State.streamTrap (s : State) (cause : Nat) (v lq : Word) (pair : Option Bool) : State :=
  let tr2 : BitVec 2 := match pair with
    | some b => if b then 3 else 2
    | none => 0
  let s := s.landEverything
  let t : TrapInfo := { cause := cause, slot := 4, pcb := s.core.iss.pcb, seq := s.core.seq, addr := 0, once := some (v, lq, tr2) }
  let mine := s.core.dueTrap t == t
  (s.setOnce 0 { s.once 0 with trapped := mine, owed := if mine then 0 else cause }).takeTrap t

/-- Results of a once-only stream instruction that has been performed. -/
def State.streamDone (s : State) (d : XReg) (p : Option Pair) (r : SRes) : Res :=
  let pair := p.map fun _ => r.pair
  let s1 := (s.putSctx r.c).onceDone 0 r.xd r.lq pair
  match r.trap with
  | none => .next (s1.deliver (some d) r.xd (some r.lq) (p.map fun p => (p, r.pair)))
  | some cause => .next (s1.streamTrap cause r.xd r.lq pair)

/-- The same from the once record. -/
def State.streamAgain (s : State) (d : XReg) (p : Option Pair) (r : OnceRec) : Res :=
  if r.owed ≠ 0 then .next (s.streamTrap r.owed r.val r.aux r.pair)
  else .next (s.deliver (some d) r.val (some r.aux) (p.map fun p => (p, r.pair.getD false)))

/-- The arrival time of the frame at HEAD, whose entry is part of the one strong access (R297): from the ring, or in replay from its record;
none where the ring is empty. -/
def State.nextFrame (s : State) (c : SCtx) : Except (Option (Nat × Word)) (State × Option Nat) :=
  if s.repMode = 2 then
    match s.nextRec inputKind with
    | some r =>
      if r.kind = 3 then .ok (s.consume r, some (r.value.toNat % 2 ^ 32))
      else if r.kind = 1 then .ok (s, none)
      else .error none
    | none => .error none
  else if c.head = c.tail then .ok (s, none)
  else
    let va := c.frb + BitVec.ofNat 64 (16 * (c.head % 2 ^ c.frl))
    match s.vaddrs s.acc .rw (.lslot true) va (2 ^ 50) 16 0 with
    | .error e => .error (some e)
    | .ok ps =>
      let s1 := s.flushBytes (ps.headD 0) 16
      .ok (s1, some (leNat ((ps.take 4).map fun a => s1.homeByte a (2 ^ 50))))

def execSframe (d : XReg) (p : Option Pair) (b : Src) (s : State) : Res :=
  let ea := s.src .l b
  let s1 := s.loadL b
  let r := s.once 0
  if r.done then s1.streamAgain d p r
  else match s1.sctxAt ea with
    | .error e => .next (s.trap e.1 e.2 ea)
    | .ok (s2, c) =>
      match s2.nextFrame c with
      | .error none => .next s.diverge
      | .error (some e) => .next (s.trap 0x05 e.1 e.2)
      | .ok (s3, none) =>
        .next ((s3.onceDone 0 (-1) 0 (p.map fun _ => false)).deliver (some d) (-1) (some 0) (p.map fun p => (p, false)))
      | .ok (s3, some t) => (s3.logRec 3 t c.head).streamDone d p (c.frame t)

def execStrunc (d : XReg) (b i : Src) (s : State) : Res :=
  let ea := s.src .l b
  let n := (s.src .l i).toNat % 2 ^ 32
  let s1 := s.loadL b
  let r := s.once 0
  if r.done then s1.streamAgain d none r
  else match s1.sctxAt ea with
    | .error e => .next (s.trap e.1 e.2 ea)
    | .ok (s2, c) => s2.streamDone d none (c.cut n)

/-- G after an append. At 2^32 − 1, where the cursor has no successor, it is a free value from P on: P ≤ G holds (spec/01 R30, log
79). -/
def State.gNext (s : State) (c : SCtx) : Nat :=
  if c.g + 1 < 2 ^ 32 then c.g + 1 else c.p + s.freeNat (s.core.utag 121) % (2 ^ 32 - c.p)

def execSgen (p : Pair) (b v : Src) (s : State) : Res :=
  let ea := s.src .l b
  let x := (s.src .l v).toNat
  let s1 := s.loadL b
  let r := s.once 0
  let out := fun (s : State) (b : Bool) => s.deliver none 0 none (some (p, b))
  if r.done then .next (out s1 (r.pair.getD false))
  else match s1.sctxAt ea with
    | .error e => .next (s.trap e.1 e.2 ea)
    | .ok (s2, c) =>
      let q := natBits x 63 32
      if q = c.g && decide (c.g - c.p < 2 ^ c.tkl) then
        let va := c.tkb + BitVec.ofNat 64 (4 * (q % 2 ^ c.tkl))
        match s2.vaddrs s2.acc .rw (.lslot true) va (2 ^ 50) 4 0 with
        | .error e => .next (s.trap 0x05 e.1 e.2)
        | .ok ps =>
          let s3 := (s2.flushBytes (ps.headD 0) 4).putOwn ps (leBytes 4 x)
          let s4 := s3.putSctx { c with g := s3.gNext c }
          .next (out (s4.onceDone 0 0 0 (some true)) true)
      else .next (out (s2.onceDone 0 0 0 (some false)) false)

def execSadv (d : XReg) (b n : Src) (s : State) : Res :=
  let ea := s.src .l b
  let x := (s.src .l n).toNat % 2 ^ 32
  match (s.loadL b).sctxAt ea with
  | .error e => .next (s.trap e.1 e.2 ea)
  | .ok (s2, c) =>
    let p := min (max c.p x) c.g
    .next ((s2.putSctx { c with p := p }).deliver (some d) (BitVec.ofNat 64 p) none none)

def SCtx.sel (c : SCtx) (n : Fin 7) : Nat :=
  match n with
  | 0 => c.g
  | 1 => c.p
  | 2 => c.head
  | 3 => c.tail
  | 4 => c.kvl
  | 5 => c.lf
  | 6 => c.w40

def execScur (d : XReg) (b : Src) (sel : Fin 7) (s : State) : Res :=
  let ea := s.src .l b
  match (s.loadL b).sctxAt ea with
  | .error e => .next (s.trap e.1 e.2 ea)
  | .ok (s2, c) => .next (s2.deliver (some d) (BitVec.ofNat 64 (c.sel sel)) none none)

/-! ### A frame arrives (spec/21 R415) -/

/-- A receive segment: spec/21 R414. -/
structure RxSeg where
  en   : Bool
  ring : Bool
  base : Word
  ctx  : Nat
  pbuf : Word
  psz  : Nat
deriving DecidableEq, Repr

def State.rxSeg (s : State) (n : Nat) : RxSeg :=
  let lo := (s.dget 0 (offRXSEG + 16 * n)).toNat
  let hi := (s.dget 0 (offRXSEG + 16 * n + 8)).toNat
  { en := lo.testBit 63, ring := lo.testBit 62, base := va48 lo, ctx := natBits hi 63 48,
    pbuf := va48 (natBits hi 47 6 * 64), psz := natBits hi 4 0 }

/-- The master of arrivals under a context: the user mode but for context 0 (log 54). -/
def State.rxAcc (s : State) (ctx : Nat) : Acc := s.ctxAcc s.here ctx (ctx == 0)

/-- The status with which a refused arrival ends its sender's copy: −2 for a page fault, else −3 (spec/21 R414). -/
def rxStatus (kind : Nat) : Int := if cStatus kind = -2 then -2 else -3

/-- An arrival is refused. -/
def State.rxRefuse (s : State) (st : Int) : State := { s with rxStat := st }

/-- A frame whose payload and entry have been taken: they land in parts, as a free value says, or at once; TAIL follows. -/
def State.takeFrame (s : State) (f : Frame) : State :=
  if s.free 1 (2 ^ 61 - 5) = 1#1 then { s with frames := s.frames ++ [f] } else (s.putRest f.rest.at0 f.rest.ws).frameTail f

/-- Frames that satisfy `p` are placed whole. -/
def State.endFrames (s : State) (p : Frame → Bool) : State :=
  (s.frames.filter p).foldl (fun s f => (s.putRest f.rest.at0 f.rest.ws).frameTail f) { s with frames := s.frames.filter fun f => !p f }

/-- A frame at a kind-1 segment, after the ones before it. One that is refused, or whose ring is full, leaves no entry; its sender learns
the one from −3 or −2 and not the other (log 104). -/
def execFrameArrival (seg : Nat) (data : List Byte) (s : State) : Res :=
  let g := s.rxSeg (seg % 16)
  let a := s.rxAcc g.ctx
  let pay := data.drop 8
  -- the Chimneys of a fenced die receive nothing (spec/18 R351)
  if s.fenced (keyDie s.here) then .next s
  else if !(g.en && g.ring) || decide (data.length < 8) || decide (2 ^ g.psz < pay.length) then .next (s.rxRefuse (-3))
  else match s.access a .rw (.lslot true) g.base (2 ^ 50) with
    | .error k => .next (s.rxRefuse (rxStatus k))
    | .ok t =>
      let s := State.endFrames { s with rxStat := 0 } fun f => f.pa == t.pa
      let c := s.sctx t.pa
      if (c.tail + 2 ^ 32 - c.head) % 2 ^ 32 = 2 ^ c.frl then
        .next (s.wrNat (t.pa + 0x40) 8 (c.count lowDROPC).w40)
      else
        let slot := c.tail % 2 ^ c.frl
        let pva := g.pbuf + BitVec.ofNat 64 (2 ^ g.psz * slot)
        let eva := c.frb + BitVec.ofNat 64 (16 * slot)
        match s.vaddrs a .wr .copy pva (2 ^ 49) pay.length 0, s.vaddrs a .wr .copy eva (2 ^ 48) 16 0 with
        | .ok ps, .ok es =>
          let entry := data.take 4 ++ leBytes 4 pay.length ++ leBytes 6 pva.toNat ++ leBytes 2 0
          .next (s.takeFrame { die := keyDie s.here, ctx := g.ctx, pa := t.pa, tail := (c.tail + 1) % 2 ^ 32,
                               rest := { at0 := s.ctr, ws := ps.zip pay ++ es.zip entry } })
        | .error e, _ => .next (s.rxRefuse (rxStatus e.1))
        | _, .error e => .next (s.rxRefuse (rxStatus e.1))

end Sys2Proof.Machine
end

