-- ==== Sys2Proof/Machine/Saffron.lean ====
section
/-!
DEFINITION. Saffron: taking a request (spec/11 R304 to R306) and its instructions `smpl`, `sacc` and `srng` (R307 to R309).
-/
namespace Sys2Proof.Machine

/-! ### Taking a request -/

/-- END: a transfer to it ends the request (spec/11 R305). -/
def saffronEnd : Word := 0x00007FFFFFFFFFFC

/-- The scalar state a task begins with: spec/03 R90. -/
def Live.start (args : Word) : Live := { Live.reset with x := Live.reset.x.set 2 args }

/-- TCW of a context as its core takes it: spec/18 R343. -/
def ctxTcw (ctx cfg : Nat) : Word :=
  BitVec.ofNat 64 (ctx % 2 ^ 16 * 2 ^ 48 + natBits cfg 34 32 * 2 ^ 32 + natBits cfg 1 1 * 2 + (if ctx = 0 then 1 else 0))

/-- Record a request that is not run. -/
def State.srqfPut (s : State) (cause : Nat) (msg : Word) : State :=
  { s with core := { s.core with srqf := srqfRecord s.core.srqf cause msg } }

/-- Reserved fields of a request descriptor, and the core that RDY names. -/
def requestOk (d : Nat) : Bool :=
  let rdy := natBits d 287 256
  natBits d 319 288 == 0 && natBits d 511 384 == 0 && natBits rdy 14 12 == 0 && decide (natBits rdy 11 5 ≤ 80)

/-- Begin a request whose descriptor has been read. -/
def State.beginRequest (s : State) (msg : Word) (d : Nat) : State :=
  let w := fun o => BitVec.ofNat 64 (natBits d (8 * o + 63) (8 * o))
  let seed := w 0x10
  let live := Live.start (w 8)
  let live := { live with x := live.x.set 1 saffronEnd }
  let r : SReq := { msg := msg, stat := w 0x18, rdy := BitVec.ofNat 32 (natBits d 287 256), tag := w 0x28 }
  let s : State := { s with core := { s.core with
    phase := .run, live := live, dup := live, pc := w 0, sreq := some r, iss := {}, sticky := .replicate 5 none,
    pend := s.core.pend.filter fun t => t.cause == 0x1F,
    land := [], outst := [], fence := none, icnt := 0, ckpt := w 0, ifseq := s.wseq } }
  if seed ≠ 0 then { s with core := { s.core with sr := seed } }
  else if s.repMode = 2 then
    match s.replayed 4 with
    | some (e, s1) => { s1 with core := { s1.core with sr := e.value } }
    | none => s.diverge
  else
    let v : Word := s.free 64 (2 ^ 47)
    ({ s with core := { s.core with sr := v } }).logRec 4 v.toNat 0

/-- Saffron in focus takes the next message of its queue; a request that is not run is recorded in SRQF. A queue with
EN = 0 delivers nothing (spec/19 R379). -/
def execSaffronRequestTake (s : State) : Res :=
  if !(s.onSaffron && s.core.phase == .idle && s.qEnabled (keyDie s.here) (112 + keyCluster s.here)) then .next s
  else match s.qTake (keyDie s.here) (112 + keyCluster s.here) with
    | none => .next s
    | some (m, s1) =>
      let cfg := s1.ctxCfg (keyDie s.here) m.ctx
      let s2 := { s1 with core := { s1.core with
        tcw := ctxTcw m.ctx cfg, ptroot := s1.ctxRoot (keyDie s.here) m.ctx, accid := natBits cfg 15 8, quota := s1.ctxQuota (keyDie s.here) m.ctx,
        acq := s1.wseq } }
      if m.val.toNat % 64 ≠ 0 then .next (s2.srqfPut 0x07 m.val)
      else match s2.vread s2.acc (.lslot true) m.val 64 (2 ^ 46) with
        | .error _ => .next (s2.srqfPut 0x05 m.val)
        | .ok bs =>
          let d := leNat bs
          if requestOk d then .next (s2.beginRequest m.val d) else .next (s2.srqfPut 0x05 m.val)

/-! ### Weak reads of data and descriptors -/

/-- Read n bytes weakly at a virtual address; where and why it fails. -/
def State.wread (s : State) (va : Word) (tag : Nat) : Nat → Nat → Except (Nat × Word) (List Byte)
  | 0, _ => .ok []
  | n + 1, i =>
    let v := va + BitVec.ofNat 64 i
    match s.access s.acc .rd (.lslot false) v (tag + i) with
    | .error k => .error (k, v)
    | .ok t =>
      match s.wread va tag n (i + 1) with
      | .error e => .error e
      | .ok l => .ok (s.loadByte s.core t.pa t.cl s.core.acq (tag + i) :: l)

def State.wreadN (s : State) (va : Word) (tag n : Nat) : Except (Nat × Word) Nat := (s.wread va tag n 0).map leNat

/-! ### The generator -/

/-- Draw 24 bits: spec/11 R307. -/
def State.sDraw (s : State) : Nat × State :=
  let x := sgStep s.core.sr
  (sgOut x, { s with core := { s.core with sr := x } })

/-! ### `smpl` (spec/11 R308) -/

/-- Fields of a sample descriptor. -/
structure SDesc where
  vals  : Word
  ids   : Word
  mask  : Word
  maskn : Nat
  temp  : QV
  k     : Nat
  rsv   : Nat

def SDesc.of (d : Nat) : SDesc where
  vals := BitVec.ofNat 64 (natBits d 63 0)
  ids := BitVec.ofNat 64 (natBits d 127 64)
  mask := BitVec.ofNat 64 (natBits d 191 128)
  maskn := natBits d 223 192
  temp := qVal (natBits d 255 224)
  k := natBits d 263 256
  rsv := natBits d 511 264

/-- A temperature that is negative or NaR. -/
def badTemp : QV → Bool
  | .nar => true
  | .inf s => s
  | .rat n _ => decide (n < 0)

def zeroTemp : QV → Bool
  | .rat n _ => n == 0
  | _ => false

/-- A finite f32 in units of 2^−149. -/
def f32Units (x : FV) : Int :=
  match x with
  | .fin s n e => sgn s (shl2 n (e + 149))
  | _ => 0

/-- f32 code of (v − m) × L2E × d/n for v ≤ m: spec/11 R308. -/
def scoreCode (v m : FV) (temp : QV) : Nat :=
  match temp with
  | .rat n d =>
    if fvEq v m then 0
    else if v.isInf then fmtF32.inf true
    else
      -- L2E is 0xB8AA3B × 2^−23
      let num := (f32Units m - f32Units v).toNat * 0xB8AA3B * d
      (fmtF32.round {} true num n.toNat (-172) false).1
  | _ => 0

/-- Weight of a candidate, in units of 2^−149. -/
def weight (x : Nat) : Nat := (f32Units (fmtF32.val (spExp2 x).1)).toNat

/-- Candidates allowed by the mask: their index is their order. -/
def State.sMasked (s : State) (d : SDesc) : List (Nat × Nat) → Nat → Except (Nat × Word) (List (Nat × FV))
  | [], _ => .ok []
  | (v, id) :: l, j =>
    let x := fmtF32.val v
    let bit : Except (Nat × Word) Bool :=
      if x.isNan then .ok false
      else if d.mask = 0 then .ok true
      else if d.maskn ≤ id then .ok false
      else (s.wreadN (d.mask + BitVec.ofNat 64 (id / 8)) (2 ^ 45 + j * 16) 1).map fun b => b.testBit (id % 8)
    match bit, s.sMasked d l (j + 1) with
    | .error e, _ => .error e
    | .ok _, .error e => .error e
    | .ok b, .ok r => .ok (if b then (id, x) :: r else r)

/-- First candidate that the draw selects. -/
def sPick (u total : Nat) : List (Nat × Nat) → Nat → Nat → Nat
  | [], _, last => last
  | (id, w) :: l, acc, _ => if u * total < 2 ^ 24 * (acc + w) then id else sPick u total l (acc + w) id

/-- The token a descriptor gives, or −1 or −2. -/
def State.sample (s : State) (d : SDesc) : Except (Nat × Word) (Int × State) :=
  if d.k = 0 || 64 < d.k || badTemp d.temp || d.rsv != 0 then .ok (-2, s)
  else match s.wread d.vals (2 ^ 44) (4 * d.k) 0 with
    | .error e => .error e
    | .ok vb =>
      match s.wread d.ids (2 ^ 44 + 512) (4 * d.k) 0 with
      | .error e => .error e
      | .ok ib =>
        let at' := fun (l : List Byte) j => leNat ((l.drop (4 * j)).take 4)
        match s.sMasked d ((List.range d.k).map fun j => (at' vb j, at' ib j)) 0 with
        | .error e => .error e
        | .ok [] => .ok (-1, s)
        | .ok (c :: cs) =>
          let m := cs.foldl (fun m x => if fvCmpLt m x.2 then x.2 else m) c.2
          let first := (((c :: cs).find? fun x => fvEq x.2 m).getD c).1
          if zeroTemp d.temp || (m.isInf && fvCmpLt (.fin false 0 0) m) then .ok ((first : Nat), s)
          else
            let ws := (c :: cs).map fun x => (x.1, weight (scoreCode x.2 m d.temp))
            let total := (ws.map (·.2)).foldl (· + ·) 0
            let r := s.sDraw
            .ok ((sPick r.1 total ws 0 0 : Nat), r.2)

/-- Trap of a read or a write of Saffron's own instructions. -/
def State.sFault (s : State) (cause : Nat) (e : Nat × Word) : Res := .next (s.trap cause e.1 e.2)

/-- The descriptor's bytes, aligned. -/
def State.sDesc (s : State) (ea : Word) (k : Nat → Res) : Res :=
  if !s.onSaffron then .next (s.trap 0x02)
  else if ea.toNat % 64 ≠ 0 then .next (s.trap 0x07 0 ea)
  else match s.wreadN ea (2 ^ 43) 64 with
    | .error e => s.sFault 0x05 e
    | .ok d => k d

def execSmpl (d : XReg) (b : Src) (s : State) : Res :=
  let s1 := s.loadL b
  s1.sDesc (s.src .l b) fun n =>
    match s1.sample (SDesc.of n) with
    | .error e => s1.sFault 0x05 e
    | .ok r => .next (r.2.deliver (some d) (BitVec.ofInt 64 r.1) none none)

def execSrng (d : XReg) (s : State) : Res :=
  if !s.onSaffron then .next (s.trap 0x02)
  else
    let s1 := s.sDraw.2
    .next (s1.deliver (some d) s1.core.sr none none)

/-! ### `sacc` (spec/11 R309) -/

/-- A node of the tree: token, draft and target probability, parent, reserved bytes. -/
structure SNode where
  tok : Nat
  q   : FV
  p   : FV
  par : Nat
  rsv : Nat

def SNode.of (n : Nat) : SNode where
  tok := natBits n 31 0
  q := fmtF32.val (natBits n 63 32)
  p := fmtF32.val (natBits n 95 64)
  par := natBits n 103 96
  rsv := natBits n 127 104

/-- u × Q < 2^24 × P with Q above zero, exactly. -/
def accepts (u : Nat) (c : SNode) : Bool :=
  if c.q.isNan || c.p.isNan || !fvCmpLt (.fin false 0 0) c.q then false
  else if c.q.isInf then (if u = 0 then fvCmpLt (.fin false 0 0) c.p else false)
  else if c.p.isInf then fvCmpLt (.fin false 0 0) c.p
  else decide ((u : Int) * f32Units c.q < 2 ^ 24 * f32Units c.p)

/-- Try the children of `cur` in increasing order. -/
def State.sChild (s : State) (ns : List SNode) (cur : Nat) : Nat → Nat → Option Nat × State
  | 0, _ => (none, s)
  | f + 1, c =>
    match ns[c]? with
    | none => (none, s)
    | some x =>
      if x.par = cur then
        let r := s.sDraw
        if accepts r.1 x then (some c, r.2) else r.2.sChild ns cur f (c + 1)
      else s.sChild ns cur f (c + 1)

/-- Store a token of the result. -/
def State.sPut (s : State) (out : Word) (i tok : Nat) : Except (Nat × Word) State :=
  match s.vaddrs s.acc .wr (.lslot false) (out + BitVec.ofNat 64 (4 * i)) (2 ^ 42 + 4 * i) 4 0 with
  | .error e => .error e
  | .ok ps => .ok (s.putOwn ps (leBytes 4 tok))

/-- Walk the accepted path: last node, its length, or the failing store. -/
def State.sWalk (s : State) (ns : List SNode) (out : Word) : Nat → Nat → Nat → Except (State × Nat × Word) (Nat × Nat × State)
  | 0, cur, a => .ok (cur, a, s)
  | f + 1, cur, a =>
    let r := s.sChild ns cur ns.length (cur + 1)
    match r.1 with
    | none => .ok (cur, a, r.2)
    | some c =>
      match r.2.sPut out a ((ns[c]?.map (·.tok)).getD 0) with
      | .error e => .error (r.2, e)
      | .ok s => s.sWalk ns out f c (a + 1)

/-- The bonus token: status, and the token where one was found. -/
def State.sBonus (s : State) (b : Word) (gram : Bool) : Except (Nat × Word) (Nat × Option Nat × State) :=
  if b = 0 then .ok (3, none, s)
  else match s.wreadN b (2 ^ 41) 64 with
    | .error e => .error e
    | .ok n =>
      let d := SDesc.of n
      if d.mask = 0 && gram then .ok (1, none, s)
      else match s.sample d with
        | .error e => .error e
        | .ok (t, s) => if t < 0 then .ok (2, none, s) else .ok (0, some t.toNat, s)

/-- GRAM of the stream context, one strong read of 8 bytes (spec/17 R339), aligned like every strong access (spec/07 R171): the cause,
the kind and the address where it fails. -/
def State.sGram (s : State) (sctx : Word) : Except (Nat × Nat × Word) Bool :=
  if sctx = 0 then .ok false
  else if (sctx + 8).toNat % 8 ≠ 0 then .error (0x07, 0, sctx + 8)
  else match s.vread s.acc (.lslot true) (sctx + 8) 8 (2 ^ 40) with
    | .error k => .error (0x05, k, sctx + 8)
    | .ok bs => .ok ((leNat bs).testBit 33)

def State.sAccept (s : State) (d : XReg) (n : Nat) : Res :=
  let w := fun o => BitVec.ofNat 64 (natBits n (8 * o + 63) (8 * o))
  let nn := natBits n 263 256
  let neg := fun (s : State) => Host.Outcome.next (s.deliver (some d) (-2) none none)
  if nn = 0 || 64 < nn || natBits n 511 264 != 0 then neg s
  else match s.sGram (w 0x18) with
    | .error e => s.sFault e.1 e.2
    | .ok gram =>
      match s.wread (w 0) (2 ^ 39) (16 * nn) 0 with
      | .error e => s.sFault 0x05 e
      | .ok tb =>
        let ns := (List.range nn).map fun c => SNode.of (leNat ((tb.drop (16 * c)).take 16))
        if (ns.any fun x => x.rsv != 0) || (List.range nn).any (fun c => c != 0 && decide (c ≤ (ns[c]?.map (·.par)).getD 0)) then
          neg s
        else match s.sWalk ns (w 0x10) 64 0 0 with
          | .error e => e.1.sFault 0x06 e.2
          | .ok (cur, a, s) =>
            match s.wreadN (w 8 + BitVec.ofNat 64 (8 * cur)) (2 ^ 38) 8 with
            | .error e => s.sFault 0x05 e
            | .ok b =>
              match s.sBonus (BitVec.ofNat 64 b) gram with
              | .error e => s.sFault 0x05 e
              | .ok (st, t, s) =>
                let res := fun (s : State) => Host.Outcome.next
                  (s.deliver (some d) (BitVec.ofNat 64 (a + 256 * cur + 65536 * st)) none none)
                match t with
                | none => res s
                | some t => match s.sPut (w 0x10) a t with
                  | .error e => s.sFault 0x06 e
                  | .ok s => res s

def execSacc (d : XReg) (b : Src) (s : State) : Res :=
  let s1 := s.loadL b
  s1.sDesc (s.src .l b) fun n => s1.sAccept d n

end Sys2Proof.Machine
end

