-- ==== Sys2Proof/Machine/Bellows.lean ====
section
/-!
DEFINITION. Bellows: rank programs of the die in focus (spec/11 R310 to R316, spec/12 R331). Each event runs one step of the
oldest program of the die that stands ready at a step of its kind. Malformed programs and steps past the end fail in
BELLOWS_HALT.
-/
namespace Sys2Proof.Machine

/-! ### Header and steps -/

structure BHead where
  rank  : Nat
  nr    : Nat
  peers : Word
  rec'  : Word
  nstep : Nat
  ok    : Bool
deriving DecidableEq, Repr

/-- A step's fields: spec/11 R311. -/
structure BStep where
  op     : Nat
  rty    : Nat
  lc     : Fin 4
  rop    : Nat
  code   : Bool
  fin    : Bool
  am     : Nat
  co     : Int
  k      : Int
  stride : Nat
  tag    : BitVec 32
  len    : Nat
  addr   : Word
  addr2  : Word
deriving DecidableEq, Repr

def BStep.of (n : Nat) : BStep where
  op := natBits n 7 0
  rty := natBits n 9 8
  lc := ⟨natBits n 11 10 % 4, Nat.mod_lt _ (by decide)⟩
  rop := natBits n 13 12
  code := n.testBit 14
  fin := n.testBit 24
  am := natBits n 26 25
  co := toSigned 5 (natBits n 31 27)
  k := toSigned 32 (natBits n 63 32)
  stride := natBits n 95 64
  tag := BitVec.ofNat 32 (natBits n 127 96)
  len := natBits n 159 128
  addr := va48 (natBits n 207 160)
  addr2 := va48 (natBits n 255 208)

/-- Why a program fails: cause of R316, status, peer. -/
structure BErr where
  cause  : Nat
  status : Int
  peer   : Nat := 0
deriving DecidableEq, Repr

def errPEER (p : Nat) : BErr := { cause := 1, status := -4, peer := p }
def errSTEP : BErr := { cause := 4, status := -3 }
def errSIZE (p : Nat) : BErr := { cause := 5, status := -3, peer := p }
def errRAIL (p : Nat) : BErr := { cause := 6, status := -3, peer := p }
def errEND : BErr := { cause := 7, status := -3 }
def errCODE : BErr := { cause := 8, status := -3 }
def errDENIED (p : Nat) : BErr := { cause := 3, status := -3, peer := p }

/-- The cause of a refused access, by its DETAIL kind. -/
def bErrOf (kind : Nat) : BErr :=
  match cStatus kind with
  | -2 => { cause := 2, status := -2 }
  | -4 => { cause := 1, status := -4 }
  | _ => { cause := 3, status := -3 }

/-- What a program's steps have still to write reaches its home, oldest first, each byte checked as it is written; the status and the step
of the first that is refused now, after which none is. -/
def State.landRests (s : State) (bad : Nat → Option Int) : List Rest → State × Option (Int × Nat)
  | [] => (s, none)
  | q :: qs =>
    match (q.ws.zip (List.range q.ws.length)).findSome? fun p => (bad p.1.1).map fun st => (p.2, st) with
    | none => (s.putRest q.at0 q.ws).landRests bad qs
    | some (i, st) => (s.putRest q.at0 (q.ws.take i), some (st, q.step))

/-- The state as a program itself sees it: its own writes in place. -/
def State.bView (s : State) (r : BRun) : State := (s.landRests (fun _ => none) r.rest).1

/-- Bytes read for a program. -/
def State.bRead (s : State) (r : BRun) (va : Word) (n : Nat) : Except BErr (List Byte) :=
  match (s.bView r).vread r.acc .copy va n (2 ^ 37) with
  | .ok bs => .ok bs
  | .error k => .error (bErrOf k)

/-- A step writes bytes: they are on their way, and replace older ones of the same program that are (spec/12 R330). -/
def State.bWrite (s : State) (r : BRun) (va : Word) (bs : List Byte) : Except BErr BRun :=
  match s.vaddrs r.acc .wr .copy va (2 ^ 37) bs.length 0 with
  | .ok ps =>
    .ok { r with rest := (r.rest.map fun q => q.without ps) ++ [{ at0 := s.ctr, step := r.step, ws := ps.zip bs }] }
  | .error e => .error (bErrOf e.1)

def State.bHead (s : State) (r : BRun) : Except BErr BHead :=
  if r.prog.toNat % 64 ≠ 0 then .error errSTEP
  else (s.bRead r r.prog 64).map fun bs =>
    let n := leNat bs
    let rank := natBits n 31 0
    let nr := natBits n 63 32
    { rank := rank, nr := nr, peers := BitVec.ofNat 64 (natBits n 127 64), rec' := BitVec.ofNat 64 (natBits n 191 128),
      nstep := natBits n 223 192, ok := decide (rank < nr) && decide (nr ≤ 65536) && natBits n 511 224 == 0 }

def State.bStepAt (s : State) (r : BRun) (k : Nat) : Except BErr BStep :=
  (s.bRead r (r.prog + BitVec.ofNat 64 (0x40 + 32 * k)) 32).map fun bs => BStep.of (leNat bs)

/-- The step a program stands at. -/
def State.bNow (s : State) (r : BRun) : Except BErr (BHead × BStep) :=
  match s.bHead r with
  | .error e => .error e
  | .ok h =>
    if !h.ok then .error errSTEP
    else if h.nstep ≤ r.step then .error errEND
    else match s.bStepAt r r.step with
      | .error e => .error e
      | .ok t =>
        if t.op = 0 || 9 < t.op || t.am = 3 then .error errSTEP
        else if (t.op = 1 || t.op = 2 || t.op = 3) && t.code && 2 ≤ t.rty then .error errCODE
        else if t.op = 3 && (t.rty = 3 || t.rop = 3) then .error errSTEP
        else .ok (h, t)

/-- Iteration count of a step's counter. -/
def BRun.it (r : BRun) (t : BStep) : Nat := r.blc[t.lc].2.1

/-- Where a peer stands: a die here, or another device. -/
inductive BPath where
  | die (d : Nat)
  | far
deriving DecidableEq, Repr

/-- What AM adds to an address: spec/11 R311. -/
def bOffset (r : BRun) (h : BHead) (t : BStep) : Word :=
  match t.am with
  | 1 => BitVec.ofNat 64 (t.len * r.it t)
  | 2 => BitVec.ofNat 64 (t.len * (((h.rank : Int) - r.it t + t.co) % h.nr).toNat)
  | _ => 0

/-! ### Peers (spec/11 R312) -/

def bPeer (h : BHead) (t : BStep) (k : Int) : Nat := (((h.rank : Int) + k * t.stride) % h.nr).toNat

def State.bPath (s : State) (r : BRun) (h : BHead) (p : Nat) : Except BErr BPath :=
  match s.bRead r (h.peers + BitVec.ofNat 64 (8 * p)) 8 with
  | .error e => .error e
  | .ok bs =>
    let e := leNat bs
    let dev := natBits e 11 0
    let d := natBits e 14 12
    let own := keyDie r.key
    if natBits e 63 15 != 0 then .error errSTEP
    else if dev = s.device then
      if s.dieShut r.acc d then .error (errPEER p)
      else if d != own && r.acc.accid != 0 && !((s.accEntry own 1 r.acc.accid).testBit d) then .error (errDENIED p)
      else .ok (.die d)
    else if d ≠ own then .error (errRAIL p)
    else if s.fenced own || s.lost.contains dev || s.fabEntry dev = 0 || (s.chimneys own 0).isEmpty then .error (errPEER p)
    else if (s.chimneys own 0).any fun w => s.chimneyGrants r.acc w 0 dev then .ok .far
    else .error (errDENIED p)

/-! ### Messages -/

/-- A message from rank `src` to rank `dst` under a TAG (spec/11 R314). -/
def bIs (m : BMsg) (src dst : Nat) (tag : BitVec 32) : Bool := m.src == src && m.dst == dst && m.tag == tag

/-- A message for a step of rank `dst`: in its die's staging, where those that came before the program started stand, else among the
program's own arrivals, oldest first. -/
def State.bFind (s : State) (r : BRun) (src dst : Nat) (tag : BitVec 32) : Option BMsg :=
  match (s.staging.find? fun p => p.1 == keyDie r.key && bIs p.2 src dst tag).map (·.2) with
  | some m => some m
  | none => r.inbox.find? fun m => bIs m src dst tag

/-- The message leaves where it was held. -/
def State.bDrop (s : State) (r : BRun) (m : BMsg) : State × BRun :=
  if s.staging.contains (keyDie r.key, m) then ({ s with staging := s.staging.erase (keyDie r.key, m) }, r)
  else (s, { r with inbox := r.inbox.erase m })

/-- A step of a die's programs waits for a message. -/
def State.bAwaited (s : State) (d : Nat) (m : BMsg) : Bool :=
  s.bruns.any fun p => p.1 == d && (match s.bNow p.2 with
    | .ok (h, t) => ((t.op == 2 && bIs m (bPeer h t t.k) h.rank t.tag) || (t.op == 3 && bIs m (bPeer h t (-t.k)) h.rank t.tag)) &&
        (s.bFind p.2 m.src h.rank m.tag).isNone
    | .error _ => false)

/-- Bytes of messages that wait on a die for their steps. -/
def State.bStaged (s : State) (d : Nat) : Nat :=
  let own := fun (n : Nat) (m : BMsg) => n + m.data.length
  s.bruns.foldl (fun n p => if p.1 = d then p.2.inbox.foldl own n else n)
    (s.staging.foldl (fun n p => if p.1 = d then own n p.2 else n) 0)

/-- A die takes a message: its staging has room, or a step waits for it (spec/11 R314). -/
def State.bRoom (s : State) (d : Nat) (m : BMsg) : Bool :=
  decide (s.bStaged d + m.data.length ≤ s.stageCap) || s.bAwaited d m

/-- HOPOVF and HOP as a receiver takes them: spec/11 R316. -/
def BRun.takeHop (r : BRun) (ovf : Bool) (hop : Nat) : BRun :=
  if ovf then { r with hopovf := true, hop := if r.hopovf then min r.hop hop else hop } else r

/-- Elements of w bytes. -/
def bElems (w : Nat) (bs : List Byte) : List Nat := (List.range (bs.length / w)).map fun i => leNat ((bs.drop (w * i)).take w)

/-- Bytes on the wire of a step's LEN bytes: RTY 0 travels as f32. -/
def wireLen (t : BStep) : Nat := if t.rty = 0 then 2 * t.len else t.len

def widen (bs : List Byte) : List Byte := (bElems 2 bs).flatMap fun v => leBytes 4 (v * 2 ^ 16)

def f32NonFinite (v : Nat) : Bool :=
  match fmtF32.val v with
  | .fin .. => false
  | _ => true

/-- Send to a peer: staged on a die here, or gone to another device. None while the peer's die has no room for the message. -/
def State.bSend (s : State) (r : BRun) (h : BHead) (t : BStep) (p : Nat) (data : List Byte) (hops : Nat) :
    Except BErr (Option (State × BRun)) :=
  match s.bPath r h p with
  | .error e => .error e
  | .ok .far => .ok (some (s, { r with sent := p :: r.sent }))
  | .ok (.die d) =>
    let m : BMsg := { src := h.rank, dst := p, tag := t.tag, data := data, hopovf := r.hopovf, hop := r.hop, hops := hops }
    .ok (if s.bRoom d m then some ({ s with staging := s.staging ++ [(d, m)] }, r) else none)

/-! ### Steps -/

def bOp (t : BStep) (a b : Nat) : Nat := redOp (if t.rty = 2 then 3 else 2) t.rop a b

/-- A sum of finite values that overflows. -/
def bOvf (t : BStep) (a b c : Nat) : Bool :=
  t.rty != 2 && t.rop == 0 && !f32NonFinite a && !f32NonFinite b && f32NonFinite c

/-- Effect of one step, up to what comes next: the state, the program, and the next step's number. -/
abbrev BRes := Except BErr (State × BRun × Nat)

def State.bSendStep (s : State) (r : BRun) (h : BHead) (t : BStep) : BRes :=
  match s.bRead r (t.addr + bOffset r h t) t.len with
  | .error e => .error e
  | .ok bs =>
    match s.bSend r h t (bPeer h t t.k) (if t.rty = 0 then widen bs else bs) 0 with
    | .error e => .error e
    | .ok none => .ok (s, r, r.step)
    | .ok (some p) => .ok (p.1, p.2, r.step + 1)

def State.bRecvStep (s : State) (r : BRun) (h : BHead) (t : BStep) : BRes :=
  let p := bPeer h t t.k
  match s.bFind r p h.rank t.tag with
  | none => match s.bPath r h p with
    | .error e => .error e
    | .ok _ => .ok (s, r, r.step)
  | some m =>
    if m.data.length ≠ wireLen t then .error (errSIZE p)
    else match s.bWrite r (t.addr + bOffset r h t) m.data with
      | .error e => .error e
      | .ok r0 =>
        let d := s.bDrop r0 m
        let r1 := d.2.takeHop m.hopovf m.hop
        let nf := decide (t.rty ≤ 1) && (bElems 4 m.data).any f32NonFinite
        .ok (d.1, { r1 with nonfinite := r1.nonfinite || nf }, r.step + 1)

/-- The reduced elements of an RRS, each with whether it overflowed. -/
def bReduce (t : BStep) (msg loc : List Byte) : List (Nat × Bool) :=
  let lo := if t.rty = 0 then (bElems 2 loc).map (· * 2 ^ 16) else bElems 4 loc
  ((bElems 4 msg).zip lo).map fun p => (bOp t p.1 p.2, bOvf t p.1 p.2 (bOp t p.1 p.2))

def State.bRrsStep (s : State) (r : BRun) (h : BHead) (t : BStep) : BRes :=
  let p := bPeer h t (-t.k)
  let q := bPeer h t t.k
  match s.bFind r p h.rank t.tag with
  | none => match s.bPath r h p with
    | .error e => .error e
    | .ok _ => .ok (s, r, r.step)
  | some m =>
    if m.data.length ≠ wireLen t then .error (errSIZE p)
    else match s.bRead r (t.addr + bOffset r h t) t.len with
      | .error e => .error e
      | .ok loc =>
        let acc := bReduce t m.data loc
        let hops := m.hops + 1
        let d := s.bDrop r m
        let r1 := (d.2.takeHop m.hopovf m.hop).takeHop (acc.any (·.2)) hops
        if t.fin then
          let w := if t.rty = 0 then 2 else 4
          let out := acc.map fun v => if t.rty = 0 then redOut 0 v.1 else v.1
          let nf := t.rty != 2 && out.any fun v => f32NonFinite (if t.rty = 0 then v * 2 ^ 16 else v)
          match d.1.bWrite r1 (t.addr2 + bOffset r h t) (out.flatMap (leBytes w)) with
          | .error e => .error e
          | .ok r2 => .ok (d.1, { r2 with nonfinite := r2.nonfinite || nf }, r.step + 1)
        else match d.1.bSend r1 h t q (acc.flatMap fun v => leBytes 4 v.1) hops with
          | .error e => .error e
          | .ok none => .ok (s, r, r.step)
          | .ok (some x) => .ok (x.1, x.2, r.step + 1)

def State.bCopyStep (s : State) (r : BRun) (h : BHead) (t : BStep) : BRes :=
  match s.bRead r (t.addr + bOffset r h t) t.len with
  | .error e => .error e
  | .ok bs => match s.bWrite r (t.addr2 + bOffset r h t) bs with
    | .error e => .error e
    | .ok r1 => .ok (s, r1, r.step + 1)

/-- A WAIT stays until its word reaches LEN; the word is read strongly. -/
def State.bWaitStep (s : State) (r : BRun) (h : BHead) (t : BStep) : BRes :=
  match (s.bView r).vread r.acc (.lslot true) (t.addr + bOffset r h t) 8 (2 ^ 37) with
  | .error k => .error (bErrOf k)
  | .ok bs => .ok (s, r, if t.len ≤ leNat bs then r.step + 1 else r.step)

def bPost (t : BStep) : Post :=
  { key := (t.tag.extractLsb' 12 3).toNat * 128 + (t.tag.extractLsb' 5 7).toNat, flag := (t.tag.extractLsb' 0 5).toNat,
    amt := t.len % 2 ^ 16, set := t.tag.getLsbD 15 }

def State.bPostStep (s : State) (r : BRun) (t : BStep) : BRes :=
  let p := bPost t
  match s.engPostRefused r.acc p with
  | some (-4) => .error (errPEER 0)
  | some _ => .error (errDENIED 0)
  | none => .ok (s.doPost p, r, r.step + 1)

/-- Step after the next ENDL of a counter, from step k on. -/
def State.bSkip (s : State) (r : BRun) (lc : Fin 4) : Nat → Nat → Except BErr Nat
  | 0, _ => .error errEND
  | n + 1, k =>
    match s.bStepAt r k with
    | .error e => .error e
    | .ok t => if t.op = 8 && t.lc = lc then .ok (k + 1) else s.bSkip r lc n (k + 1)

def State.bLoopStep (s : State) (r : BRun) (h : BHead) (t : BStep) : BRes :=
  let r1 := { r with blc := r.blc.set t.lc (t.len, 0, r.step + 1) }
  if t.len = 0 then match s.bSkip r t.lc (h.nstep - (r.step + 1)) (r.step + 1) with
    | .error e => .error e
    | .ok k => .ok (s, r1, k)
  else .ok (s, r1, r.step + 1)

/-- An ENDL whose counter is already 0 closes no loop: cause STEP (log 55). -/
def State.bEndlStep (s : State) (r : BRun) (t : BStep) : BRes :=
  let b := r.blc[t.lc]
  if b.1 = 0 then .error errSTEP
  else .ok (s, { r with blc := r.blc.set t.lc (b.1 - 1, b.2.1 + 1, b.2.2) }, if b.1 = 1 then r.step + 1 else b.2.2)

def State.bDo (s : State) (r : BRun) (h : BHead) (t : BStep) : BRes :=
  match t.op with
  | 1 => s.bSendStep r h t
  | 2 => s.bRecvStep r h t
  | 3 => s.bRrsStep r h t
  | 4 => s.bCopyStep r h t
  | 5 => s.bWaitStep r h t
  | 6 => s.bPostStep r t
  | 7 => s.bLoopStep r h t
  | 8 => s.bEndlStep r t
  | _ => .ok (s, r, r.step)

/-! ### The end of a program (spec/11 R316) -/

def bRecord (r : BRun) (e : BErr) : List Byte :=
  leBytes 8 (statusW e.status).toNat ++ leBytes 2 e.cause ++ leBytes 2 (if e.cause = 0 then 0 else r.step) ++ leBytes 4 e.peer ++
    leBytes 4 (boolW r.hopovf 0 + boolW r.nonfinite 1) ++ leBytes 4 r.hop ++ leBytes 40 0

/-- Every write of a program reaches its home: what it leaves, and the failure of the first that is refused now. -/
def State.bSettle (s : State) (bad : Nat → Option Int) (r : BRun) : State × BRun × Option (BErr × Nat) :=
  let l := s.landRests bad r.rest
  let ws := r.rest.flatMap fun q => q.ws.map (·.1)
  (l.1.noteDirect r.key ws, { r with rest := [], wrote := ws ++ r.wrote },
   l.2.map fun p => ({ cause := if p.1 = -4 then 1 else 3, status := p.1 }, p.2))

/-- A byte that the program may not write as things stand now. -/
def State.bBad (s : State) (r : BRun) (pa : Nat) : Option Int := s.wrBad r.acc pa

/-- The program is over: its record and the token of its `bgo`. -/
def State.bEndWith (s : State) (r : BRun) (e : BErr) : State :=
  let s1 := { s with bruns := s.bruns.filter fun p => p.2.id != r.id }
  let p : State × BRun := match s1.bHead r with
    | .error _ => (s1, r)
    | .ok h => match s1.bWrite r h.rec' (bRecord r e) with
      | .ok r1 => let u := s1.bSettle (fun _ => none) r1; (u.1, u.2.1)
      | .error _ => (s1, r)
  match (p.1.coreOf r.key).copies.find? fun y => y.id == r.copy with
  | none => p.1
  -- a reader of the token finds what the program wrote, its record with it (spec/12 R331)
  | some y => p.1.endCopy r.key { y with wrote := p.2.wrote } { ws := [], status := e.status, done := r.step, faddr := r.prog }

/-- End a program at HALT or a failure: its writes first, of which one that is refused is the failure before it. -/
def State.bEnd (s : State) (r : BRun) (e : BErr) : State :=
  let u := s.bSettle (s.bBad r) r
  match u.2.2 with
  | none => u.1.bEndWith u.2.1 e
  | some f => u.1.bEndWith { u.2.1 with step := f.2 } f.1

def State.setRun (s : State) (r : BRun) : State :=
  { s with bruns := s.bruns.map fun p => if p.2.id == r.id then (p.1, r) else p }

/-- Let every write of a program reach its home before it goes on; the failure of one ends it. -/
def State.bThen (s : State) (r : BRun) (k : State → BRun → State) : State :=
  let u := s.bSettle (s.bBad r) r
  match u.2.2 with
  | none => k u.1 u.2.1
  | some f => u.1.bEndWith { u.2.1 with step := f.2 } f.1

/-- HALT waits until every SEND to another device is acknowledged as placed; a peer that is gone meanwhile fails the program with cause
PEER. None while it waits. -/
def State.bHalt (s : State) (r : BRun) (h : BHead) : Option BErr :=
  if r.sent.isEmpty then some { cause := 0, status := 0 }
  else r.sent.findSome? fun p => match s.bPath r h p with
    | .error _ => some (errPEER p)
    | .ok _ => none

/-- Run one step of a program. A POST comes after every earlier step's writes (spec/12 R331); what another step writes reaches its home
at once or in parts, as a free value says (R330). -/
def State.bRun (s : State) (r : BRun) : State :=
  match s.bNow r with
  | .error e => s.bEnd r e
  | .ok (h, t) =>
    if t.op = 9 then match s.bHalt r h with
      | some e => s.bEnd r e
      | none => s
    else
      let go := fun (s : State) (r : BRun) => match s.bDo r h t with
        | .error e => s.bEnd r e
        | .ok (s1, r1, k) =>
          let r2 := { r1 with step := k }
          if s1.free 1 (2 ^ 61 - 7) = 1#1 then s1.setRun r2 else s1.bThen r2 fun s r => s.setRun r
      if t.op = 6 then s.bThen r go else go s r

/-- The event that runs a program's next step; 9 for a program that can only fail. -/
def State.bKind (s : State) (r : BRun) : Nat :=
  match s.bNow r with
  | .error _ => 9
  | .ok p => p.2.op

/-- A program whose next step can run now: SEND, RECV, RRS, WAIT and HALT may have to wait. -/
def State.bReady (s : State) (r : BRun) : Bool :=
  match s.bNow r with
  | .error _ => true
  | .ok (h, t) =>
    if t.op = 9 then (s.bHalt r h).isSome
    else if t.op = 1 || t.op = 2 || t.op = 3 || t.op = 5 then
      (match s.bDo r h t with
        | .error _ => true
        | .ok (_, _, k) => k != r.step)
    else true

/-- Run the oldest ready program of the die in focus whose next step is of a kind. -/
def State.bEvent (s : State) (op : Nat) : Res :=
  match s.bruns.find? fun p => p.1 == keyDie s.here && s.bKind p.2 == op && s.bReady p.2 with
  | some p => .next (s.bRun p.2)
  | none => .next s

def execBellowsSend (s : State) : Res := s.bEvent 1
def execBellowsRecv (s : State) : Res := s.bEvent 2
def execBellowsRrs (s : State) : Res := s.bEvent 3
def execBellowsCopy (s : State) : Res := s.bEvent 4
def execBellowsWait (s : State) : Res := s.bEvent 5
def execBellowsPost (s : State) : Res := s.bEvent 6
def execBellowsLoop (s : State) : Res := s.bEvent 7
def execBellowsEndl (s : State) : Res := s.bEvent 8
def execBellowsHalt (s : State) : Res := s.bEvent 9

/-- As a die's port closes, what programs and frames have left in it is completed, or a program fails (spec/18 R350). `cross` says of an
agent's access to a place that it passes the port. -/
def State.drainDie (s : State) (die : Nat) (cross : Nat → Nat → Bool) : State :=
  let hit := fun p : Nat × BRun => p.2.rest.any fun q => q.ws.any fun w => cross p.2.key w.1
  (s.bruns.filter hit).foldl (fun s p =>
    let s := s.bump
    let u := s.bSettle (if s.free 1 (2 ^ 61 - 7) = 1#1 then fun _ => none else s.bBad p.2) p.2
    match u.2.2 with
    | none => u.1.setRun u.2.1
    | some f => u.1.bEndWith { u.2.1 with step := f.2 } f.1) (s.endFrames fun f => f.die == die)

/-- A program has a rank. -/
def State.bHasRank (s : State) (r : BRun) (rank : Nat) : Bool := match s.bHead r with
  | .ok h => h.rank == rank
  | .error _ => false

/-- A message from another device, whose bytes are all placed: held for a program that runs here with its rank, or in the die's staging.
One that comes before its step needs room there; while there is none, its sender waits (spec/11 R314). The acknowledgement of a message
sent there comes the same way. The Chimneys of a fenced die receive nothing. -/
def execBellowsMessageArrival (id : Nat) (m : BMsg) (s : State) : Res :=
  let die := keyDie s.here
  let mine := fun p : Nat × BRun => p.1 == die && p.2.id == id
  let change := fun f : BRun → BRun => { s with bruns := s.bruns.map fun p => if mine p then (p.1, f p.2) else p }
  if s.fenced die then .next s
  else if m.ack then .next (change fun r => { r with sent := r.sent.erase m.src })
  else if !s.bRoom die m then .next s
  else if s.bruns.any fun p => mine p && s.bHasRank p.2 m.dst then .next (change fun r => { r with inbox := r.inbox ++ [m] })
  else .next { s with staging := s.staging ++ [(die, m)] }

end Sys2Proof.Machine
end

