-- ==== Sys2Proof/Machine/Graph.lean ====
section
/-!
DEFINITION. The graph walker of the die in focus (spec/19 R361 to R365) and the notifications it sends (spec/21 R410).
-/
namespace Sys2Proof.Machine

/-! ### Access -/

/-- The walker as a master: under the handle's context, in the user mode but for context 0 (log 54). -/
def State.wAcc (s : State) (die ctx : Nat) : Acc := s.ctxAcc (die * 128 + 127) ctx (ctx == 0)

def State.wRead (s : State) (die ctx : Nat) (va : Word) (n : Nat) : Option (List Byte) :=
  match s.vread (s.wAcc die ctx) (.lslot true) va n (2 ^ 36) with
  | .ok bs => some bs
  | .error _ => none

/-- A strong store of the walker; what it may not write stays. -/
def State.wStore (s : State) (die ctx : Nat) (va : Word) (bs : List Byte) : State :=
  match s.vaddrs (s.wAcc die ctx) .wr (.lslot true) va (2 ^ 36) bs.length 0 with
  | .ok ps => s.putAt ps bs
  | .error _ => s

/-! ### Headers and nodes (spec/19 R362) -/

structure GHead where
  nnode : Nat
  compl : Word
  runs  : Nat
  drops : Nat
  ok    : Bool
deriving DecidableEq, Repr

def State.gHead (s : State) (die : Nat) (l : Launch) : Option GHead :=
  if l.gaddr.toNat % 64 ≠ 0 then none
  else (s.wRead die l.ctx l.gaddr 64).map fun bs =>
    let n := leNat bs
    let nn := natBits n 31 0
    { nnode := nn, compl := BitVec.ofNat 64 (natBits n 191 128), runs := natBits n 351 320, drops := natBits n 383 352,
      ok := natBits n 63 32 == 0 && natBits n 511 384 == 0 && decide (1 ≤ nn) && decide (nn ≤ 65535) }

structure GNode where
  kind  : Nat
  npred : Nat
  succ  : List Nat
  addr  : Word
  count : Nat
  qsel  : Nat
deriving DecidableEq, Repr

/-- Node i with its checks; the cause of spec/19 R365 where it fails, and the node index its record names: a header that
cannot be read is reported as 0xFFFF. -/
def State.gNode (s : State) (die : Nat) (l : Launch) (i : Nat) : Except (Nat × Nat) GNode :=
  match s.gHead die l with
  | none => .error (4, 0xFFFF)
  | some h =>
    match s.wRead die l.ctx (l.gaddr + BitVec.ofNat 64 (64 + 64 * i)) 64 with
    | none => .error (4, i)
    | some bs =>
      let n := leNat bs
      let g : GNode := { kind := natBits n 7 0, npred := natBits n 31 16,
                         succ := [0, 1, 2, 3].map fun k => natBits n (47 + 16 * k) (32 + 16 * k),
                         addr := BitVec.ofNat 64 (natBits n 191 128), count := natBits n 223 192, qsel := natBits n 255 224 }
      let bad := g.kind == 0 || decide (5 < g.kind) || natBits n 15 8 != 0 || natBits n 127 96 != 0 || natBits n 511 256 != 0 ||
        g.npred == 0 || ((i == 0 || g.kind == 3) && g.npred != 1) ||
        g.succ.any (fun j => j != 0xFFFF && decide (h.nnode ≤ j)) ||
        (g.kind == 1 && (g.count == 0 || decide (4096 < g.count) || natBits g.qsel 31 9 != 0))
      if bad then .error (2, i) else .ok g

/-! ### Launches in progress -/

def State.launchOf (s : State) (die h : Nat) : Option Launch :=
  (s.launches.find? fun p => p.1 == die && p.2.h == h && !p.2.ended).map (·.2)

def State.modLaunch (s : State) (id : Nat) (f : Launch → Launch) : State :=
  { s with launches := s.launches.map fun p => if p.2.id == id then (p.1, f p.2) else p }

def Launch.arrivals (l : Launch) (i : Nat) : Nat := assocGet 0 l.arr i
def Launch.iterOf (l : Launch) (i : Nat) : Nat := assocGet 0 l.iters i
def Launch.actsOf (l : Launch) (i : Nat) : Nat := assocGet 0 l.acts i

/-- One arrival at each successor given. -/
def Launch.signal (l : Launch) (js : List Nat) : Launch :=
  (js.filter (· != 0xFFFF)).foldl (fun l j => { l with arr := assocSet l.arr j (l.arrivals j + 1) }) l

/-- Consume the arrivals of one activation. -/
def Launch.activate (l : Launch) (i npred : Nat) : Launch :=
  { l with arr := assocSet l.arr i (l.arrivals i - npred), acts := assocSet l.acts i (l.actsOf i + 1) }

/-! ### The end of a launch (spec/19 R363, R365, spec/21 R410) -/

def noteWord (l : Launch) : Word := BitVec.ofNat 64 (2 ^ 63 + boolW l.fault 62 + l.runs % 2 ^ 32 * 256 + l.h % 256)

/-- Push the notifications of ended launches while the die's queue has room; each sends vector d and frees its handle. -/
def notifyLoop : Nat → Nat → State → State
  | 0, _, s => s
  | n + 1, die, s =>
    match s.launches.find? fun p => p.1 == die && p.2.ended with
    | none => s
    | some p =>
      if 64 ≤ (s.notes.filter (·.die == die)).length then s
      else notifyLoop n die { s with
        notes := s.notes ++ [{ die := die, word := noteWord p.2 }]
        msix := s.msix ++ [die]
        launches := s.launches.filter fun q => q.2.id != p.2.id }

def State.notify (s : State) (die : Nat) : State := notifyLoop s.launches.length die s

/-- A launch ends; arrivals still pending are discarded. -/
def State.endLaunch (s : State) (die : Nat) (l : Launch) (fault : Bool) (runs : Nat) : State :=
  (s.modLaunch l.id fun x => { x with ended := true, fault := fault, runs := runs, arr := [], todo := [], left := [] }).notify die

/-- Every QUEUED task of the graph nodes given becomes READY, unless its queue holds it. -/
def State.readyWhere (s : State) (p : Nat × Nat × Nat → Bool) : State :=
  let mine := fun t : Task => t.node.any p && t.state == .queued
  let s1 := { s with tasks := s.tasks.map fun t => if mine t then { t with act := true } else t }
  let go := fun t : Task => mine t && s.queueEn t.die t.queue
  let ids := (s.tasks.filter go).map (·.id)
  { s1 with tasks := toTail (fun t => ids.contains t.id) (s1.tasks.map fun t =>
      if ids.contains t.id then { t with state := .ready, ready := s.tick } else t) }

/-- Fault a launch: FAULT, FTAG for cause 1, then all ones to the completion word; the tasks accepted before it
run to retirement. -/
def State.gFault (s : State) (die : Nat) (l : Launch) (cause node : Nat) (tag : Option Word) : State :=
  let s1 := s.wStore die l.ctx (l.gaddr + 0x18) (leBytes 8 (2 ^ 63 + cause * 2 ^ 48 + node))
  let s2 := match tag with
    | some t => s1.wStore die l.ctx (l.gaddr + 0x20) (leBytes 8 t.toNat)
    | none => s1
  let s3 := match s2.gHead die l with
    | none => s2.endLaunch die l true 0
    | some h =>
      (if h.compl = 0 then s2 else s2.wStore die l.ctx h.compl (leBytes 8 (2 ^ 64 - 1))).endLaunch die l true h.runs
  s3.readyWhere (·.1 == l.id)

/-! ### Launch (spec/19 R361) -/

/-- LREJ counts a refused launch. -/
def State.refuseLaunch (s : State) (die : Nat) : State :=
  let n := s.dget die offLREJ
  if n = BitVec.allOnes 64 then s else s.dset die offLREJ (n + 1)

/-- The host writes LAUNCHd, once BAR0 is there to be written (spec/21 R420). -/
def execGraphLaunch (w : Word) (s : State) : Res :=
  let die := keyDie s.here
  if !s.bar0Up then .next s else
  let h := w.toNat % 256
  let larg := natBits w.toNat 63 16
  let e := natBits (s.dget die offGTBASE).toNat 51 12 * 4096 + 16 * h
  let gaddr := BitVec.ofNat 64 (rdNat s.mem e 8)
  let cfg := rdNat s.mem (e + 8) 8
  let ctx := natBits cfg 15 0
  if !cfg.testBit 63 || natBits cfg 62 16 != 0 || !s.ctxOk die ctx then .next (s.refuseLaunch die)
  else
    let l : Launch := { id := s.nextId, h := h, gaddr := gaddr, ctx := ctx, arr := [], iters := [], acts := [], left := [],
                        todo := [], ended := false, fault := false, runs := 0 }
    match s.launches.find? fun p => p.1 == die && p.2.h == h with
    | some p =>
      -- still running: dropped
      match s.gHead die p.2 with
      | none => .next s
      | some hd => .next (s.wStore die p.2.ctx (p.2.gaddr + 0x2C) (leBytes 4 (hd.drops + 1)))
    | none =>
      let s1 := { s with launches := s.launches ++ [(die, l)], nextId := s.nextId + 1 }
      match s1.gHead die l with
      | none => .next (s1.gFault die l 4 0xFFFF none)
      | some hd =>
        if !hd.ok then .next (s1.gFault die l 2 0xFFFF none)
        else
          let s2 := s1.wStore die ctx (gaddr + 0x08) (leBytes 8 larg)
          .next (s2.modLaunch l.id fun x => x.signal [0])

/-! ### TASKSET (spec/19 R364) -/

/-- Enqueue descriptors while the queue has room; those that remain. -/
def fillSet (die q : Nat) (node : Nat × Nat × Nat) (act : Bool) : List (BitVec 512) → State → State × List (BitVec 512)
  | [], s => (s, [])
  | d :: ds, s =>
    if s.queueFull die q then (s, d :: ds)
    else fillSet die q node act ds (s.enqueue die q d (some node) act)

/-- Enqueue what an activation has left and keep the rest. -/
def State.fillTodo (s : State) (l : Launch) (node act : Nat) (q : GNode) (ds : List (BitVec 512)) : State :=
  let r := fillSet (natBits q.qsel 8 6) (natBits q.qsel 5 0) (l.id, node, act) (decide (act < l.actsOf node)) ds s
  r.1.modLaunch l.id fun x =>
    let rest := x.todo.filter fun t => !(t.1 == node && t.2.1 == act)
    { x with todo := if r.2.isEmpty then rest else rest ++ [(node, act, r.2)] }

/-- The descriptors of a TASKSET in order, or the cause that refuses one, with the refused TAG and the descriptors accepted
before it. -/
def State.readSet (s : State) (die : Nat) (l : Launch) (g : GNode) :
    Except (Nat × Option Word × List (BitVec 512)) (List (BitVec 512)) :=
  let qd := natBits g.qsel 8 6
  if natBits (s.ctxCfg die l.ctx) 34 32 != s.partOf qd || s.fenced qd then .error (5, none, [])
  else if g.addr.toNat % 64 ≠ 0 then .error (4, none, [])
  else (List.range g.count).foldr (fun j acc =>
    match s.wRead die l.ctx (g.addr + BitVec.ofNat 64 (64 * j)) 64 with
    | none => .error (4, none, [])
    | some bs =>
      let d := BitVec.ofNat 512 (leNat bs)
      if !(s.descOk d && s.ctxOk qd (descCtx d)) then .error (1, some (descTag d), [])
      else match acc with
        | .error (c, t, ds) => .error (c, t, d :: ds)
        | .ok ds => .ok (d :: ds)) (.ok [])

/-- A node of a launch in progress, for an event of kind `kind`; a malformed node faults the launch. -/
def State.onNode (s : State) (h i kind : Nat) (f : Launch → GNode → State) : Res :=
  let die := keyDie s.here
  match s.launchOf die h with
  | none => .next s
  | some l =>
    if l.arrivals i = 0 && !(l.todo.any fun t => t.1 == i) then .next s
    else match s.gNode die l i with
      | .error e => .next (s.gFault die l e.1 e.2 none)
      | .ok g => if g.kind = kind then .next (f l g) else .next s

/-- Activations of a TASKSET whose first arrival has come. -/
def Launch.needed (l : Launch) (i npred : Nat) : Nat := l.actsOf i + (l.arrivals i + npred - 1) / npred

def execTasksetFirstArrival (h i : Nat) (s : State) : Res :=
  s.onNode h i 1 fun l g =>
    let die := keyDie s.here
    match l.todo.find? fun t => t.1 == i with
    | some t => s.fillTodo l i t.2.1 g t.2.2
    | none =>
      let a := l.iterOf i
      if a < l.needed i g.npred then
        match s.readSet die l g with
        | .error (c, t, ds) =>
          (fillSet (natBits g.qsel 8 6) (natBits g.qsel 5 0) (l.id, i, a) false ds s).1.gFault die l c i t
        | .ok ds =>
          let s1 := s.modLaunch l.id fun x => { x with iters := assocSet x.iters i (a + 1), left := x.left ++ [(i, a, g.count)] }
          s1.fillTodo l i a g ds
      else s

/-- Every task of the activation becomes READY, unless its queue holds it. -/
def State.readySet (s : State) (node : Nat × Nat × Nat) : State := s.readyWhere (· == node)

def execTasksetActivation (h i : Nat) (s : State) : Res :=
  s.onNode h i 1 fun l g =>
    let a := l.actsOf i
    if g.npred ≤ l.arrivals i && decide (a < l.iterOf i) then
      (s.modLaunch l.id fun x => x.activate i g.npred).readySet (l.id, i, a)
    else s

/-- A task of an activation retires: after the last one the node signals its successors. -/
def State.countRetired (s : State) (node : Nat × Nat × Nat) : State :=
  match s.launches.find? fun p => p.2.id == node.1 && !p.2.ended with
  | none => s
  | some (die, l) =>
    let mine := fun t : Nat × Nat × Nat => t.1 == node.2.1 && t.2.1 == node.2.2
    match l.left.find? mine with
    | none => s
    | some t =>
      if t.2.2 ≤ 1 then
        match s.gNode die l node.2.1 with
        | .error e => s.gFault die l e.1 e.2 none
        | .ok g => s.modLaunch l.id fun x => ({ x with left := x.left.filter fun t => !mine t }).signal g.succ
      else s.modLaunch l.id fun x => { x with left := x.left.map fun t => if mine t then (t.1, t.2.1, t.2.2 - 1) else t }

/-! ### COND, WHILE, JOIN, END (spec/19 R363) -/

/-- The condition word of a node. -/
def State.gWord (s : State) (die : Nat) (l : Launch) (g : GNode) : Option Nat :=
  if g.addr.toNat % 8 ≠ 0 then none else (s.wRead die l.ctx g.addr 8).map leNat

def execCondActivation (h i : Nat) (s : State) : Res :=
  s.onNode h i 2 fun l g =>
    if l.arrivals i < g.npred then s
    else match s.gWord (keyDie s.here) l g with
      | none => s.gFault (keyDie s.here) l 4 i none
      | some w => s.modLaunch l.id fun x => (x.activate i g.npred).signal (if w = 0 then g.succ.drop 2 else g.succ.take 2)

def execWhileActivation (h i : Nat) (s : State) : Res :=
  s.onNode h i 3 fun l g =>
    if l.arrivals i < g.npred then s
    else match s.gWord (keyDie s.here) l g with
      | none => s.gFault (keyDie s.here) l 4 i none
      | some w =>
        let n := l.iterOf i + 1
        if w = 0 then s.modLaunch l.id fun x => ({ x with iters := assocSet x.iters i 0 }.activate i 1).signal (g.succ.drop 2)
        else if g.count ≠ 0 && g.count < n then s.gFault (keyDie s.here) l 3 i none
        else s.modLaunch l.id fun x => ({ x with iters := assocSet x.iters i n }.activate i 1).signal (g.succ.take 2)

def execJoinActivation (h i : Nat) (s : State) : Res :=
  s.onNode h i 4 fun l g =>
    if l.arrivals i < g.npred then s else s.modLaunch l.id fun x => (x.activate i g.npred).signal g.succ

def execEndActivation (h i : Nat) (s : State) : Res :=
  s.onNode h i 5 fun l g =>
    let die := keyDie s.here
    if l.arrivals i < g.npred then s
    else match s.gHead die l with
      | none => s.gFault die l 4 0xFFFF none
      | some hd =>
        let runs := (hd.runs + 1) % 2 ^ 32
        let s1 := s.wStore die l.ctx (l.gaddr + 0x28) (leBytes 4 runs)
        let s2 := if hd.compl = 0 then s1 else s1.wStore die l.ctx hd.compl (leBytes 8 runs)
        s2.endLaunch die l false runs

end Sys2Proof.Machine
end

