-- ==== Sys2Proof/Machine/Sched.lean ====
section
/-!
DEFINITION. The task scheduler of a die: picking, dispatch and resumption (spec/19 R367, R368, spec/03 R90, R92, spec/20
R398), pre-emption requests (spec/19 R370), saves (spec/20 R396, R397), retirement (spec/01 R20, spec/19 R372, R373) and the
Damper (spec/19 R371).
-/
namespace Sys2Proof.Machine

/-! ### Picking (spec/19 R367 to R369) -/

/-- An enforced balance at 0 or below holds its context on the die. -/
def Bal.holds (b : Bal) : Bool := b.en && decide (b.bal ≤ 0)
def State.heldCtx (s : State) (die ctx : Nat) : Bool := s.bals.any fun b => b.die == die && b.ctx == ctx && b.holds

def State.effPrio (s : State) (t : Task) : Nat :=
  let age := natBits (s.dget t.die offAGE).toNat 31 0
  if age = 0 then descPrio t.desc else min 7 (descPrio t.desc + (s.tick - t.ready) / age)

/-- A core serves a task: its AFF, or the core whose flag it awaits (spec/07 R192). -/
def Task.runsOn (t : Task) (core : Nat) : Bool :=
  match t.pin with
  | some p => p == core
  | none => t.desc.getLsbD (264 + core)

def State.headOf (s : State) (die q : Nat) : Option Task :=
  s.tasks.find? fun t => t.die == die && t.queue == q && t.state == .ready

/-- Heads that a core may take. -/
def State.heads (s : State) (die core : Nat) : List Task :=
  if s.tasks.all fun t => t.state != .ready then []
  else (List.range 64).filterMap fun q =>
    if s.queueEn die q then
      match s.headOf die q with
      | some t => if t.runsOn core && !s.heldCtx die (descCtx t.desc) then some t else none
      | none => none
    else none

/-- A core that may be dispatched: it survives test, is free, and its die has not been stopped (spec/18 R347, spec/21
R424). -/
def State.coreFree (s : State) (key : Nat) : Bool :=
  let c := s.coreOf key
  decide (keyIdx key < 72) && c.phase == .idle && c.semap.extractLsb' 0 3 != 0 && c.semap.extractLsb' 4 3 != 0 &&
  !s.hot.getLsbD (keyDie key)

/-- The head a free core picks. -/
def State.pick (s : State) (key : Nat) : Option Task :=
  let die := keyDie key
  let hs := s.heads die (keyIdx key)
  let v := hs.foldl (fun m t => max m (s.effPrio t)) 0
  let top := hs.filter fun t => s.effPrio t == v
  let top := if top.any fun t => !t.yielded then top.filter fun t => !t.yielded else top
  let rp := assocGet 63 s.rp (die * 8 + v)
  let dist := fun t : Task => (t.queue + 63 - rp) % 64
  top.foldl (fun b t => match b with
    | none => some t
    | some u => if dist t < dist u then some t else some u) none

/-- Free cores pick in increasing core number. -/
def State.pickTurn (s : State) (key : Nat) : Bool :=
  !(s.keys.any fun k => keyDie k == keyDie key && decide (k < key) && s.coreFree k && (s.pick k).isSome)

/-! ### The Damper (spec/19 R371) -/

def buckOff (b : Nat) : Nat := 0x60 + 8 * b

/-- A request on a core that still stands: its head is READY, or it is a hold's. Replay takes none but those of its records. -/
def State.reqLive (s : State) (k : Nat) : Option Req :=
  let c := s.coreOf k
  if s.dgetN (keyDie k) offREPCTL 1 0 = 2 then none
  else match c.req with
    | none => none
    | some r =>
      if c.task = some r.task || (s.tasks.any fun t => t.id == r.task && t.state == .ready) then some r else none

/-- The core's task is RUNNING: it leaves that state as its save for a yield or a pre-emption begins, as its save to wait is complete,
or as it retires (spec/01 R19). -/
def Core.runsTask (c : Core) : Bool := c.task.isSome && c.phase != .idle && !(c.phase == .saving && c.saveTo != 2)

/-- The request that a hold makes against a core's task (spec/19 R371). -/
def State.holdReq (s : State) (c : Core) : Req := { cross := true, task := c.task.getD 0, tick := s.tick }

/-- Every running task of a held context receives a cross-context request, in the place of an intra-context one that waits. -/
def State.holdRequests (s : State) (die ctx : Nat) : State :=
  s.keys.foldl (fun s k =>
    let c := s.coreOf k
    let crossed := match s.reqLive k with
      | some r => r.cross
      | none => false
    if keyDie k == die && c.runsTask && c.taskCtx == ctx && !crossed then s.setCore k { c with req := some (s.holdReq c) }
    else s) s

def Bal.is (x : Bal) (die ctx b : Nat) : Bool := x.die == die && x.ctx == ctx && x.b == b

/-- Put a balance in the place of what stood there; a hold or a release is logged in its die's ring (spec/20 R404), with no task,
ICNT or core of its own (log 89). -/
def State.putBal (s : State) (y : Bal) : State :=
  let was := match s.bals.find? (·.is y.die y.ctx y.b) with
    | some x => x.holds
    | none => false
  let s1 := { s with bals := y :: s.bals.filter fun x => !(x.is y.die y.ctx y.b) }
  let rec' := fun v => s1.logAt y.die 0 0 (y.die * 128 + 127) y.ctx 5 v y.b 0
  if !was && y.holds then (rec' 1).holdRequests y.die y.ctx
  else if was && !y.holds then rec' 0
  else s1

/-- Change a balance. -/
def State.setBal (s : State) (die ctx b : Nat) (f : Bal → Int) : State :=
  match s.bals.find? (·.is die ctx b) with
  | none => s
  | some x => s.putBal { x with bal := f x }

/-- The die reads a context's buckets at its dispatch; the first dispatch sets each balance to CAP. -/
def State.readBuckets (s : State) (die ctx : Nat) : State :=
  [0, 1, 2].foldl (fun s b =>
    let w := rdNat s.mem (s.ctxAt die ctx + buckOff b) 8
    let cap : Int := natBits w 62 40
    let old := s.bals.find? (·.is die ctx b)
    s.putBal { die := die, ctx := ctx, b := b, en := w.testBit 63, cap := cap, rate := natBits w 39 16,
               part := (old.map (·.part)).getD 0, bal := (old.map (·.bal)).getD cap }) s

def execDamperCharge (ctx bucket units : Nat) (s : State) : Res :=
  .next (s.setBal (keyDie s.here) ctx bucket fun x => x.bal - units)

def execDamperRefill (ctx bucket : Nat) (s : State) : Res :=
  .next (s.setBal (keyDie s.here) ctx bucket fun x => min x.cap (x.bal + x.rate))

/-! ### The spill region (spec/03 R92) -/

/-- Rows and B-store quarters that a mask names. -/
def maskRows (m : BitVec 512) : List Nat := (List.range 512).filter fun r => m.getLsbD (r / 2)
def maskQuarters (m : BitVec 512) : List Nat := (List.range 4).filter fun q => m.getLsbD (384 + q)

def spillSize (m : BitVec 512) : Nat := 4160 + 1280 * (maskRows m).length + 524288 * (maskQuarters m).length

def State.spillImage (s : State) : List Byte :=
  let c := s.core
  (List.range 512).flatMap (fun i => leBytes 8 (c.live.page s.tick i).toNat) ++ leBytes 64 c.livemask.toNat ++
  (maskRows c.livemask).flatMap (fun r => leBytes 1280 (rowGet c r).toNat) ++
  (maskQuarters c.livemask).flatMap fun q => (List.range 524288).map fun i => bget c (q * 524288 + i)

/-- First page of a range that does not translate for writing: its address. -/
def State.probe (s : State) (a : Acc) (va : Word) (n : Nat) : Option Word :=
  let first := 4096 - va.toNat % 4096
  ((List.range ((n + 4095 - first) / 4096 + 1)).map fun k => if k = 0 then va else va + BitVec.ofNat 64 (first + 4096 * (k - 1))).find?
    fun v => match s.access a .wr .copy v (2 ^ 35) with
      | .ok _ => false
      | .error _ => true

/-- A byte of the spill region as a resumption reads it; one that no longer translates is a free value (log 56). -/
def State.spillByte (s : State) (a : Acc) (va : Word) (i : Nat) : Byte :=
  match s.access a .rd .copy (va + BitVec.ofNat 64 i) (2 ^ 35) with
  | .ok t => s.homeByte t.pa (2 ^ 34 + i)
  | .error _ => s.free 8 (2 ^ 34 + i)

def State.spillNat (s : State) (a : Acc) (va : Word) (i n : Nat) : Nat :=
  leNat ((List.range n).map fun k => s.spillByte a va (i + k))

/-! ### Dispatch and resumption -/

/-- What dispatch and resumption give a core alike. -/
def State.enterTask (s : State) (t : Task) (prio : Nat) : Core :=
  let die := keyDie s.here
  let ctx := descCtx t.desc
  let cfg := s.ctxCfg die ctx
  let e := s.ctxAt die ctx
  { s.core with
    phase := .run, task := some t.id, prio := prio, req := none
    tcw := ctxTcw ctx cfg, pbound := BitVec.ofNat 64 (rdNat s.mem (e + 0x10) 4), acnt := 0
    livemask := liveMask (BitVec.ofNat 512 (rdNat s.mem (e + 0x20) 64))
    ptroot := s.ctxRoot die ctx, accid := natBits cfg 15 8, quota := s.ctxQuota die ctx
    rows := [], ember := [], bstore := [], epoch := s.ctr * 1024 + s.here
    land := [], outst := [], hops := [], whb := [], hostLate := [], sticky := .replicate 5 none
    rowOld := [], once := .replicate 2 {}, agw := none, runAhead := false, heldTrap := none, fence := none, drain := false
    -- a machine check that waits on the core (spec/20 R402)
    pend := s.core.pend.filter fun t => t.cause == 0x1F
    iss := {}, joinAt := none, ifseq := s.wseq, acq := s.wseq, tacq := [], soft := 0, trk := {} }

/-- First dispatch: spec/03 R90. -/
def Core.begin' (c : Core) (t : Task) : Core :=
  let l := Live.start (descArgs t.desc)
  { c with live := l, dup := l, pc := descEntry t.desc, ckpt := descEntry t.desc, ckKeep := false, icnt := 0, icntCk := 0 }

/-- A place in the B-store, a register page or an engine set of a task's core, when another core runs the task: what it holds moves with
the task (spec/20 R398). -/
def movedTo (old new pa : Nat) : Nat :=
  match locate pa with
  | .win (.bstore k _) | .win (.regs k _ _) | .win (.hearth k _ _) | .win (.copyRegs k _ _ _) =>
    if k = old then pa - winAddr old 0 + winAddr new 0 else pa
  | _ => pa

/-- Resumption: the register page into live and duplicate, and what the die held (spec/20 R398). -/
def State.resume (s : State) (c : Core) (t : Task) (h : HeldSt) : Core :=
  let a := s.ctxAcc s.here (descCtx t.desc) true
  let l : Live := { Live.reset with hs := h.hs, ha := h.ha, hf := h.hf, cs := h.cs, ca := h.ca }
  let l := (List.range 111).foldl (fun (l : Live) i => l.setPage i (BitVec.ofNat 64 (s.spillNat a t.spill (8 * i) 8))) l
  let l := { l with sg := sgFix l.sg, ftok := h.ftok }.refetch
  let m := liveMask (BitVec.ofNat 512 (s.spillNat a t.spill 4096 64))
  let rs := maskRows m
  let rows := (rs.zip (List.range rs.length)).map fun p =>
    (p.1, (BitVec.ofNat 10240 (s.spillNat a t.spill (4160 + 1280 * p.2) 1280) : Row))
  let qs := maskQuarters m
  let bst := (qs.zip (List.range qs.length)).flatMap fun p => (List.range 524288).map fun i =>
    (p.1 * 524288 + i, s.spillByte a t.spill (4160 + 1280 * rs.length + 524288 * p.2 + i))
  { c with
    live := l, dup := l, pc := h.pc, ckpt := h.pc, ckKeep := true, once := h.once
    agw := h.agw.map fun w : AgWait => { w with on := false }
    icnt := h.icnt, icntCk := h.icnt, rows := rows, bstore := bst, soft := h.soft
    trk := { poison := h.poison, poisonB := h.poisonB.map fun p => (movedTo h.ran s.here p.1, p.2) } }

/-- A core of a die with no head's request: a hold's stands while its task's context is held (spec/19 R370, R371). -/
def State.withdrawn (s : State) (die : Nat) (c : Core) : Core :=
  { c with req := if c.runsTask && s.heldCtx die c.taskCtx then some (s.holdReq c) else none }

/-- Place a task on the core in focus: its memberships are rebound before its first bundle (spec/19 R375). A member on a
fenced die is lost. -/
def State.dispatch (s : State) (t : Task) : State :=
  let die := keyDie s.here
  let v := s.effPrio t
  let ms := descMembs t.desc
  let s1 := (s.readBuckets die (descCtx t.desc))
  let s1 := ms.foldl (fun s m => s.rebind m.2.1 m.2.2 die (keyIdx s.here)) s1
  let s1 := { s1 with grpCtx := ms.foldl (fun l (m : Nat × Nat × Nat) => (m.2.1, die, descCtx t.desc) :: l.filter fun p => p.1 != m.2.1) s1.grpCtx }
  let c := s1.enterTask t v
  let c := match t.held with
    | some h => s1.resume c t h
    | none => c.begin' t
  let s2 := s1.mapCores fun c => match c.req with
    | some r => if r.task = t.id then s1.withdrawn die c else c
    | none => c
  { s2 with
    -- the buckets that the dispatch reads may hold the context at once (spec/19 R371)
    core := s1.withdrawn die c
    rp := assocSet s2.rp (die * 8 + v) t.queue
    fencing := if s2.fenced die && !ms.isEmpty then s2.fencing ||| (1 <<< die) else s2.fencing
    tasks := s2.tasks.map fun u => if u.id == t.id then
      { u with state := .running, yielded := false, begun := true, held := none, wait := .none } else u }

def execTaskDispatch (s : State) : Res :=
  if s.coreFree s.here && s.pickTurn s.here then
    match s.pick s.here with
    | some t => .next (s.dispatch t)
    | none => .next s
  else .next s

/-! ### Pre-emption requests (spec/19 R370) -/

/-- The core that a READY head displaces: the lowest effective priority of a running task in its AFF, then the lowest core
number. A core that `halt` or a double trap stopped gives its task up to no request (log 102). -/
def State.victim (s : State) (t : Task) : Option Nat :=
  let ks := s.keys.filter fun k => keyDie k == t.die && decide (keyIdx k < 72) && t.runsOn (keyIdx k)
  if ks.any s.coreFree then none
  else
    let run := ks.filter fun k => (s.coreOf k).runsTask && (s.coreOf k).phase != .stopped
    let low := run.foldl (fun (b : Option Nat) k => match b with
      | none => some k
      | some j =>
        let pk := (s.coreOf k).prio
        let pj := (s.coreOf j).prio
        if pk < pj || (pk = pj && k < j) then some k else some j) none
    match low with
    | some k => if (s.coreOf k).prio < s.effPrio t && (s.reqLive k).isNone then some k else none
    | none => none

/-- The head of a queue that raises a request, and its core. -/
def State.requester (s : State) (die q : Nat) : Option (Task × Nat) :=
  if s.queueEn die q then
    match s.headOf die q with
    | some t => if s.heldCtx die (descCtx t.desc) then none else (s.victim t).map fun k => (t, k)
    | none => none
  else none

def execPreemptionRequest (q : Nat) (s : State) : Res :=
  match s.requester (keyDie s.here) q with
  | none => .next s
  | some (t, k) =>
    let c := s.coreOf k
    .next (s.setCore k { c with req := some { cross := c.taskCtx != descCtx t.desc, task := t.id, tick := s.tick } })

/-! ### Saves (spec/20 R395 to R397) -/

/-- The next PREEMPT record of a replay. -/
def State.preemptRec (s : State) : Option Rec := if s.repMode = 2 then s.nextRec (· == 6) else none

/-- Save the task in focus at its last checkpoint: roll back, probe the save range, then write it. `goal` is 0 pre-empted, 1
after a `yield`, 2 to wait. A pre-empted or yielding task is SAVED until its save completes (spec/01 R19). -/
def State.startSave (s : State) (why goal : Nat) (w : TWait) : State :=
  let s := s.rollback
  match s.curTask with
  | none => s
  | some t =>
    let c := s.core
    -- the values the task started with (spec/18 R341)
    let a : Acc := { s.acc with priv := true }
    match s.probe a t.spill (spillSize c.livemask) with
    | some bad =>
      s.takeTrap { cause := 0x06, detail := 7, slot := 0, pcb := c.ckpt, addr := bad, seq := c.seq }
    | none =>
      let s1 := match s.preemptRec with
        | some r => if r.icnt ≤ s.core.icnt then s.consume r else s
        | none => s
      let bs := s1.spillImage
      let s2 := match s1.vaddrs a .wr .copy t.spill (2 ^ 35) bs.length 0 with
        | .ok ps => s1.putAt ps bs
        | .error _ => s1
      let l := c.live
      let h : HeldSt := { once := c.once, hs := l.hs, ha := l.ha, hf := l.hf, cs := l.cs, ca := l.ca, ftok := l.ftok, pc := c.pc,
                          agw := c.agw, icnt := c.icnt, poison := c.trk.poison, poisonB := c.trk.poisonB, ran := s.here, soft := c.soft }
      let pin := match w with
        | .flag k _ _ => some (keyIdx k)
        | _ => t.pin
      { s2 with
        core := { s2.core with phase := .saving, saveTo := goal, saveWhy := why, agw := none }
        tasks := s2.tasks.map fun u => if u.id == t.id then
          { u with held := some h, wait := w, pin := pin, state := if goal = 2 then u.state else .saved } else u }

/-- State and place of a task whose save completes. -/
def State.saved (s : State) (t : Task) : State :=
  let ready := s.core.saveTo ≠ 2 || t.wait == .none
  let tail := s.core.saveTo = 1
  let u : Task := { t with state := if ready then .ready else .waiting, ready := if ready then s.tick else t.ready,
                           yielded := tail }
  let ts := s.tasks.map fun x => if x.id == t.id then u else x
  let mine := fun x : Task => x.id == t.id
  { s with tasks := if ready then (if tail then toTail mine ts else toHead mine ts) else ts }

/-- The core in focus gives up its task and is free. -/
def State.freed (s : State) : State := { s with core := { s.core with phase := .idle, task := none, req := none, iss := {} } }

/-- Free cores of the die with lower numbers pick first (spec/19 R368). -/
def State.lowerPicks (s : State) : State :=
  ((List.range (keyIdx s.here)).map (keyDie s.here * 128 + ·)).foldl (fun s k =>
    if s.coreFree k then match s.pick k with
      | some t => ((s.focus k).dispatch t).focus s.here
      | none => s
    else s) s

/-- The save finishes, and the core picks again over the tasks READY now (spec/19 R370), after the free cores before it; the record of the
save names the task that it picks (spec/20 R404). -/
def execSaveCompletion (s : State) : Res :=
  if s.core.phase ≠ .saving then .next s
  else match s.curTask with
    | none => .next { s with core := { s.core with phase := .idle } }
    | some t =>
      let s1 := s.saved t
      let aux := match s1.freed.lowerPicks.pick s.here with
        | some u => (descTag u.desc).toNat
        | none => 0
      let s2 := (s1.logRec 6 s.core.saveWhy aux).freed.lowerPicks
      match s2.pick s.here with
      | some u => .next (s2.dispatch u)
      | none => .next s2

/-- Past PBOUND with a cross-context request: roll back and save, with no handler. -/
def State.pastBound (s : State) : Bool :=
  let c := s.core
  c.phase == .run && c.pbound != 0 && decide (c.pbound.toNat < c.acnt) && s.curTask.isSome && (match s.reqLive s.here with
    | some r => r.cross
    | none => false)

def execForcedRollback (s : State) : Res := if s.pastBound then .next (s.startSave 3 0 .none) else .next s

/-! ### Retirement (spec/01 R20, spec/19 R372, R373) -/

/-- A token the task named is still to be written. -/
def State.owesToken (s : State) : Bool := (s.copiesFor s.here).any fun x => x.tok.isSome && !x.disc && !x.tokDone

/-- A completion record; one that finds the ring full is lost. -/
def State.complete (s : State) (t : Task) : State :=
  let die := t.die
  if !(s.dget die (offTQCTL t.queue)).getLsbD 62 then s
  else
    let b := s.dget die offCRBASE
    let p := s.dget die offCRPTR
    let tail := natBits p.toNat 63 32
    let head := natBits p.toNat 31 0
    let sz := natBits b.toNat 4 0
    if (tail + 2 ^ 32 - head) % 2 ^ 32 = 2 ^ sz then s.dset die offCRBASE (b ||| 0x20)
    else
      let at' := natBits b.toNat 51 12 * 4096 + 16 * (tail % 2 ^ sz)
      let bs := leBytes 8 (descTag t.desc).toNat ++
        leBytes 8 (descCtx t.desc + t.queue % 64 * 2 ^ 16 + keyIdx s.here * 2 ^ 24)
      (s.wrBytes at' bs).dset die offCRPTR (BitVec.ofNat 64 ((tail + 1) % 2 ^ 32 * 2 ^ 32 + head))

/-- The task in focus retires: a release at device scope first (spec/12 R333). -/
def State.retire (s : State) (t : Task) : State :=
  let s1 := (s.flushRel s.here).complete t
  let s2 := (descMembs t.desc).foldl (fun s m => s.depart m.2.1 m.2.2) s1
  let s3 := match t.node with
    | some n => s2.countRetired n
    | none => s2
  -- its bank reservations go, those of copies with no token among them
  let s4 := s3.mapCores fun c => { c with copies := c.copies.map fun y => if y.task == t.id + 1 then { y with banks := 0 } else y }
  { s4 with
    core := { s4.core with phase := .idle, task := none, req := none, iss := {}, agw := none }
    tasks := s4.tasks.filter fun u => u.id != t.id }

/-- What retirement waits for beside the ending instruction: loads in flight land first (log 57). -/
def State.retireReady (s : State) : Bool :=
  let c := s.core
  c.phase == .ending && c.outst.isEmpty && c.whb.isEmpty && !s.owesToken

def execTaskRetirement (s : State) : Res :=
  if !s.retireReady then .next s
  else
    let s1 := s.landEverything
    match s1.core.pend with
    | some t => .next (s1.takeTrap t)
    | none => match s1.curTask with
      | some t => .next (s1.retire t)
      | none => .next { s1 with core := { s1.core with phase := .idle, task := none, iss := {} } }

/-- System software restarts a core that `halt` or a double trap stopped (spec/06 R170, spec/20 R392). Entries that the `halt` bundle's own slots
withheld, and its loads and exposed results in flight, go at the next dispatch: the model's choice (log 57). -/
def execCoreRestart (s : State) : Res :=
  if s.core.phase == .stopped && !s.owesToken then
    .next { s with core := { s.core with phase := .idle, task := none, req := none, iss := {}, agw := none } }
  else .next s

/-- Writing EN 1: spec/19 R366. -/
def execQueueEnable (q : Nat) (s : State) : Res :=
  if q < 64 then
    let die := keyDie s.here
    .next ((s.dset die (offTQCTL q) (s.dget die (offTQCTL q) ||| BitVec.ofNat 64 (2 ^ 63))).enableQueue die q)
  else .next s

end Sys2Proof.Machine
end

