-- ==== Sys2Proof/Machine/HostIf.lean ====
section
/-!
DEFINITION. What system software, the host, the fabric and the package do to the module: translation invalidation (spec/18
R356), engine restart (R359), fences (R350, R351), windows and registers (spec/00 R5, spec/03 R89), host access (spec/21
R408, R409), notifications (R410), mailbox and attestation (R418 to R422), links, heartbeats, power and bring-up (R411 to
R424), and soft errors (spec/20 R401, R402). An event belongs to the die of the agent in focus.
-/
namespace Sys2Proof.Machine

/-! ### Translation invalidation (spec/18 R356) -/

def execTlbInvalidate (w : Word) (s : State) : Res := .next (s.ctlWrite (keyDie s.here) offTLBINV (BitVec.allOnes 64) w)

/-- An invalidation's match with an access of a context at a virtual address. -/
def tlbHits (w : Word) (ctx : Nat) (va : Nat) : Bool :=
  let b := 12 + 2 * natBits w.toNat 11 8
  ctx == natBits w.toNat 63 48 && (w.getLsbD 1 || natBits w.toNat 47 12 * 4096 / 2 ^ b == va % 2 ^ 48 / 2 ^ b)

/-- Accesses of a core made under a matching translation and not yet performed. A released store no longer holds its
virtual address: any of the context counts. -/
def Core.tlbOpen (c : Core) (w : Word) : Bool :=
  c.outst.any (fun o => o.ld.isSome && tlbHits w c.ctx o.val.toNat) ||
  c.whb.any (fun e => match e with
    | .store ea _ _ _ a => tlbHits w a.ctx ea.toNat
    | _ => false) ||
  c.rel.any (fun e => match e with
    | .store _ _ a => a.ctx == natBits w.toNat 63 48
    | .post _ _ => false) ||
  c.hops.any (fun o => o.pages.any fun p => tlbHits w o.acc.ctx (p.1 * 4096)) ||
  -- a copy in flight of which part has been seen writes the rest under the translations of that part
  c.copies.any fun y => y.state == .running && y.rest.isSome && y.acc.ctx == natBits w.toNat 63 48

def State.tlbReady (s : State) (die : Nat) : Bool :=
  let w := s.dget die offTLBINV
  let ctx := natBits w.toNat 63 48
  w.getLsbD 0 && !(s.keys.any fun k => (s.coreOf k).tlbOpen w) &&
  -- so does a Bellows program, or a frame, that still writes
  !(s.bruns.any fun p => !p.2.rest.isEmpty && p.2.acc.ctx == ctx) && !(s.frames.any fun f => f.ctx == ctx)

/-- BUSY reads 0: no older table entry serves a matching translation any more. -/
def execTlbInvalidateCompletion (s : State) : Res :=
  let die := keyDie s.here
  if !s.tlbReady die then .next s
  else
    let w := s.dget die offTLBINV
    let e : TlbE := { ctx := natBits w.toNat 63 48, va := natBits w.toNat 47 12 * 4096,
                      lev := if w.getLsbD 1 then 99 else natBits w.toNat 11 8, pte := BitVec.ofNat 64 s.wseq }
    .next { s.dset die offTLBINV (w &&& ~~~1) with tlb := e :: s.tlb }

/-! ### Engine restart -/

def execEngineRestart (w : Word) (s : State) : Res :=
  .next (s.ctlWrite (keyDie s.here) offERESTART (BitVec.allOnes 64) w)

/-! ### Fences (spec/18 R350, R351, spec/21 R411, R424) -/

def dieBit (die : Nat) : BitVec 8 := 1 <<< die

/-- An access of agent `key` at an address passes the hub port of a die. -/
def portCross (die key pa : Nat) : Bool :=
  match locate pa with
  | .host | .remote _ _ => keyDie key == die
  | l => match locDie l with
    | some d => keyDie key != d && (d == die || keyDie key == die)
    | none => false

def Released.cross (die key : Nat) : Released → Bool
  | .store pa _ _ => portCross die key pa
  | .post p _ => portCross die key (flagAddr p.key 0)

/-- Released entries that a die's port has accepted, and those that stay: a post takes the stores released before it along (spec/07
R189). The last part says that a post among them goes. -/
def portSplit (die key : Nat) : List Released → List Released × List Released × Bool
  | [] => ([], [], false)
  | e :: es =>
    let r := portSplit die key es
    let isPost := match e with
      | .post _ _ => true
      | .store .. => false
    if e.cross die key || (!isPost && r.2.2) then (e :: r.1, r.2.1, r.2.2 || isPost) else (r.1, e :: r.2.1, r.2.2)

/-- What one agent's accesses left in a die's port is completed: stores and posts are performed, loads and Hearth operations read, and a
copy of which a part has been seen is done or fails (spec/18 R350). -/
def State.drainAgent (s : State) (die key : Nat) : State :=
  let r := portSplit die key (s.coreOf key).rel
  let s1 := r.1.foldl (fun s e => s.performRel key e) (s.modCore key fun c => { c with rel := r.2.1 })
  let f := s1.focus key
  let outst := f.core.outst.map fun o =>
    if o.fault.isNone && o.ld.any (fun l => l.bytes.any fun b => portCross die key b.1) then f.loadDone o else o
  let f := { f with core := { f.core with outst := outst } }
  let f := if f.core.hops.any fun o => o.pages.any fun p => portCross die key (p.2.1 * 4096) then f.hLandAll else f
  (f.core.copies.foldl (fun s x => s.bump.portCopy (portCross die key) key x) f).focus s.here

/-- A fence taking effect: the port is closed, what it had accepted is completed, every member on the die is lost (spec/11 R289), and
FENCED reads 1. -/
def State.fenceDie (s : State) (die : Nat) : State :=
  let s0 := s.setFence die true
  let s1 := (s0.keys.foldl (fun s k => s.drainAgent die k) s0).drainDie die (portCross die)
  let s1 := s1.loseMembers fun dev d => dev == s.device && d == die
  { s1.dset die offPARTCTL (s1.dget die offPARTCTL ||| 0x200) with fencing := s1.fencing &&& ~~~dieBit die }

def execDieFence (s : State) : Res := .next (s.fenceDie (keyDie s.here))

/-- A die whose hub link has failed opens only after the link has retrained, a hot one only below 95 °C. -/
def execDieOpen (s : State) : Res :=
  let die := keyDie s.here
  if s.mayOpen die then .next (s.setFence die false) else .next s

def execHubLinkFailure (s : State) : Res :=
  let die := keyDie s.here
  .next ({ s with hubDown := s.hubDown ||| dieBit die }.fenceDie die)

/-- The link has retrained, and BOOTSTAT's error log, the bits that R420 gives no other field, reports it in a form of its own (log
69). -/
def execHubLinkRetrain (s : State) : Res :=
  .next { s with hubDown := s.hubDown &&& ~~~dieBit (keyDie s.here), bootstat := putBits s.bootstat 62 16 (s.freeNat (2 ^ 29)) }

/-- The die is fenced, its cores stop after their bundle, and vector 9 is sent. -/
def State.heat (s : State) (die : Nat) : State := { s.fenceDie die with hot := (s.fenceDie die).hot ||| dieBit die }

def execThermalFence (s : State) : Res := .next { s.heat (keyDie s.here) with msix := (s.heat (keyDie s.here)).msix ++ [9] }

def execCoolantLoss (s : State) : Res :=
  let s1 := (List.range 8).foldl (fun s d => s.heat d) s
  .next { s1 with msix := s1.msix ++ [9] }

/-- One step of 25 MHz, between 350 MHz and the rated 700 MHz (spec/21 R423). -/
def execClockStep (up : Bool) (s : State) : Res :=
  if up then (if s.mhz + 25 ≤ 700 then .next { s with mhz := s.mhz + 25 } else .next s)
  else (if 375 ≤ s.mhz then .next { s with mhz := s.mhz - 25 } else .next s)

/-! ### Chimney links and heartbeats (spec/10 R264, spec/18 R349, spec/21 R417) -/

def linkBit (die k : Nat) : BitVec 16 := 1 <<< (2 * die + k % 2)
def execChimneyLinkDown (k : Nat) (s : State) : Res := .next { s with links := s.links &&& ~~~(linkBit (keyDie s.here) k) }
/-- Stage 5 of the bring-up has trained the Ethernet ports: no link is up before (spec/21 R420). -/
def State.portsUp (s : State) : Bool :=
  decide (5 < bootStage s.bootstat) || (bootStage s.bootstat == 5 && natBits s.bootstat.toNat 7 0 == 0)
def execChimneyLinkUp (k : Nat) (s : State) : Res :=
  .next (if s.portsUp then { s with links := s.links ||| linkBit (keyDie s.here) k } else s)

def State.hbInt (s : State) : Nat := s.dgetN 0 offHBCTL 31 0
def State.hbMiss (s : State) : Nat := s.dgetN 0 offHBCTL 39 32

def execHeartbeatSend (s : State) : Res :=
  if s.beatTick + s.hbInt ≤ s.tick then .next { s with beatTick := s.tick } else .next s

/-- A heartbeat arrives on some path, and none does while every path is down. -/
def execHeartbeatArrival (dev : Nat) (s : State) : Res :=
  if s.pathUp then .next { s with beats := assocSet s.beats dev s.tick } else .next s

/-- No heartbeat of a device for HBMISS × HBINT ticks, as when every path to it is down for that long. -/
def State.lossDue (s : State) (dev : Nat) : Bool :=
  dev != s.device && !(s.lost.contains dev) && decide (assocGet 0 s.beats dev + s.hbMiss * s.hbInt ≤ s.tick)

/-- The device is lost, and every member on it. -/
def execDeviceLoss (dev : Nat) (s : State) : Res :=
  if s.lossDue dev then .next ({ s with lost := dev :: s.lost }.loseMembers fun d _ => d == dev) else .next s

/-! ### Register writes and windows (spec/00 R5, spec/03 R87 to R89) -/

/-- BAR0 registers stand at this offset and above in `REGISTER_WRITE` (log 9): HOSTACC, MBCMD and MBARG (spec/21 R409, R419); and, at an
offset of the model's own, the size of the Bellows staging (log 93). -/
def bar0 : Nat := 2 ^ 40

/-- A write of MBCMD: GO starts the command of OPC at MBARG as they stand, and is ignored while one runs. -/
def State.mbWrite (s : State) (w : Word) : State :=
  if s.mbcmd.getLsbD 62 && w.getLsbD 63 then s
  else { s with
    mbjob := if w.getLsbD 63 then some (natBits w.toNat 7 0, s.mbarg) else s.mbjob
    mbcmd := (s.mbcmd &&& BitVec.ofNat 64 (2 ^ 62)) ||| (w &&& 0xFF) ||| (if w.getLsbD 63 then BitVec.ofNat 64 (2 ^ 62) else 0) }

/-- A write of an 8-byte register of BAR0; LAUNCHd is a launch on its die. -/
def bar0Write (off : Nat) (w : Word) (s : State) : Res :=
  if !s.bar0Up then .next s
  else if off < 0x40 && off % 8 = 0 then
    match execGraphLaunch w (s.focus (off / 8 * 128 + 127)) with
    | .next t => .next (t.focus s.here)
    | r => r
  else if off = 0x1008 then .next { s with hostacc := w.setWidth 8 }
  else if off = 0x2000 then .next (s.mbWrite w)
  else if off = 0x2008 then .next { s with mbarg := w &&& ~~~0x3F }
  else .next s

def execRegisterWrite (off : Nat) (w : Word) (s : State) : Res :=
  if off = 2 * bar0 then .next { s with stageCap := w.toNat }
  else if bar0 ≤ off then bar0Write (off - bar0) w s
  else .next (s.ctlWrite (keyDie s.here) off (BitVec.allOnes 64) w)

/-- A window write to a register page, an engine set, flags or SRQF, between issue cycles; ranges that need an idle core take
none otherwise. -/
def execRegisterPageWindowWrite (pa : BitVec 52) (data : List Byte) (s : State) : Res :=
  match locate pa.toNat with
  | .win (.regs _ _ _) | .win (.hearth _ _ _) | .win (.copyRegs _ _ _ _) | .win (.flags _ _) | .win (.srqf _ _) =>
    if s.idleRange pa.toNat then .next s else .next (s.homeWrite pa.toNat data)
  | _ => .next s

/-! ### The host (spec/21 R408 to R410) -/

def State.hostAcc (s : State) : Acc := Acc.ofHost s.hostacc.toNat

/-- Physical address of an HDM offset. -/
def hdmAddr (o : Nat) : Nat := o / 51539607552 * 2 ^ 36 + o % 51539607552

def State.hostRefused (s : State) (k : AKind) (pas : List Nat) : Bool := pas.any fun p => (s.refuse s.hostAcc k .copy p).isSome

/-- A host access to bytes at physical addresses. A refused one is not performed; what its read returns is not given. -/
def State.hostDo (s : State) (pas : List Nat) (wr : Option (List Byte)) : State :=
  match wr with
  | some bs => if s.hostRefused .wr pas || pas.any s.idleRange then s else s.putAt pas bs
  | none =>
    { s with hostRd := if s.hostRefused .rd pas then (List.range pas.length).map fun i => s.free 8 (2 ^ 33 + i)
        else pas.map fun p => s.homeByte p (2 ^ 33 + p % 2 ^ 32) }

def execHostMemoryAccess (off len : Nat) (wr : Option (List Byte)) (s : State) : Res :=
  let n := match wr with
    | some bs => bs.length
    | none => len
  if s.bar0Up && decide (off + n ≤ 8 * 51539607552) then .next (s.hostDo ((List.range n).map fun i => hdmAddr (off + i)) wr) else .next s

/-- A read of NOTIFYd removes and returns the oldest entry of die d, or returns 0. -/
def State.notifyRead (s : State) (die : Nat) : State × Word :=
  match s.notes.find? fun n => n.die == die with
  | none => (s, 0)
  | some n => ({ s with notes := s.notes.erase n }.notify die, n.word)

def execNotifyRead (s : State) : Res :=
  if !s.bar0Up then .next s
  else
    let r := s.notifyRead (keyDie s.here)
    .next { r.1 with hostRd := leBytes 8 r.2.toNat }

/-- A read of an 8-byte register of BAR0: LAUNCHd, which is write-only, and offsets with no register read as zero, and GO does. -/
def State.bar0Reg (s : State) (off : Nat) : State × Word :=
  if inRange off 0x100 0x40 then s.notifyRead ((off - 0x100) / 8)
  else if off = 0x1000 then (s, s.bootstat)
  else if off = 0x1008 then (s, s.hostacc.setWidth 64)
  else if off = 0x2000 then (s, s.mbcmd.extractLsb' 0 63 |>.setWidth 64)
  else if off = 0x2008 then (s, s.mbarg)
  else if off = 0x2010 then (s, s.mbstat)
  else (s, 0)

/-- Bytes of registers in the order of their offsets. -/
def bar0Bytes : List Nat → State → State × List Byte
  | [], s => (s, [])
  | o :: os, s =>
    let r := s.bar0Reg o
    let p := bar0Bytes os r.1
    (p.1, leBytes 8 r.2.toNat ++ p.2)

/-- A host access to BAR0: a read takes the bytes of the registers it touches; a write is of one register whole, and another writes
none (log 9). -/
def bar0Access (off len : Nat) (wr : Option (List Byte)) (s : State) : Res :=
  match wr with
  | some bs => if off % 8 = 0 && bs.length = 8 then bar0Write off (BitVec.ofNat 64 (leNat bs)) s else .next s
  | none =>
    let r := bar0Bytes ((List.range ((off % 8 + len + 7) / 8)).map fun k => off / 8 * 8 + 8 * k) s
    .next { r.1 with hostRd := (r.2.drop (off % 8)).take len }

/-- BAR2 maps region 0xF. An address whose top digit is 0 is an offset of BAR0, of 16 MiB (log 9). -/
def execHostWindowAccess (pa : BitVec 52) (len : Nat) (wr : Option (List Byte)) (s : State) : Res :=
  let n := match wr with
    | some bs => bs.length
    | none => len
  if !s.bar0Up then .next s
  else if pa.toNat / 2 ^ 48 = 0xF then .next (s.hostDo ((List.range n).map (pa.toNat + ·)) wr)
  else if pa.toNat + n ≤ 2 ^ 24 then bar0Access pa.toNat n wr s
  else .next s

/-! ### The mailbox and attestation (spec/21 R418 to R422) -/

def State.mbBusy (s : State) : Bool := s.mbcmd.getLsbD 62
/-- OPC and MBARG of the running command, as GO started it. -/
def State.mbJob (s : State) : Nat × Word := s.mbjob.getD (natBits s.mbcmd.toNat 7 0, s.mbarg)
def State.mbOpc (s : State) : Nat := s.mbJob.1

/-- A command ends: MBSTAT, then vector 8. -/
def State.mbEnd (s : State) (st : Word) : State :=
  { s with mbstat := st, mbjob := none, mbcmd := s.mbcmd &&& ~~~(BitVec.ofNat 64 (2 ^ 62)), msix := s.msix ++ [8] }

def execMailboxInvalidCommand (s : State) : Res :=
  if s.mbBusy && s.mbOpc != 1 && s.mbOpc != 2 then .next (s.mbEnd (-1)) else .next s

/-- What a report carries: digests and fuse counter, CAPS and SEMAP words, and the nonce (log 40). -/
def State.reportBytes (s : State) (nonce : Word) : List Byte :=
  let caps := (List.range 8).flatMap fun d => (List.range 16).map fun i => capWord s.links d i
  let maps := (List.range 8).flatMap fun d => (List.range 72).map fun i => semapWord (s.coreOf (128 * d + i)).semap
  Config.report Config.fuseCounter caps maps nonce

def execAttest (s : State) : Res :=
  if s.mbBusy && s.mbOpc == 1 then .next ({ s with hostRd := s.reportBytes (s.free 64 (2 ^ 32)) }.mbEnd 0) else .next s

/-- SPDM speaks over DOE of CXL.io: the link must be trained (spec/21 R418, R420). -/
def execSpdmRequest (nonce : Word) (s : State) : Res := .next (if s.bar0Up then { s with hostRd := s.reportBytes nonce } else s)

/-- The master of the boot and security processor (spec/18 R351, R352). -/
def bspAcc : Acc := .ofBsp

def State.bspOk (s : State) (k : AKind) (a n : Nat) : Bool :=
  (List.range n).all fun i => (s.refuse bspAcc k .copy (a + i)).isNone

def State.bspRead (s : State) (a n : Nat) : List Byte := (List.range n).map fun i => s.homeByte (a + i) (2 ^ 31 + i)

/-- One manifest entry at a physical address: its RESULT. The host may leave an access open (log 40). -/
def State.ckptEntry (s : State) (a : Nat) : State × Int :=
  let field := fun o n => leNat (s.bspRead (a + o) n)
  let src := field 0 8
  let len := field 8 8
  let dst := field 16 8
  let wr := field 28 4
  if wr ≠ s.device then (s.homeWrite (a + 32) (leBytes 8 1), 1)
  else
    let bs := s.bspRead src len
    let all := ((List.range len).map (dst + ·)).zip bs
    -- an access that the host leaves open: any part of the copy has been written
    let late := s.free 1 (2 ^ 30 + a % 2 ^ 29) == 1
    let ws := if late then s.someOf all else all
    let s1 := s.putAt (ws.map (·.1)) (ws.map (·.2))
    let back := s1.bspRead dst len
    let r : Int := if late then -4 else if Config.sha384 bs = Config.sha384 back then 0 else -2
    (s1.homeWrite (a + 32) (leBytes 8 (BitVec.ofInt 64 r).toNat), r)

def ckptLoop : Nat → Nat → State × Bool → State × Bool
  | 0, _, p => p
  | n + 1, a, p =>
    let r := p.1.ckptEntry a
    ckptLoop n (a + 48) (r.1, p.2 && decide (0 ≤ r.2))

/-- A negative error code of the processor's own. -/
def State.mbError (s : State) : Word := Config.mailboxError s.ctr ||| BitVec.ofNat 64 (2 ^ 63)

def execCkpt (s : State) : Res :=
  if s.mbBusy && s.mbOpc == 2 then
    let a := s.mbJob.2.toNat
    if !s.bspOk .rd a 8 then .next (s.mbEnd s.mbError)
    else
      let n := leNat (s.bspRead a 8)
      let r := ckptLoop n (a + 8) (s, true)
      .next (r.1.mbEnd (if r.2 then 0 else s.mbError))
  else .next s

/-! ### Arrivals at a receive segment (spec/21 R414) -/

/-- Bytes at a kind-0 segment, or the status that the remote copy ends with. -/
def State.rxPlaces (s : State) (k : AKind) (off : BitVec 36) (n : Nat) : Except Int (List Nat) :=
  let g := s.rxSeg (off.toNat / 2 ^ 32)
  if !g.en || g.ring then .error (-3)
  else match s.vaddrs (s.rxAcc g.ctx) k .copy (g.base + BitVec.ofNat 64 (off.toNat % 2 ^ 32)) (2 ^ 48) n 0 with
    | .ok ps => .ok ps
    | .error e => .error (rxStatus e.1)

/-- Packets of a remote copy are placed; with the last of them comes its landing post, at a flag of this module (spec/10 R267, spec/12
R329). The Chimneys of a fenced die receive nothing (spec/18 R351). -/
def execRxSegmentArrival (off : BitVec 36) (rx : RxData) (s : State) : Res :=
  if s.fenced (keyDie s.here) then .next s
  else match s.rxPlaces .wr off rx.data.length with
  | .error st => .next (s.rxRefuse st)
  | .ok ps =>
    let s1 := { s.putAt ps rx.data with rxStat := 0 }
    match rx.post with
    | none => .next s1
    | some p =>
      let q : Post := { key := p.key, flag := p.flag % 32, amt := p.amt % 2 ^ 16, set := p.set }
      if (s1.engPostRefused (s1.rxAcc (s1.rxSeg (off.toNat / 2 ^ 32)).ctx) q).isSome then .next s1 else .next (s1.doPost q)

/-- The bytes returned to the remote copy stand in `hostRd`; none where it is refused. -/
def execRxRemoteRead (off : BitVec 36) (len : Nat) (s : State) : Res :=
  if s.fenced (keyDie s.here) then .next { s with hostRd := [] }
  else match s.rxPlaces .rd off len with
  | .ok ps => .next { s with hostRd := ps.map fun p => s.homeByte p (2 ^ 33 + p % 2 ^ 32), rxStat := 0 }
  | .error st => .next ({ s with hostRd := [] }.rxRefuse st)

/-! ### Reset and bring-up (spec/21 R420) -/

/-- Module reset. The device's number, which no reset gives, and the model's counter of free values stay. -/
def execModuleReset (s : State) : Res := .next { State.reset with ctr := s.ctr, device := s.device }

/-- What a stage leaves behind: 3 the survivor masks, one word a core in the order of the dies; 4 HOSTACC; 5 FABBASE, the
state of the Ethernet ports and the device number (spec/01 R13, log 94). -/
def State.stageDone (s : State) (n : Nat) (data : List Word) : State :=
  if n = 2 then { s with hubDown := 0 }
  else if n = 3 then
    (List.range (min 576 data.length)).foldl (fun s i =>
      s.modCore (i / 72 * 128 + i % 72) fun c => { c with semap := ((data[i]?).getD 0 &&& 0x77).setWidth 18 }) s
  else if n = 4 then { s with hostacc := 0 }
  else if n = 5 then
    let s1 := (List.range 8).foldl (fun s d => s.dset d offFABBASE ((data.headD 0) &&& 0xFFFFFFFFFFFFF000)) s
    { s1 with links := ((data[1]?).getD 0).setWidth 16
              device := match data[2]? with
                | some w => w.toNat % 4096
                | none => s1.device }
  else s

/-- The boot ROM takes the firmware: both its signatures verify, and the fuse counter does not refuse its security version (spec/21
R418, log 68). -/
def firmwareOk : Bool := Config.ecdsaOk && Config.lmsOk && decide (Config.fuseCounter ≤ Config.firmwareVersion)

/-- ERR of a stage: that of stage 1 is nonzero where the firmware is not taken. -/
def State.stageErr (s : State) (n : Nat) (err : Byte) : Byte :=
  if n = 1 && err = 0 && !firmwareOk then (let e : Byte := s.free 8 (2 ^ 28); if e = 0 then 1 else e) else err

/-- The next stage ends: with ERR 0 the module goes on, else nothing later runs. -/
def execBringUpStage (err0 : Byte) (data : List Word) (s : State) : Res :=
  let n := bootStage s.bootstat + 1
  let err := s.stageErr n err0
  if s.bootstat.getLsbD 63 || natBits s.bootstat.toNat 7 0 != 0 || decide (6 < n) then .next s
  else if err ≠ 0 then .next { s with bootstat := BitVec.ofNat 64 (n * 256 + err.toNat) }
  else .next { s.stageDone n data with bootstat := BitVec.ofNat 64 (n * 256 + boolW (n == 6) 63) }

/-! ### Soft errors (spec/20 R401, R402) -/

def execSoftErrorCorrected (s : State) : Res :=
  let die := keyDie s.here
  let w := s.dget die offSECNT
  if natBits w.toNat 31 0 = 2 ^ 32 - 1 then .next s else .next (s.dset die offSECNT (w + 1))

def State.countRollback (s : State) : State :=
  let die := keyDie s.here
  let w := s.dget die offSECNT
  if natBits w.toNat 63 32 = 2 ^ 32 - 1 then s else s.dset die offSECNT (w + BitVec.ofNat 64 (2 ^ 32))

/-- A duplicate set whose damaged words hold anything (spec/20 R402). -/
def State.damagedDup (s : State) (l : Live) : Live :=
  (List.range 111).foldl (fun l i => l.setPage i (s.free 64 (2 ^ 50 + i))) l

/-- A once record that holds anything. -/
def State.damagedOnce (s : State) (i : Nat) : OnceRec :=
  let w := fun k => s.free 64 (2 ^ 50 + 8 * i + k)
  { done := (w 0).getLsbD 0, val := w 1, aux := w 2, pair := if (w 3).getLsbD 0 then some ((w 3).getLsbD 1) else none,
    wait := (w 4).getLsbD 0, trapped := (w 5).getLsbD 0 }

/-- Addresses at which structures 0 to 4, 7 and 8 hold data (spec/20 R389). -/
def holdsData : Loc → Bool
  | .dram _ | .win (.bstore _ _) | .win (.plane _ _ _ _) | .win (.scratch _ _) | .win (.l1 _ _) => true
  | _ => false

/-- A damaged word of memory is not repaired (spec/20 R402): the 8 bytes around the address hold anything (log 106). -/
def State.harm (s : State) (str : Nat) (addr : Word) : State :=
  let a := addr.toNat % 2 ^ 52 / 8 * 8
  if (str % 16 ≤ 4 || str % 16 = 7 || str % 16 = 8) && holdsData (locate a) then s.homeWrite a (leBytes 8 (s.freeNat (2 ^ 51)))
  else s

/-- The damage of a machine check to what a return from its handler uses: structures 5 and 6. -/
def State.damage (s : State) (str : Nat) : State :=
  let c := s.core
  if str % 16 = 5 then { s with core := { c with dup := s.damagedDup c.dup } }
  else if str % 16 = 6 then { s with core := { c with once := #v[s.damagedOnce 0, s.damagedOnce 1] } }
  else s

/-- Raise MCHK on the agent in focus, with the structure and the address; vector 9 is sent. Where no bundle issues (an idle, saving or
stopped core) the machine check waits for the next that does (log 87). -/
def State.mchk (s : State) (str : Nat) (addr : Word) : State :=
  let c := s.core
  let t : TrapInfo := { cause := 0x1F, detail := BitVec.ofNat 32 (str % 16), slot := 15,
                        pcb := if c.iss.live then c.iss.pcb else c.pc, addr := addr, seq := c.seq }
  let s1 := { s with msix := s.msix ++ [9] }
  if c.busy then (s1.damage str).takeTrap t
  else { s1.damage str with core := { (s1.damage str).core with pend := (c.pend.filter (·.cause == 0x1F)) <|> some t } }

/-- An uncorrectable error in speculative state of the agent in focus: back to the last checkpoint with no handler; the fourth to one
checkpoint is an MCHK, whose address nothing states. A handler has no checkpoint of its own to go back to, nor a Saffron
request: MCHK (log 42). -/
def State.softBack (s : State) (str : Nat) : State :=
  if !s.core.busy then s
  else if s.onSaffron || s.core.phase == .handler || decide (3 ≤ s.core.soft) then s.mchk str (s.free 64 (2 ^ 50))
  else
    let s1 := s.countRollback.rollback
    let s2 := s1.logRec 7 str s1.core.ckpt.toNat
    { s2 with core := { s2.core with soft := s.core.soft + 1, phase := .run } }

/-- Members of the cooperative operation in flight on the agent in focus: those of its cluster that run it too (spec/09 R246). -/
def State.sharers (s : State) : List Nat :=
  match s.core.hops.find? fun o => hIsJoin o.op with
  | none => [s.here]
  | some o =>
    s.here :: (((List.range 8).filter (hMask o.img).testBit).map (s.here / 8 * 8 + ·)).filter fun k =>
      k != s.here && (s.coreOf k).hops.any fun p => hIsJoin p.op && vget p.img 13 == vget o.img 13

/-- The error met by the agent in focus; one in data that an engine reads (structure 8), while a cooperative operation runs, is in its
shared operand and reaches every member (spec/09 R246, log 88). -/
def execSoftErrorRollback (str : Nat) (s : State) : Res :=
  let ks := if str % 16 = 8 then s.sharers else [s.here]
  .next ((ks.foldl (fun s k => (s.focus k).softBack str) s).focus s.here)

def execMachineCheck (str : Nat) (addr : Word) (s : State) : Res := .next ((s.harm str addr).mchk str addr)

/-! ### Landings, fills and pending traps of the agent in focus -/

/-- An exposed result is written, at any time up to its bound (spec/04 R106). -/
def execExposedResultLanding (i : Nat) (s : State) : Res := .next (s.landAt i)

/-- An entry's target bundles have been fetched (spec/04 R114, R121). -/
def execTargetFillCompletion (t : Nat) (s : State) : Res :=
  match s.core.live.tb[t]? with
  | none => .next s
  | some e =>
    if e.filling then
      let l := s.core.live
      let tb := l.tb.setIfInBounds t { e with filling := false, copy := true }
      .next { s with core := { s.core with live := { l with tb := tb } } }
    else .next s

/-- A pending trap that entry may take: on an agent that issues bundles, which a core that `halt` has stopped does not (spec/06 R170), one
that run-ahead does not already hold. -/
def Core.trapDue (c : Core) : Option TrapInfo := if !c.busy || (c.runAhead && c.heldTrap.isSome) then none else c.pend

/-- Taking a pending trap (spec/20 R383, R385). -/
def execTrapEntry (s : State) : Res :=
  match s.core.trapDue with
  | none => .next s
  | some t => .next (s.takeTrap t)

end Sys2Proof.Machine
end

