-- ==== Sys2Proof/Machine/Slots.lean ====
section
/-!
DEFINITION. The operation of a slot, as a bundle issues it: the meaning that `exec` gives the same instruction. An event
stands in no slot.
-/
namespace Sys2Proof.Machine

def runSlot (i : Instr) (s : State) : Res :=
  match i with
  | .pfx a b c d => execPfx a b c d s
  | .add a b c => execAdd a b c s
  | .sub a b c => execSub a b c s
  | .mul a b c => execMul a b c s
  | .mulh a b c => execMulh a b c s
  | .mulhn a b c => execMulhn a b c s
  | .and a b c => execAnd a b c s
  | .or a b c => execOr a b c s
  | .xor a b c => execXor a b c s
  | .andn a b c => execAndn a b c s
  | .shl a b c => execShl a b c s
  | .shr a b c => execShr a b c s
  | .sar a b c => execSar a b c s
  | .rotl a b c => execRotl a b c s
  | .min a b c => execMin a b c s
  | .max a b c => execMax a b c s
  | .minn a b c => execMinn a b c s
  | .maxn a b c => execMaxn a b c s
  | .sext a b c => execSext a b c s
  | .zext a b c => execZext a b c s
  | .clz a b => execClz a b s
  | .ctz a b => execCtz a b s
  | .popc a b => execPopc a b s
  | .bfx a b c => execBfx a b c s
  | .bfi a b c => execBfi a b c s
  | .li a b => execLi a b s
  | .lih a b c => execLih a b c s
  | .cmpeq a b c => execCmpeq a b c s
  | .cmpne a b c => execCmpne a b c s
  | .cmplt a b c => execCmplt a b c s
  | .cmple a b c => execCmple a b c s
  | .cmpltn a b c => execCmpltn a b c s
  | .cmplen a b c => execCmplen a b c s
  | .cmptst a b c => execCmptst a b c s
  | .pand a b c d e => execPand a b c d e s
  | .por a b c d e => execPor a b c d e s
  | .pxor a b c d e => execPxor a b c d e s
  | .fadd a b c => execFadd a b c s
  | .fsub a b c => execFsub a b c s
  | .fmul a b c => execFmul a b c s
  | .fma a b c => execFma a b c s
  | .fdiv a b c => execFdiv a b c s
  | .fsqrt a b => execFsqrt a b s
  | .fmin a b c => execFmin a b c s
  | .fmax a b c => execFmax a b c s
  | .fcmpeq a b c => execFcmpeq a b c s
  | .fcmplt a b c => execFcmplt a b c s
  | .fcmple a b c => execFcmple a b c s
  | .fcvtfi a b c => execFcvtfi a b c s
  | .fcvtif a b c => execFcvtif a b c s
  | .qmk a b c => execQmk a b c s
  | .qnum a b => execQnum a b s
  | .qden a b => execQden a b s
  | .qflr a b => execQflr a b s
  | .qceil a b => execQceil a b s
  | .qfromf a b => execQfromf a b s
  | .qtof a b => execQtof a b s
  | .lcset a b => execLcset a b s
  | .lcget a b => execLcget a b s
  | .lcnext a b c => execLcnext a b c s
  | .rdid a b => execRdid a b s
  | .rdfst a => execRdfst a s
  | .wrfst a => execWrfst a s
  | .sgset a b => execSgset a b s
  | .vstp a b => execVstp a b s
  | .fmset a b => execFmset a b s
  | .fmget a b => execFmget a b s
  | .bprep a b => execBprep a b s
  | .bprepL a b => execBprepL a b s
  | .bprepi a b => execBprepi a b s
  | .bprepiL a b => execBprepiL a b s
  | .sysc a => execSysc a s
  | .brk a => execBrk a s
  | .rdcr a b => execRdcr a b s
  | .wrcr a b => execWrcr a b s
  | .ldN8 a b c => execLdN8 a b c s
  | .ldN16 a b c => execLdN16 a b c s
  | .ldN32 a b c => execLdN32 a b c s
  | .ldN64 a b c => execLdN64 a b c s
  | .stN8 a b c => execStN8 a b c s
  | .stN16 a b c => execStN16 a b c s
  | .stN32 a b c => execStN32 a b c s
  | .stN64 a b c => execStN64 a b c s
  | .ldsN8 a b c => execLdsN8 a b c s
  | .ldsN16 a b c => execLdsN16 a b c s
  | .ldsN32 a b c => execLdsN32 a b c s
  | .ldsN64 a b c => execLdsN64 a b c s
  | .stsN8 a b c => execStsN8 a b c s
  | .stsN16 a b c => execStsN16 a b c s
  | .stsN32 a b c => execStsN32 a b c s
  | .stsN64 a b c => execStsN64 a b c s
  | .amoadd a b c => execAmoadd a b c s
  | .amoswp a b c => execAmoswp a b c s
  | .amocas a b c => execAmocas a b c s
  | .amomin a b c => execAmomin a b c s
  | .amomax a b c => execAmomax a b c s
  | .amoand a b c => execAmoand a b c s
  | .amoor a b c => execAmoor a b c s
  | .qpush a b => execQpush a b s
  | .qpop a b => execQpop a b s
  | .qtry a b c => execQtry a b c s
  | .tspawn a b c => execTspawn a b c s
  | .sframe a b c => execSframe a b c s
  | .strunc a b c => execStrunc a b c s
  | .sadv a b c => execSadv a b c s
  | .scur a b c => execScur a b c s
  | .sgen a b c => execSgen a b c s
  | .smpl a b => execSmpl a b s
  | .sacc a b => execSacc a b s
  | .srng a => execSrng a s
  | .wait a b => execWait a b s
  | .waity a b => execWaity a b s
  | .post a b c => execPost a b c s
  | .postr a b c d => execPostr a b c d s
  | .barr a => execBarr a s
  | .agree a => execAgree a s
  | .agreep a b => execAgreep a b s
  | .agreeT a => execAgreeT a s
  | .agst a b c => execAgst a b c s
  | .vadd a => execVadd a s
  | .vsub a => execVsub a s
  | .vmul a => execVmul a s
  | .vfma a => execVfma a s
  | .vfms a => execVfms a s
  | .vmin a => execVmin a s
  | .vmax a => execVmax a s
  | .vabs a => execVabs a s
  | .vneg a => execVneg a s
  | .vmov a => execVmov a s
  | .vand a => execVand a s
  | .vor a => execVor a s
  | .vxor a => execVxor a s
  | .vnot a => execVnot a s
  | .vshl a => execVshl a s
  | .vshr a => execVshr a s
  | .vsar a => execVsar a s
  | .vceq a => execVceq a s
  | .vclt a => execVclt a s
  | .vcle a => execVcle a s
  | .vsel a => execVsel a s
  | .vcvt a => execVcvt a s
  | .vmx a => execVmx a s
  | .vunmx a => execVunmx a s
  | .vrcp a => execVrcp a s
  | .vrsq a => execVrsq a s
  | .vsqrt a => execVsqrt a s
  | .vexp2 a => execVexp2 a s
  | .vlog2 a => execVlog2 a s
  | .vtanh a => execVtanh a s
  | .vsigm a => execVsigm a s
  | .vrsum a => execVrsum a s
  | .vrmax a => execVrmax a s
  | .vrmin a => execVrmin a s
  | .vargmax a => execVargmax a s
  | .vtopk a => execVtopk a s
  | .vperm a => execVperm a s
  | .vrot a => execVrot a s
  | .vbcast a => execVbcast a s
  | .vext a => execVext a s
  | .vins a => execVins a s
  | .vany a => execVany a s
  | .vall a => execVall a s
  | .mset a b => execMset a b s
  | .mseti a b => execMseti a b s
  | .mget a b c => execMget a b c s
  | .mlatch a => execMlatch a s
  | .mgoBf16 a => execMgoBf16 a s
  | .mgoF16 a => execMgoF16 a s
  | .mgoW8 a => execMgoW8 a s
  | .mgoS8 a => execMgoS8 a s
  | .mgoW4 a => execMgoW4 a s
  | .mgoS4 a => execMgoS4 a s
  | .mjoinBf16 a => execMjoinBf16 a s
  | .mjoinF16 a => execMjoinF16 a s
  | .mjoinW8 a => execMjoinW8 a s
  | .mjoinS8 a => execMjoinS8 a s
  | .mjoinW4 a => execMjoinW4 a s
  | .mjoinS4 a => execMjoinS4 a s
  | .cset a b => execCset a b s
  | .cseti a b => execCseti a b s
  | .cget a b c => execCget a b c s
  | .cdis a => execCdis a s
  | .cpost a b c d => execCpost a b c d s
  | .cgo a b => execCgo a b s
  | .cgath a b => execCgath a b s
  | .cscat a b => execCscat a b s
  | .cfill a b => execCfill a b s
  | .cbcast a b => execCbcast a b s
  | .cdx a b => execCdx a b s
  | .cpfd a b => execCpfd a b s
  | .carm a b c => execCarm a b c s
  | .cmred a b => execCmred a b s
  | .ckvc a b => execCkvc a b s
  | .cnet a b => execCnet a b s
  | .bgo a b => execBgo a b s
  | .rfe => execRfe s
  | .halt => execHalt s
  | .fenceCore => execFenceCore s
  | .fenceDie => execFenceDie s
  | .fenceDev => execFenceDev s
  | .fenceFab => execFenceFab s
  | .ifence => execIfence s
  | .tend => execTend s
  | .yield => execYield s
  | .mclr => execMclr s
  | .mgol => execMgol s
  | _ => .next s

end Sys2Proof.Machine
end

