-- ==== Sys2Proof/Machine/Issue.lean ====
section
/-!
DEFINITION. Issue of a bundle by the agent in focus: fetch (spec/04 R119 to R121), checkpoint and pre-emption point (spec/01
R15, spec/04 R104, spec/20 R395), the traps raised before any slot issues (R102), stalls (spec/07 R199), slots with their
sticky re-issues and pieces (spec/04 R108 to R118), rotation (spec/03 R78), transfer (spec/04 R113) and drain (R115). One step
issues one repeat of a bundle. With it the rendezvous of cooperative starts (spec/09 R244) and the yield threshold of an
agreement (spec/01 R25).
-/
namespace Sys2Proof

/-! ### What an operation is to the issue -/

/-- Opcode and operand pair of a start of the Hearth (spec/04 R127). -/
def Instr.mStart : Instr → Option (Nat × Option (Fin 14 × Src))
  | .mgoBf16 w => some (0x08, w)
  | .mgoF16 w => some (0x09, w)
  | .mgoW8 w => some (0x0A, w)
  | .mgoS8 w => some (0x0B, w)
  | .mgoW4 w => some (0x0C, w)
  | .mgoS4 w => some (0x0D, w)
  | .mjoinBf16 w => some (0x10, w)
  | .mjoinF16 w => some (0x11, w)
  | .mjoinW8 w => some (0x12, w)
  | .mjoinS8 w => some (0x13, w)
  | .mjoinW4 w => some (0x14, w)
  | .mjoinS4 w => some (0x15, w)
  | .mgol => some (0x18, none)
  | _ => none

/-- Kind, token and operand pair of a start of a copy engine. -/
def Instr.cStart : Instr → Option (Machine.CopyOp × XReg × Option (Fin 9 × Src))
  | .cgo t w => some (.go, t, w)
  | .cgath t w => some (.gath, t, w)
  | .cscat t w => some (.scat, t, w)
  | .cfill t _ => some (.fill, t, none)
  | .cbcast t w => some (.bcast, t, w)
  | .cdx t w => some (.dx, t, w)
  | .cpfd t w => some (.pfd, t, w)
  | .carm t _ _ => some (.arm, t, none)
  | .cmred t w => some (.mred, t, w)
  | .ckvc t w => some (.kvc, t, w)
  | .cnet t w => some (.net, t, w)
  | .bgo t _ => some (.bgo, t, none)
  | _ => none

/-- Recorded in its slot's sticky record: spec/04 R108. -/
def Instr.recorded (i : Instr) : Bool := i.vform.isSome || i.mStart.isSome || i.cStart.isSome

/-- Scalar destination of an instruction other than a copy start. -/
def Instr.dest : Instr → Option XReg
  | .add d _ _ | .sub d _ _ | .mul d _ _ | .mulh d _ _ | .mulhn d _ _ | .and d _ _ | .or d _ _ | .xor d _ _
  | .andn d _ _ | .shl d _ _ | .shr d _ _ | .sar d _ _ | .rotl d _ _ | .min d _ _ | .max d _ _ | .minn d _ _
  | .maxn d _ _ | .sext d _ _ | .zext d _ _ | .bfx d _ _ | .bfi d _ _ | .fadd d _ _ | .fsub d _ _ | .fmul d _ _
  | .fma d _ _ | .fdiv d _ _ | .fmin d _ _ | .fmax d _ _ | .qmk d _ _ | .clz d _ | .ctz d _ | .popc d _ | .li d _
  | .lih d _ _ | .fsqrt d _ | .fcvtfi d _ _ | .fcvtif d _ _ | .qnum d _ | .qden d _ | .qflr d _ | .qceil d _
  | .qfromf d _ | .qtof d _ | .lcget d _ | .rdid d _ | .rdfst d | .fmget d _ | .rdcr d _ | .ldN8 d _ _ | .ldN16 d _ _
  | .ldN32 d _ _ | .ldN64 d _ _ | .ldsN8 d _ _ | .ldsN16 d _ _ | .ldsN32 d _ _ | .ldsN64 d _ _ | .amoadd d _ _
  | .amoswp d _ _ | .amocas d _ _ | .amomin d _ _ | .amomax d _ _ | .amoand d _ _ | .amoor d _ _ | .qpop d _
  | .qtry d _ _ | .tspawn d _ _ | .sframe d _ _ | .strunc d _ _ | .sadv d _ _ | .scur d _ _ | .smpl d _ | .sacc d _
  | .srng d | .agst d _ _ | .mget d _ _ | .cget d _ _ => some d
  | .vext v => some (Machine.vXreg v.d)
  | _ => none

/-- Predicates that an instruction writes. -/
def Instr.pdests : Instr → List (Fin 16)
  | .cmpeq p _ _ | .cmpne p _ _ | .cmplt p _ _ | .cmple p _ _ | .cmpltn p _ _ | .cmplen p _ _ | .cmptst p _ _
  | .fcmpeq p _ _ | .fcmplt p _ _ | .fcmple p _ _ | .sgen p _ _ | .qtry _ p _ => [Machine.pairEven p, Machine.pairOdd p]
  | .sframe _ p _ | .lcnext p _ _ => p.toList.flatMap fun p => [Machine.pairEven p, Machine.pairOdd p]
  | .pand p _ _ _ _ | .por p _ _ _ _ | .pxor p _ _ _ _ => [p]
  | _ => []

/-- Trap cause of a decode trap (spec/20 R388). -/
def DErr.cause : DErr → Nat
  | .illb => 0x01
  | .illop => 0x02

/-- An instruction of the L slot's class. -/
def Slot.isL (sl : Slot) : Bool := sl == .l

/-- A start that names an operand pair, which only an explicit first issue reads (spec/04 R112). -/
def Instr.pairStart (i : Instr) : Bool :=
  i.mStart.isSome || (match i.cStart with
    | some (_, _, some _) => true
    | _ => false)

/-- Narrow types whose format registers a V operation names (spec/02 R42, spec/08 R215, R216). -/
def Instr.fmTypes (i : Instr) : List VTy :=
  match i with
  | .vcvt v => v.ty :: (Sys2Proof.vcvtSrc v.c.val).toList
  | .vunmx v => [v.ty, .fm ⟨v.b.val / 4 % 8, Nat.mod_lt _ (by decide)⟩]
  | _ => match i.vform with
    | some (_, _, v) => [v.ty]
    | none => []

/-- Place of a slot's sticky record. -/
def Slot.sticky : Slot → Option (Fin 5)
  | .v0 => some 0
  | .v1 => some 1
  | .m => some 2
  | .c0 => some 3
  | .c1 => some 4
  | _ => none

end Sys2Proof

namespace Sys2Proof.Machine

/-! ### Fetch -/

/-- A byte as fetch sees it: no store since the last `ifence`, dispatch or restore (spec/04 R121). -/
def State.fetchByte (s : State) (pa tag : Nat) : Byte :=
  s.hist.foldl (fun v e => if e.addr = pa && decide (s.core.ifseq ≤ e.seq) then e.old else v) (s.homeByte pa tag)

/-- One syllable, or the kind of its fault. -/
def State.fetchSyl (s : State) (va : Word) (k : Nat) : Except Nat Syl :=
  match s.access s.acc .fetch .fetch va (2 ^ 28 + k) with
  | .error e => .error e
  | .ok t => .ok (BitVec.ofNat 32 (leNat ((List.range 4).map fun i => s.fetchByte (t.pa + i) (2 ^ 27 + 4 * k + i))))

/-- Fetch syllables until the bundle is whole; the kind and the address of the first fault. -/
def State.fetchLoop (s : State) (pc : Word) : Nat → List Syl → Except (Nat × Word) (List Syl)
  | 0, ws => .ok ws
  | f + 1, ws =>
    let whole := match ws with
      | [] => false
      | h :: r => decide (needed (hdrOf h).slots r ≤ r.length)
    if whole then .ok ws
    else
      let va := pc + BitVec.ofNat 64 (4 * ws.length)
      match s.fetchSyl va ws.length with
      | .error e => .error (e, va)
      | .ok w => s.fetchLoop pc f (ws ++ [w])

/-- The bundle at an address: at most nineteen syllables. -/
def State.fetch (s : State) (pc : Word) : Except (Nat × Word) (List Syl) :=
  if pc.toNat % 4 ≠ 0 then .error (11, pc) else s.fetchLoop pc 19 []

/-! ### Slots that issue -/

/-- A slot operation about to issue: its guard, whether it is a later repeat or a re-issue, the threshold of a `carm`, and whether
its guard holds. -/
structure IOp where
  slot  : Slot
  guard : Fin 16
  op    : Instr
  again : Bool
  thr   : Int
  on    : Bool
deriving DecidableEq, Repr

/-- Source operands that this issue of the operation reads. -/
def IOp.srcs (i : IOp) : List Src := if i.again && i.op.pairStart then [] else i.op.srcs

/-- Set the slot whose operands are read. -/
def State.at (s : State) (i : IOp) : State :=
  { s with core := { s.core with iss := { s.core.iss with slot := i.slot, again := i.again, thr := i.thr } } }

/-- Signed threshold step of a `carm`: spec/10 R254. -/
def cTst (g : CImg) : Int := toSigned 16 (natBits (vget g 8).toNat 63 48)

/-- A record as it issues once more. -/
def Sticky.again (r : Sticky) (sl : Slot) : IOp :=
  { slot := sl, guard := r.guard, op := r.op, again := true, thr := r.thr, on := false }

/-- The operation a slot issues in this repeat: its own, else its record unless Z or K (spec/04 R108 to R110). -/
def State.slotOp (s : State) (b : Bundle) (sl : Slot) : Option IOp :=
  let rec' := match sl.sticky with
    | some k => (s.core.sticky[k]).map (·.again sl)
    | none => none
  match b.ops.find? fun o => o.slot == sl with
  | some o =>
    let own : IOp := { slot := sl, guard := o.guard, op := o.op, again := false, on := false,
                       thr := match o.op with
                         | .carm _ _ n => n.toNat
                         | _ => 0 }
    if s.core.iss.rep = 0 || !o.op.recorded then some own else some (rec'.getD { own with again := true })
  | none => if b.hdr.z || b.hdr.k then none else rec'

/-- The guard of an operation as it reads now. -/
def State.guardOf (s : State) (i : IOp) : Bool := (s.at i).pred i.guard

/-- An operation with its guard resolved. A later repeat or re-issue of a `carm` whose guard holds steps its threshold by TST, as it
steps the addresses of its active set (spec/10 R254, R280); a guarded-off one steps neither (log 103). -/
def State.guarded (s : State) (i : IOp) : IOp :=
  let on := s.guardOf i
  let c : Fin 2 := if i.slot = .c1 then 1 else 0
  { i with on := on, thr := if on && i.again then i.thr + cTst s.core.live.ca[c] else i.thr }

def State.issueOps (s : State) (b : Bundle) : List IOp := (Sys2Proof.slots.filterMap (s.slotOp b)).map s.guarded

/-! ### Stalls (spec/07 R199) -/

/-- A scalar register whose scoreboarded result, or a copy's status, is still to be written. -/
def State.regPending (s : State) (r : Fin 56) : Bool :=
  r.val != 0 && (s.core.outst.any (fun o => o.xd == some r) || s.pendingTok s.here r.val)

/-- An agreement has issued and its outcome has not returned. -/
def Core.agOpen (c : Core) : Bool := match c.agw with
  | some w => w.on
  | none => false

/-- Hinted value of a physical predicate of the pending agreement's pair, if it is one. -/
def AgWait.hintOf (w : AgWait) (q : Fin 16) : Option (Option Bool) :=
  match w.gqPhys with
  | some (e, o) => if q = e then some w.hint else if q = o then some (w.hint.map (!·)) else none
  | none => none

/-- A physical predicate of a pair still to be written. -/
def Core.predPending (c : Core) (q : Fin 16) : Bool :=
  c.outst.any (fun o => match o.pair with
    | some (e, d, _) => q == e || q == d
    | none => false) ||
  (match c.agw with
    | some w => w.on && (w.hintOf q).isSome
    | none => false)

def State.srcPending (s : State) : Src → Bool
  | .x n => s.regPending (physX s.core.live n)
  | .lq => s.core.outst.any fun o => o.ld.isSome || o.lq.isSome || o.fault.isSome
  | .gq => s.core.agOpen
  | _ => false

/-- Operands not yet written, or a pending token about to be overwritten (spec/10 R256). On Saffron a result is written before a
later one of the same register or predicate (spec/04 R128). -/
def State.opndStall (s : State) (i : IOp) : Bool :=
  let l := s.core.live
  i.srcs.any s.srcPending || i.op.preds.any (fun p => s.core.predPending (physP l p)) ||
  (match i.op.dest with
    | some d => s.pendingTok s.here (physX l d).val || (s.onSaffron && s.regPending (physX l d))
    | none => false) ||
  (s.onSaffron && i.op.pdests.any fun p => s.core.predPending (physP l p))

/-- Set and token of a start, as its slot would issue it now. -/
def State.cSetFor (s : State) (i : IOp) (w : Option (Fin 9 × Src)) : State := (s.at i).cSetUp w

/-- Banks that a start declares and another holds. A start that a check refuses takes none, nor does one that waits for its
release or its flag. -/
def State.bankStall (s : State) (i : IOp) : Bool :=
  let t := s.at i
  match i.op.mStart with
  | some (op, w) =>
    let t1 := t.mSet op w
    !hIsJoin op && (t1.mCheck op).isNone && s.bankHeld s.here &&& t1.mBanks op != 0
  | none =>
    match i.op, i.op.cStart with
    | .mlatch a, _ => s.bankHeld s.here &&& latchBanks (latchOff (t.src .m a)) != 0
    | _, some (op, tk, w) =>
      let t1 := t.cSetUp w
      op != .arm && !(t1.cCheck op tk) && s.bankHeld s.here &&& cBanks op t1.core.activeC != 0
    | _, none => false

/-- A withheld start: it takes an arm entry (spec/10 R260). -/
def IOp.arms (i : IOp) : Bool := match i.op with
  | .carm .. | .cnet .. | .bgo .. => true
  | _ => false

def Core.armUsed (c : Core) : Nat := (c.copies.filter fun y => y.state == .withheld || (y.state == .armed && y.row0 == 0)).length

/-- Sixteen copies of the slot are in flight. -/
def State.slotFull (s : State) (i : IOp) : Bool :=
  let n := (s.at i).core.unit.val
  (match i.op.cStart with
    | some (op, _, _) => op != .arm
    | none => false) &&
  decide (16 ≤ s.core.inFlight n + (s.core.copies.filter fun y => y.slot == n && y.state == .withheld && y.op != .arm).length)

/-- An empty queue makes `qpop` wait outside a Q bundle. -/
def State.popWaits (s : State) (q : Src) : Bool :=
  let qv := s.src .l q
  !(s.once 0).done && s.repMode != 2 && !(saffronQueue qv || s.qRefused s.acc qv) &&
  (s.qTake (qDie qv) (qNum qv)).isNone

/-- On Saffron a push is performed as it issues, and waits for room (spec/07 R203, spec/19 R380). -/
def State.pushWaits (s : State) (q : Src) : Bool :=
  let qv := s.src .l q
  s.onSaffron && !s.qRefused s.acc qv && !s.qRoom (qDie qv) (qNum qv) s.core.ctx s.acc.quota

/-- A strong load of this core is still to be performed. -/
def Core.strongOpen (c : Core) : Bool := c.outst.any fun o => match o.ld with
  | some ld => ld.strong
  | none => false

/-- An incomplete fence holds a bundle that carries an L operation, whatever its guard, or starts a C operation (spec/07 R180). -/
def State.fenceStall (s : State) (ops : List IOp) : Bool :=
  s.core.fence.isSome && ops.any fun i => i.slot.isL || (i.on && i.op.cStart.isSome)

/-- Conditions of one operation beside its operands and banks. -/
def State.opStall (s : State) (b : Bundle) (i : IOp) : Bool :=
  (match i.op with
    | .wait f n => !(s.at i).waitOk f n
    | .qpop _ q => !b.hdr.q && (s.at i).popWaits q
    | .qpush q _ => (s.at i).pushWaits q
    -- stream instructions are performed as they issue, strong accesses in issue order (spec/12 R318)
    | .scur .. | .sadv .. | .sgen .. | .sframe .. | .strunc .. => s.core.strongOpen
    | .agst _ m sel => s.core.agOpen && (sel.val == 0 || sel.val == 2) && (match s.core.agw with
        | some w => w.mb == m.val
        | none => false)
    | _ => false)

/-- Entries that an operation would put into the withholding buffer. -/
def State.entries (s : State) (i : IOp) : Nat :=
  match i.op with
  | .stN8 .. | .stN16 .. | .stN32 .. | .stN64 .. | .stsN8 .. | .stsN16 .. | .stsN32 .. | .stsN64 .. | .qpush .. | .post ..
  | .postr .. | .cpost .. | .cdis .. => 1
  | _ =>
    match i.op.cStart with
    | some (_, _, w) => (if i.arms then 1 else 0) + (if (vget (s.cSetFor i w).core.activeC 5).getLsbD 31 then 1 else 0)
    | none => 0

/-- One vector, or one copy-engine, instance survives. -/
def single (m : BitVec 3) : Bool := m == 1 || m == 2 || m == 4
def Core.splitV (c : Core) : Bool := single (c.semap.extractLsb' 0 3)
def Core.splitC (c : Core) : Bool := single (c.semap.extractLsb' 4 3)

/-- Slots of the second piece: spec/04 R117. -/
def State.second (s : State) (ops : List IOp) : List Slot :=
  let has := fun sl => ops.any fun i : IOp => i.slot == sl
  if s.onSaffron then []
  else (if s.core.splitV && has .v0 && has .v1 then [Slot.v1] else []) ++
    (if s.core.splitC && has .c0 && has .c1 then [Slot.c1] else [])

/-- A rendezvous that has completed: the group's banks were taken for all its members at once (spec/09 R244). -/
def State.joinGo (s : State) : Bool := s.core.joinAt.any (·.go)

/-- Some stall holds the operations that issue; `true` outside a rendezvous. -/
def State.stalled (s : State) (b : Bundle) (ops : List IOp) : Bool :=
  let on := ops.filter (·.on)
  ops.any (fun i => s.core.predPending (physP s.core.live i.guard)) || s.fenceStall ops ||
  on.any (fun i => s.opndStall i || s.opStall b i) ||
  on.any (fun i => (!s.joinGo && s.bankStall i && !((s.second ops).contains .c1 && i.slot == .c1 && i.op.cStart.isSome)) || s.slotFull i) ||
  (on.any IOp.arms && decide (32 < s.core.armUsed + (on.filter IOp.arms).length)) ||
  (s.core.runAhead && !s.onSaffron && decide (whbMax < s.core.whb.length + on.foldl (fun n i => n + s.entries i) 0))

/-! ### Traps before any slot issues (spec/04 R102) -/

/-- A trap of the bundle, with the slot it names. -/
def Core.trapAt (c : Core) (slot cause : Nat) (detail : Nat := 0) (addr : Word := 0) : TrapInfo :=
  { cause := cause, detail := BitVec.ofNat 32 detail, slot := slot, pcb := c.iss.pcb, addr := addr, seq := c.seq }

/-- Slot of an operation that names an invalid format register (spec/02 R42): a decode trap, whatever its guard (spec/08
R209, spec/04 R102). -/
def State.fmSlot (s : State) (sl : Slot) (i : Instr) : Option Nat :=
  if i.fmTypes.all s.fmOk then none else some sl.num

def State.fmTrap (s : State) (i : IOp) : Option TrapInfo := (s.fmSlot i.slot i.op).map fun n => s.core.trapAt n 0x02

/-- MSHAPE of an M start. -/
def State.mTrap (s : State) (i : IOp) : Option TrapInfo :=
  match i.op.mStart with
  | some (op, w) => (((s.at i).mSet op w).mCheck op).map fun n => s.core.trapAt i.slot.num 0x09 n
  | none => none

/-- LDF of an M start. -/
def State.mLdf (s : State) (i : IOp) : Option TrapInfo :=
  match i.op.mStart with
  | some (op, w) => match ((s.at i).mSet op w).mPages op with
    | .error e => some (s.core.trapAt i.slot.num 0x05 e.1 e.2)
    | .ok _ => none
  | none => none

/-- ILLOP of a C start. -/
def State.cTrap (s : State) (i : IOp) : Option TrapInfo :=
  match i.op.cStart with
  | some (op, tk, w) => if (s.cSetFor i w).cCheck op tk then some (s.core.trapAt i.slot.num 0x02) else none
  | none => none

/-- Physical registers an operation reads. -/
def State.regsOf (s : State) (i : IOp) : List (Fin 56) :=
  i.srcs.filterMap fun r => match r with
    | .x n => some (physX s.core.live n)
    | _ => none

/-- The first token with a fault status that an operation reads, and its trap (spec/10 R257). -/
def State.tokTrap (s : State) (i : IOp) : Option (Nat × TrapInfo) :=
  (s.regsOf i).findSome? fun r =>
    (s.core.live.ftok.find? fun t => t.reg == r.val && isFault t.status).map fun t =>
      (t.reg, { s.core.trapAt i.slot.num 0x08 ((t.status % 256).toNat + t.code * 256) t.faddr with tstart := t.start })

/-- The first trap among the operations that issue, in the order of spec/04 R102. -/
def State.preTrap (s : State) (ops : List IOp) : Option TrapInfo :=
  let on := ops.filter (·.on)
  ((ops.findSome? s.fmTrap) <|> (on.findSome? s.mTrap) <|> (on.findSome? s.mLdf) <|> (on.findSome? s.cTrap))

/-- A bundle has read a token: what it kept may be written over again (spec/10 R256). -/
def Live.sawTok (l : Live) (r : Nat) : Live :=
  { l with ftok := l.ftok.map fun t => if t.reg == r then { t with seen := true } else t }

/-- The read is logged (spec/20 R404), then it traps. -/
def State.tokFault (s : State) (r : Nat) (t : TrapInfo) : State :=
  let s := (s.core.live.ftok.filter fun k => k.reg == r && isFault k.status).foldl
    (fun s k => s.logRec 9 (statusW k.status).toNat k.code) s
  { s with core := { s.core with live := s.core.live.sawTok r, dup := s.core.dup.sawTok r } }.takeTrap t

/-! ### The replay recorder at a bundle (spec/20 R404, R405) -/

/-- Reads of `tq` by the operations that issue. -/
def tqReads (ops : List IOp) : Nat := (ops.filter (·.on)).foldl (fun n i => n + (i.srcs.filter (· == .tq)).length) 0

/-- Take n TIME records; the first one's timebase. None where one is missing. -/
def takeTimes : Nat → State → Option Word → Option (State × Option Word)
  | 0, s, v => some (s, v)
  | n + 1, s, v =>
    match s.replayed 8 with
    | some (e, s1) => takeTimes n s1 (if v.isSome then v else some e.value)
    | none => none

/-- Log or take what the bundle reads of time; log the negative token statuses it reads. None at a divergence. -/
def State.recordReads (s : State) (ops : List IOp) : Option State :=
  let n := tqReads ops
  let toks := (ops.filter (·.on)).flatMap fun i => (s.regsOf i).flatMap fun r => s.core.live.ftok.filter fun t => t.reg == r.val
  let s1 := toks.foldl (fun s t => s.logRec 9 (statusW t.status).toNat t.code) s
  if s.repMode = 2 then
    (takeTimes n s1 none).map fun p => { p.1 with core := { p.1.core with iss := { p.1.core.iss with tqv := p.2 } } }
  else if s.repTq then some ((List.range n).foldl (fun s _ => s.logRec 8 s.tick 0) s1) else some s1

/-! ### Running the slots -/

/-- Keep the record of a slot, its V indices stepped (spec/04 R108, R111). -/
def State.keepSticky (s : State) (i : IOp) : State :=
  match i.slot.sticky with
  | none => s
  | some k =>
    if !i.op.recorded then s
    else
      let c := s.core
      let u : Fin 2 := if i.slot = .v1 then 1 else 0
      let r : Sticky := { guard := i.guard, op := stepInstr c.live.portV[u] i.op, pcb := c.iss.pcb, thr := i.thr }
      { s with core := { c with sticky := c.sticky.set k (some r) } }

/-- Issue the operations in template order, each in its piece. A trap, a return or the end of a request leaves no bundle in
issue, and the rest does not issue. -/
def runOps (cyc : Nat) (two : List Slot) : List IOp → State → Res
  | [], s => .next s
  | i :: is, s =>
    let p := if two.contains i.slot then 1 else 0
    let s1 := s.at i
    let s2 : State := { s1 with core := { s1.core with cyc := cyc + p, iss := { s1.core.iss with piece := p } } }
    match (if i.on then runSlot i.op s2 else .next s2) with
    | .next t => if t.core.iss.live then runOps cyc two is (t.keepSticky i) else .next t
    | r => r

/-- The entry of the Y slot, which template order puts first, goes behind that of the L slot (spec/07 R174, R188). -/
def orderWhb (n : Nat) (y l : Bool) (w : List WEntry) : List WEntry :=
  if y && l then w.take n ++ (w.drop (n + 1)).take 1 ++ (w.drop n).take 1 ++ w.drop (n + 2) else w

/-- Tokens read: later loads see what their copies wrote (spec/10 R258). -/
def Core.tokAcquire (c : Core) (rs : List Nat) : Core :=
  let hit := c.tacq.filter fun t => rs.contains t.1
  if hit.isEmpty then c
  else { c with lastWr := hit.foldl (fun l t => lastPut l t.2.1 t.2.2) c.lastWr, tacq := c.tacq.filter fun t => !(rs.contains t.1) }

/-! ### After the slots -/

/-- Turn both wheels; the new logical p8 takes the stage predicate (spec/03 R78). -/
def State.rotate (s : State) : State :=
  let l := s.core.live
  let l1 := { l with xwo := l.xwo + 1, pwo := l.pwo + 1 }
  let q := physP l1 8
  let m : BitVec 16 := 1 <<< q.val
  { s with core := { s.core with live := { l1 with p := (l1.p &&& ~~~m) ||| (if l1.stage then m else 0) } } }

/-- An effect at the end of the bundle on the live state (spec/06 R167 to R169, spec/07 R195). -/
def Live.endWrite (l : Live) : EobWrite → Live
  | .sg n v => { l with sg := l.sg.set n v }
  | .vstp k v => { l with portV := l.portV.set k v }
  | .fm n v => { l with fm := l.fm.set n v }
  | .tb n a link =>
    { l with tb := l.tb.set n { valid := true, addr := a.setWidth 48, link := link, copy := false, filling := true,
                                top := if canonical a then none else some (a.extractLsb' 48 16) } }
  | .ag v p => match p with
    | some (e, o, b) =>
      let m : BitVec 16 := (1 <<< e.val) ||| (1 <<< o.val)
      { l with gq := v, p := (l.p &&& ~~~m) ||| (if b then 1 <<< e.val else 1 <<< o.val) }
    | none => { l with gq := v }
  | .pbound _ | .mask .. => l

/-- An outcome of an agreement known as it issued: written at the end of that issue, which reads what stood before it (spec/04
R103). -/
def EobWrite.now : EobWrite → Bool
  | .ag .. => true
  | _ => false

def Core.issueEnd (c : Core) : Core :=
  { c with live := (c.iss.eob.filter EobWrite.now).foldl Live.endWrite c.live
           iss := { c.iss with eob := c.iss.eob.filter fun w => !w.now } }

/-- The link is written: visible to the target, it stands over every scoreboarded result to x1 still to come (spec/04 R113, spec/12 R319,
log 113). -/
def Core.link (c : Core) (next : Word) : Core :=
  { c with live := { c.live with x := c.live.x.set 1 next }.clearTok 1
           outst := c.outst.map fun o => if o.xd == some 1 then { o with xd := none } else o }

/-- A transfer through an entry: spec/04 R113, R114, spec/11 R305. -/
def State.transfer (s : State) (b : Bundle) (e : TBuf) : State :=
  let target := e.target
  if !e.valid then s.takeTrap (s.core.trapAt 0 0x02)
  else if s.onSaffron && target == saffronEnd then
    let s1 := s.landAll
    match s1.core.pend with
    | some t => s1.takeTrap t
    | none => s1.saffronDone 0 0
  else
    let c := if e.link then s.core.link s.core.iss.next else s.core
    let l := c.live
    let t := l.tb[b.hdr.tb]
    let l1 := if t.copy then l else { l with tb := l.tb.set b.hdr.tb { t with filling := true } }
    { s with core := { c with live := l1, pc := target, iss := {} } }

/-- The bundle has issued for the last time: effects at its end, then the release of the core, the end of the task, the transfer
or the next bundle. -/
def State.finish (s : State) (b : Bundle) (take : Bool) : State :=
  let c := s.core
  let e := c.live.tb[b.hdr.tb]
  let s1 : State := { s with core := { c.endControls with live := c.iss.eob.foldl Live.endWrite c.live, drain := b.hdr.d && !s.onSaffron } }
  match c.iss.leave with
  | some w =>
    -- a handler has no task of its own to save: its bundle waits (log 43)
    if c.phase == .handler then { s with core := { c with iss := { c.iss with leave := none } } }
    else s1.startSave 1 (if w == .none then 1 else 2) w
  | none =>
    if c.iss.ending = 1 then { s1 with core := { s1.core with pc := c.iss.next, phase := .ending, iss := {} } }
    else if c.iss.ending = 2 then { s1 with core := { s1.core with pc := c.iss.next, phase := .stopped, iss := {} } }
    else if take then s1.transfer b e
    else { s1 with core := { s1.core with pc := c.iss.next, iss := {} } }

/-- Counts of one issue: spec/04 R104, R117, spec/18 R344, spec/20 R404. Of its pieces the first `counted` stand in ACNT already. -/
def Core.count (c : Core) (pieces counted : Nat) (saffron : Bool) (tick : Nat) : Core :=
  { c with
    cyc := c.cyc + pieces
    rowOld := []
    trk := { c.trk with wrNow := [] }
    seq := c.seq + 1
    icnt := if c.phase == .handler then c.icnt else c.icnt + 1
    acnt := if saffron then c.acnt else c.acnt + (pieces - counted)
    agw := c.agw.map fun w : AgWait => if w.on then { w with since := tick } else w }

/-- After the slots of an issue in `pieces` pieces, of which the first `counted` have been counted: counts and rotation, then the next
repeat or the bundle's end, and what is due at the boundary lands (spec/03 R89, spec/04 R106). Whether it lands before or after the rotation
writes the stage predicate, and before or after a transfer writes its link to x1, is free: which of two writes stands is undefined (spec/12
R319, log 107). On Saffron, where every result is scoreboarded, it lands first (spec/04 R128). -/
def State.afterSlots (t : State) (b : Bundle) (pieces counted : Nat) (take : Bool) : State :=
  let t0 : State := { t with core := t.core.issueEnd.count pieces counted t.onSaffron t.tick }
  let first := if t0.onSaffron then 3#2 else t0.free 2 (5 * 2 ^ 57)
  let t1 := if b.hdr.w && first.getLsbD 0 then t0.landDue.rotate else if b.hdr.w then t0.rotate else t0
  let t2 := if take && first.getLsbD 1 then t1.landDue else t1
  (if t2.core.iss.rep < b.hdr.rc.toNat then
    { t2 with core := { t2.core with iss := { t2.core.iss with rep := t2.core.iss.rep + 1, tqv := none } } }
  else t2.finish b take).landDue.hLandDue

/-- The operations of an issue without a start of C1 that forms a second piece with others: it issues after them, once its own
bank set is free (spec/04 R118). -/
def lateOp (two : List Slot) (ops : List IOp) : List IOp × Option IOp :=
  let late := fun i : IOp => two.contains .c1 && i.slot == .c1 && i.on && i.op.cStart.isSome
  (ops.filter fun i => !late i, ops.find? late)

/-- The scalar state that a start of C1 works with in a second piece: that of the first piece (spec/04 R118), but C1's engine sets as they
stand now, which a window may have written since (spec/03 R89). -/
def Late.liveIn (l : Late) (now : Live) : Live :=
  { l.live with ftok := now.ftok, cs := l.live.cs.set 1 now.cs[1], ca := l.live.ca.set 1 now.ca[1] }

/-- What it leaves: the scalar state as it stands now, with C1's engine sets, its operand port where it loads it, and the kept faults. -/
def IOp.liveOut (i : IOp) (now r : Live) : Live :=
  { now with ca := now.ca.set 1 r.ca[1], cs := now.cs.set 1 r.cs[1], ftok := r.ftok
             portC := if i.srcs.any (· != .ko) then now.portC.set 1 r.portC[1] else now.portC }

/-- Issue the start of C1 of a second piece, or hold it for its banks: the first piece counts as an issue cycle as it begins to wait
(spec/04 R117, spec/18 R344). Its operands, the timebase among them, its guard and its names are those of the first piece (spec/04 R118);
what it writes of the scalar state is C1's own. -/
def State.issueLate (s : State) (b : Bundle) (l : Late) : Res :=
  let i : IOp := { slot := .c1, guard := l.guard, op := l.op, again := l.again, thr := l.thr, on := true }
  let now := s.core.live
  let waited := if s.core.iss.late.isSome then 1 else 0
  let s1 : State := { s with core := { s.core with live := l.liveIn now } }
  if s1.bankStall i then
    let tq := s.core.iss.tqv.getD (BitVec.ofNat 64 s.tick)
    .next { s with core := { s.core with iss := { s.core.iss with late := some l, tqv := some tq }, acnt := s.core.acnt + (1 - waited) } }
  else
    let s2 := s1.at i
    match runSlot l.op { s2 with core := { s2.core with iss := { s2.core.iss with piece := 1, late := none } } } with
    | .next t =>
      if !t.core.iss.live then .next t
      else
        let t1 : State := { t with core := { t.core with live := i.liveOut now t.core.live } }
        .next ((t1.keepSticky i).afterSlots b 2 waited l.take)
    | r => r

/-- The bundle of the task in focus has issued: any core of its AFF serves it again (spec/07 R192). -/
def State.unpin (s : State) : State :=
  match s.core.task with
  | some n => { s with tasks := s.tasks.map fun t : Task => if t.id == n then { t with pin := none } else t }
  | none => s

/-- One more counted cycle and the task in focus is rolled back (spec/20 R396). -/
def State.atBound (s : State) : Bool :=
  let c := s.core
  c.phase == .run && c.pbound != 0 && c.acnt == c.pbound.toNat && (match s.reqLive s.here with
    | some r => r.cross
    | none => false)

/-- One repeat of a bundle that nothing holds: slots, rotation, and after the last repeat its end. Of a split bundle whose first piece
passes PBOUND no second piece issues, and the rollback that is due discards the first (spec/04 R117, spec/20 R396). -/
def State.issue (s : State) (b : Bundle) (ops : List IOp) (take : Bool) : Res :=
  let two := s.second ops
  let cyc := s.core.cyc
  let n := s.core.whb.length
  let on := ops.filter (·.on)
  let enters := fun sl => on.any fun i => i.slot == sl && s.entries i != 0
  let regs := (on.flatMap s.regsOf).map (·.val)
  let p := lateOp two ops
  match s.recordReads ops with
  | none => .next s.diverge
  | some s0 =>
    if !two.isEmpty && s.atBound then
      match runOps cyc [] (ops.filter fun i => !two.contains i.slot) s0 with
      | .next t => .next (if t.core.iss.live then { t with core := { t.core with cyc := cyc + 1, acnt := t.core.acnt + 1 } } else t)
      | r => r
    else match runOps cyc two p.1 s0 with
    | .next t =>
      if !t.core.iss.live then .next t
      else
        -- a handler's bundle is none of the task's
        let t := if s.core.phase == .handler then t else t.unpin
        let c := t.core
        let c := { c with cyc := cyc, whb := if t.onSaffron then c.whb else orderWhb n (enters .y) (enters .l) c.whb }
        let t1 : State := { t with core := c.tokAcquire regs }
        match p.2 with
        | some i => t1.issueLate b { op := i.op, again := i.again, thr := i.thr, guard := i.guard, live := s0.core.live, take := take }
        | none => .next (t1.afterSlots b (if two.isEmpty then 1 else 2) 0 take)
    | r => r

/-! ### Before the slots -/

/-- Nothing issues on this agent, not even the rest of its bundle: it runs nothing, a forced rollback is due (spec/18 R344), or a held
trap waits. -/
def State.stopShut (s : State) : Bool :=
  let c := s.core
  !(c.phase == .run || c.phase == .handler) || c.heldTrap.isSome || s.pastBound

/-- No bundle issues on this agent: nothing does, its die is too hot and it stands between bundles, or an agreement or an `ifence`
holds issue. -/
def State.heldShut (s : State) : Bool :=
  let c := s.core
  s.stopShut || (c.agOpen && !c.runAhead) || (s.hot.getLsbD (keyDie s.here) && !s.onSaffron && c.iss.rep == 0) || c.fence == some 4

/-- The same, or a second piece still to issue: an agreement's bundle issues whole before it stalls (spec/01 R25). -/
def State.issueShut (s : State) : Bool := s.heldShut || s.core.iss.late.isSome

/-- A fill of the target at the program counter runs. -/
def Core.fillWait (c : Core) : Bool := c.live.tb.toList.any fun t => t.valid && t.filling && t.target == c.pc

/-- Everything due lands, and after a D bundle everything does (spec/04 R106, R115, spec/10 R255). -/
def State.settle (s : State) : State :=
  let s := s.landDue.hLandDue.endEarly
  if s.core.drain then let t := s.landEverything; { t with core := { t.core with drain := false } } else s

/-- The bundle at the program counter enters issue. -/
def State.begin (s : State) (ws : List Syl) : State :=
  let c := s.core
  { s with core := { c with iss := { live := true, pcb := c.pc, next := c.pc + BitVec.ofNat 64 (4 * ws.length), ws := ws,
                                     q := (hdrOf (ws.headD 0)).q } } }

/-- A core-releasing bundle (spec/07 R190). -/
def bundleReleases (b : Bundle) : Bool := b.ops.any fun o => releases b.hdr o.op

/-- PRIV, whatever the guard (spec/04 R101, R102). -/
def State.privTrap (s : State) (b : Bundle) : Option TrapInfo :=
  if s.core.priv then none
  else (b.ops.find? fun o => o.op.privileged).map fun o => s.core.trapAt o.slot.num 0x03

/-- Where a bundle stands before its slots: it stalls (spec/07 R199), the step ends with a state (a trap, a save), or it may
issue. -/
inductive Plan where
  | stall (s : State)
  | stop (s : State)
  | go (s : State) (b : Bundle) (ops : List IOp) (take : Bool)

/-- Value of the transfer predicate, none while its pair is pending (spec/04 R113, spec/11 R290). -/
def State.transferPred (s : State) (b : Bundle) : Option Bool :=
  let q := physP s.core.live b.hdr.pg
  let ag := match s.core.agw with
    | some w => if w.on then w.hintOf q else none
    | none => none
  match ag with
  | some h => h
  | none => if s.core.predPending q then none
    else some (State.pred { s with core := { s.core with iss := { s.core.iss with slot := .p, piece := 0 } } } b.hdr.pg)

/-- The link of a transfer is a write of x1, and waits while x1 is a pending token (spec/10 R256). A load or once-only result to x1 that
is still to come is earlier in issue order and does not stand over it (spec/04 R113, spec/12 R319). -/
def State.linkWaits (s : State) (b : Bundle) : Bool :=
  let e := s.core.live.tb[b.hdr.tb]
  e.valid && e.link && s.pendingTok s.here 1

/-- The stalls and the traps before the slots. `s` is the state a stall leaves. -/
def State.planSlots (s : State) (b : Bundle) : Plan :=
  let s0 : State := { s with core := { s.core with iss := { s.core.iss with piece := 0 } } }
  let ops := s0.issueOps b
  let take := if b.hdr.j && s0.core.iss.rep == b.hdr.rc.toNat then (s0.transferPred b).map (· != b.hdr.pn) else some false
  match take with
  | none => .stall s
  | some tk =>
    if (tk && s0.linkWaits b) || s0.stalled b ops then .stall s
    else match s0.preTrap ops with
      | some t => .stop (s0.takeTrap t)
      | none =>
        match (ops.filter (·.on)).findSome? s0.tokTrap with
        | some p => .stop (s0.tokFault p.1 p.2)
        | none => .go s0 b ops tk

/-- The first slot, in template order, whose operation or whose record to issue again names an invalid format register. -/
def State.fmFirst (s : State) (h : Hdr) (ops : List SlotOp) : Option Nat :=
  Sys2Proof.slots.findSome? fun sl =>
    match ops.find? (fun o => o.slot == sl) with
    | some o => s.fmSlot sl o.op
    | none =>
      if h.slots.contains sl || h.z || h.k then none
      else match sl.sticky with
        | some k => (s.core.sticky[k]).bind fun r => s.fmSlot sl r.op
        | none => none

/-- The bundle, or its decode trap: ILLB, then every ILLOP found by decode (spec/04 R102). -/
def State.decoded (s : State) (ws : List Syl) : Except TrapInfo Bundle :=
  let fm := s.fmFirst (hdrOf (ws.headD 0)) (soloOps ws)
  let illop := fun n => Except.error (s.core.trapAt n DErr.illop.cause)
  match decodeBundle s.onSaffron ws with
  | .error (.illb, n) => .error (s.core.trapAt n DErr.illb.cause)
  | .error (.illop, n) => illop (match fm with
      | some m => min m n
      | none => n)
  | .ok b => match fm with
    | some m => illop m
    | none => .ok b

/-- The bundle, whose checkpoint's actions are done, releases its core as it issues now. -/
def State.releasesNow (s : State) (b : Bundle) : Bool :=
  bundleReleases b && (match s.planSlots b with
    | .go t _ ops take => (match t.issue b ops take with
      | .next u => u.core.phase == .saving
      | _ => false)
    | _ => false)

/-- A pre-emption taken at a point: why it is saved (spec/20 R395, R404). A core-releasing bundle takes either request. In replay the
records say when; the last record due at a bundle that releases its core is that release's own. -/
def State.preemptNow (s : State) (b : Bundle) : Option Nat :=
  let c := s.core
  let h := b.hdr
  if c.phase != .run then none
  else if s.repMode = 2 then
    match s.preemptRec with
    | some r =>
      let here := r.value == 3 || (r.value == 1 && h.q) || (r.value == 2 && h.a)
      let own := s.releasesNow b && !((s.recFrom (· == 6) (r.n + 1)).any fun q => decide (q.icnt ≤ c.icnt))
      if r.icnt ≤ c.icnt && here && !own then some r.value.toNat else none
    | none => none
  else match s.reqLive s.here with
    | some r => if r.cross && h.a then some 2 else if (!r.cross && h.q) || bundleReleases b then some 1 else none
    | none => none

/-- The bundle's own traps, its pre-emption point, then its slots. The checkpoint's actions are done. -/
def State.planBody (s : State) : Plan :=
  match s.decoded s.core.iss.ws with
  | .error t => .stop (s.takeTrap t)
  | .ok b =>
    match s.privTrap b with
    | some t => .stop (s.takeTrap t)
    | none =>
      match (if b.hdr.k then s.preemptNow b else none) with
      | some why => .stop (s.startSave why 0 .none)
      | none => s.planSlots b

/-- The checkpoint of a K bundle: it waits for scoreboarded results and for room for its pushes, and stops run-ahead (spec/01 R15,
R26, spec/07 R199, R202). `s0` is the state a stall leaves. -/
def State.planCheckpoint (s s0 : State) : Plan :=
  if s.core.runAhead || !s.core.outst.isEmpty || !s.pushesFit then .stall s0
  else
    let s1 := s.landEverything
    match s1.core.pend with
    | some t => .stop (s1.takeTrap t)
    | none =>
      let pcb := s1.core.iss.pcb
      let seq := s1.core.seq
      let h := hdrOf (s1.core.iss.ws.headD 0)
      let r := s1.checkpoint pcb
      let c := r.1.core
      let s2 : State := { r.1 with core := { c with iss := { c.iss with ck := true }, acnt := if h.a then 0 else c.acnt } }
      match refusedTrap seq pcb r.2 with
      | some t => .stop (s2.takeTrap t)
      | none => s2.planBody

/-- The next bundle issue of the agent in focus, up to its slots. A stall leaves the state as it was, but for a checkpoint's
actions already done. -/
def State.plan (s : State) : Plan :=
  if s.issueShut then .stall s
  else if s.core.iss.live then
    if s.core.iss.ck then s.settle.planBody
    else match decodeBundle s.onSaffron s.core.iss.ws with
      | .error _ => .stall s
      | .ok b => match s.settle.planSlots b with
        | .stall _ => .stall s
        | p => p
  else
    let s1 := s.settle
    -- a fault ends a Saffron request at its bundle (spec/11 R305)
    if s1.onSaffron && s1.core.pend.isSome then .stop (s1.core.pend.elim s1 s1.takeTrap)
    else if s1.core.fillWait then .stall s
    else
      match s1.fetch s1.core.pc with
      | .error e =>
        .stop (s1.takeTrap { cause := 0x04, detail := BitVec.ofNat 32 e.1, slot := 0, pcb := s1.core.pc, addr := e.2,
                             seq := s1.core.seq })
      | .ok ws =>
        let s2 := s1.begin ws
        if (hdrOf (ws.headD 0)).k && !s2.onSaffron then s2.planCheckpoint s
        else match s2.planBody with
          | .stall _ => .stall s
          | p => p

/-- The core stalls under spec/07 R199: a bundle, of its task or of a handler, waits that neither the temperature nor a forced rollback
holds. A bundle at its rendezvous is one (spec/09 R244). -/
def State.stallsNow (s : State) : Bool :=
  (s.core.phase == .run || s.core.phase == .handler) && !s.hot.getLsbD (keyDie s.here) && !s.pastBound &&
  (s.core.iss.late.isSome || s.core.joinAt.any (!·.go) || (match s.plan with
    | .stall _ => true
    | _ => false))

/-- A cooperative start that waits for its rendezvous. -/
def State.joinOp (s : State) (ops : List IOp) : Option (IOp × Nat × Option (Fin 14 × Src)) :=
  (ops.filter (·.on)).findSome? fun i => match i.op.mStart with
    | some (op, w) => if hIsJoin op && !((s.core.joinAt.map (·.go)).getD false) then some (i, op, w) else none
    | none => none

/-- A cycle passes without an issue: a row that a copy has overwritten is new to every later read (spec/08 R210). -/
def State.rowsNew (s : State) : State := if s.core.rowOld.isEmpty then s else { s with core := { s.core with rowOld := [] } }

/-- Issue the next bundle, or one more repeat of it: spec/04 R104. -/
def execBundleIssue (s : State) : Res :=
  match s.core.iss.late, decodeBundle s.onSaffron s.core.iss.ws with
  | some l, .ok b => if s.stopShut then .next s else s.issueLate b l
  | _, _ =>
    match s.plan with
    | .stall t => .next t.rowsNew
    | .stop t => .next t
    | .go t b ops take =>
      match t.joinOp ops with
      | some (i, op, w) => .next ((t.at i).mArrive op w)
      | none => t.issue b ops take

/-! ### The rendezvous (spec/09 R244) -/

/-- Nothing but the rendezvous holds the bundle of a member. -/
def State.joinClear (s : State) (k : Nat) : Bool :=
  match (s.focus k).plan with
  | .go _ _ _ _ => true
  | _ => false

/-- A waiting member as it stands now: a window may have written its shadow set since it arrived (spec/03 R89, spec/09 R245). -/
def State.joinNow (s : State) (k : Nat) : Core :=
  let c := s.coreOf k
  match c.joinAt with
  | some j =>
    if j.go then c
    else match (s.focus k).plan with
      | .go t _ ops _ => match t.joinOp ops with
        | some (i, op, w) => { c with joinAt := some ((t.at i).mJoinOf op w j.tick) }
        | none => c
      | _ => c
  | none => c

/-- Every member that waits in the cluster of the core in focus as it stands now. -/
def State.joinsNow (s : State) : State :=
  ((List.range 8).map (s.here / 8 * 8 + ·)).foldl (fun s k => if (s.coreOf k).joinAt.isSome then s.setCore k (s.joinNow k) else s) s

def issueEach : List Nat → State → Res
  | [], s => .next s
  | k :: ks, s =>
    match execBundleIssue (s.focus k) with
    | .next t => issueEach ks t
    | r => r

/-- The rendezvous of the agent in focus: members whose starts disagree raise MSHAPE; else every member's bundle issues. -/
def execMjoinRendezvous (s0 : State) : Res :=
  let s := s0.joinsNow
  match s.joinState with
  | .waiting => .next s
  | .clash ks => .next ((ks.foldl (fun s k => (s.focus k).joinTrap 5) s).focus s.here)
  | .ready ks =>
    if ks.all s.joinClear then
      let s1 := ks.foldl (fun s k => s.modCore k fun c => { c with joinAt := c.joinAt.map fun j : Join => { j with go := true } }) s
      match issueEach ks s1 with
      | .next t => .next (t.focus s.here)
      | r => r
    else .next s

/-! ### The yield threshold (spec/01 R25) -/

/-- A bundle waits for the outcome itself: it reads `gq`, the pair or the status word (spec/11 R290). -/
def State.agReads (s : State) (b : Bundle) : Bool :=
  match s.core.agw with
  | none => false
  | some w =>
    let ops := s.issueOps b
    let pend := fun p => (w.hintOf (physP s.core.live p)).isSome
    ops.any (fun i => pend i.guard) || (ops.filter (·.on)).any fun i =>
      i.srcs.contains .gq || i.op.preds.any pend || (match i.op with
        | .agst _ m sel => (sel.val == 0 || sel.val == 2) && w.mb == m.val
        | _ => false)

/-- Run-ahead has stopped: at a K bundle, a full buffer, a held trap, or a bundle that waits for the outcome itself (spec/01 R26, R28,
spec/11 R290). -/
def State.runStopped (s0 : State) : Bool :=
  let s := s0.settle
  s.core.heldTrap.isSome ||
  (match (if s.core.iss.live then Except.ok s.core.iss.ws else s.fetch s.core.pc) with
    | .ok ws =>
      (hdrOf (ws.headD 0)).k ||
      (match decodeBundle false ws with
        | .ok b => s.agReads b ||
            decide (whbMax < s.core.whb.length + ((s.issueOps b).filter (·.on)).foldl (fun n i => n + s.entries i) 0)
        | .error _ => false)
    | .error _ => false)

/-- A stall for an outcome that has outlasted the group's threshold. -/
def State.yieldDue (s : State) : Option AgWait :=
  match s.core.agw with
  | some w =>
    let y := s.gYield w.g
    if w.on && s.core.phase == .run && s.core.iss.late.isNone && y != 0 && decide (w.since + y < s.tick) && (!s.core.runAhead || s.runStopped) then some w
    else none
  | none => none

/-- Roll back, save and wait for the outcome. -/
def execYieldThresholdExpiry (s : State) : Res :=
  match s.yieldDue with
  | some w => .next (s.startSave 3 2 (.agree w.g w.m w.seq))
  | none => .next s

end Sys2Proof.Machine
end

