-- ==== Sys2Proof/Machine/Dispatch.lean ====
section
/-!
DEFINITION. The meaning of every instruction and event of spec/opcode_table.json, one arm each.
-/
namespace Sys2Proof.Machine

def exec (i : Instr) (s : State) : Host.Outcome State Fault Refusal :=
  match i with
  | .pfx a b c d => Sys2Proof.Machine.execPfx a b c d s
  | .add a b c => Sys2Proof.Machine.execAdd a b c s
  | .sub a b c => Sys2Proof.Machine.execSub a b c s
  | .mul a b c => Sys2Proof.Machine.execMul a b c s
  | .mulh a b c => Sys2Proof.Machine.execMulh a b c s
  | .mulhn a b c => Sys2Proof.Machine.execMulhn a b c s
  | .and a b c => Sys2Proof.Machine.execAnd a b c s
  | .or a b c => Sys2Proof.Machine.execOr a b c s
  | .xor a b c => Sys2Proof.Machine.execXor a b c s
  | .andn a b c => Sys2Proof.Machine.execAndn a b c s
  | .shl a b c => Sys2Proof.Machine.execShl a b c s
  | .shr a b c => Sys2Proof.Machine.execShr a b c s
  | .sar a b c => Sys2Proof.Machine.execSar a b c s
  | .rotl a b c => Sys2Proof.Machine.execRotl a b c s
  | .min a b c => Sys2Proof.Machine.execMin a b c s
  | .max a b c => Sys2Proof.Machine.execMax a b c s
  | .minn a b c => Sys2Proof.Machine.execMinn a b c s
  | .maxn a b c => Sys2Proof.Machine.execMaxn a b c s
  | .sext a b c => Sys2Proof.Machine.execSext a b c s
  | .zext a b c => Sys2Proof.Machine.execZext a b c s
  | .clz a b => Sys2Proof.Machine.execClz a b s
  | .ctz a b => Sys2Proof.Machine.execCtz a b s
  | .popc a b => Sys2Proof.Machine.execPopc a b s
  | .bfx a b c => Sys2Proof.Machine.execBfx a b c s
  | .bfi a b c => Sys2Proof.Machine.execBfi a b c s
  | .li a b => Sys2Proof.Machine.execLi a b s
  | .lih a b c => Sys2Proof.Machine.execLih a b c s
  | .cmpeq a b c => Sys2Proof.Machine.execCmpeq a b c s
  | .cmpne a b c => Sys2Proof.Machine.execCmpne a b c s
  | .cmplt a b c => Sys2Proof.Machine.execCmplt a b c s
  | .cmple a b c => Sys2Proof.Machine.execCmple a b c s
  | .cmpltn a b c => Sys2Proof.Machine.execCmpltn a b c s
  | .cmplen a b c => Sys2Proof.Machine.execCmplen a b c s
  | .cmptst a b c => Sys2Proof.Machine.execCmptst a b c s
  | .pand a b c d e => Sys2Proof.Machine.execPand a b c d e s
  | .por a b c d e => Sys2Proof.Machine.execPor a b c d e s
  | .pxor a b c d e => Sys2Proof.Machine.execPxor a b c d e s
  | .fadd a b c => Sys2Proof.Machine.execFadd a b c s
  | .fsub a b c => Sys2Proof.Machine.execFsub a b c s
  | .fmul a b c => Sys2Proof.Machine.execFmul a b c s
  | .fma a b c => Sys2Proof.Machine.execFma a b c s
  | .fdiv a b c => Sys2Proof.Machine.execFdiv a b c s
  | .fsqrt a b => Sys2Proof.Machine.execFsqrt a b s
  | .fmin a b c => Sys2Proof.Machine.execFmin a b c s
  | .fmax a b c => Sys2Proof.Machine.execFmax a b c s
  | .fcmpeq a b c => Sys2Proof.Machine.execFcmpeq a b c s
  | .fcmplt a b c => Sys2Proof.Machine.execFcmplt a b c s
  | .fcmple a b c => Sys2Proof.Machine.execFcmple a b c s
  | .fcvtfi a b c => Sys2Proof.Machine.execFcvtfi a b c s
  | .fcvtif a b c => Sys2Proof.Machine.execFcvtif a b c s
  | .qmk a b c => Sys2Proof.Machine.execQmk a b c s
  | .qnum a b => Sys2Proof.Machine.execQnum a b s
  | .qden a b => Sys2Proof.Machine.execQden a b s
  | .qflr a b => Sys2Proof.Machine.execQflr a b s
  | .qceil a b => Sys2Proof.Machine.execQceil a b s
  | .qfromf a b => Sys2Proof.Machine.execQfromf a b s
  | .qtof a b => Sys2Proof.Machine.execQtof a b s
  | .lcset a b => Sys2Proof.Machine.execLcset a b s
  | .lcget a b => Sys2Proof.Machine.execLcget a b s
  | .lcnext a b c => Sys2Proof.Machine.execLcnext a b c s
  | .rdid a b => Sys2Proof.Machine.execRdid a b s
  | .rdfst a => Sys2Proof.Machine.execRdfst a s
  | .wrfst a => Sys2Proof.Machine.execWrfst a s
  | .sgset a b => Sys2Proof.Machine.execSgset a b s
  | .vstp a b => Sys2Proof.Machine.execVstp a b s
  | .fmset a b => Sys2Proof.Machine.execFmset a b s
  | .fmget a b => Sys2Proof.Machine.execFmget a b s
  | .bprep a b => Sys2Proof.Machine.execBprep a b s
  | .bprepL a b => Sys2Proof.Machine.execBprepL a b s
  | .bprepi a b => Sys2Proof.Machine.execBprepi a b s
  | .bprepiL a b => Sys2Proof.Machine.execBprepiL a b s
  | .sysc a => Sys2Proof.Machine.execSysc a s
  | .brk a => Sys2Proof.Machine.execBrk a s
  | .rdcr a b => Sys2Proof.Machine.execRdcr a b s
  | .wrcr a b => Sys2Proof.Machine.execWrcr a b s
  | .ldN8 a b c => Sys2Proof.Machine.execLdN8 a b c s
  | .ldN16 a b c => Sys2Proof.Machine.execLdN16 a b c s
  | .ldN32 a b c => Sys2Proof.Machine.execLdN32 a b c s
  | .ldN64 a b c => Sys2Proof.Machine.execLdN64 a b c s
  | .stN8 a b c => Sys2Proof.Machine.execStN8 a b c s
  | .stN16 a b c => Sys2Proof.Machine.execStN16 a b c s
  | .stN32 a b c => Sys2Proof.Machine.execStN32 a b c s
  | .stN64 a b c => Sys2Proof.Machine.execStN64 a b c s
  | .ldsN8 a b c => Sys2Proof.Machine.execLdsN8 a b c s
  | .ldsN16 a b c => Sys2Proof.Machine.execLdsN16 a b c s
  | .ldsN32 a b c => Sys2Proof.Machine.execLdsN32 a b c s
  | .ldsN64 a b c => Sys2Proof.Machine.execLdsN64 a b c s
  | .stsN8 a b c => Sys2Proof.Machine.execStsN8 a b c s
  | .stsN16 a b c => Sys2Proof.Machine.execStsN16 a b c s
  | .stsN32 a b c => Sys2Proof.Machine.execStsN32 a b c s
  | .stsN64 a b c => Sys2Proof.Machine.execStsN64 a b c s
  | .amoadd a b c => Sys2Proof.Machine.execAmoadd a b c s
  | .amoswp a b c => Sys2Proof.Machine.execAmoswp a b c s
  | .amocas a b c => Sys2Proof.Machine.execAmocas a b c s
  | .amomin a b c => Sys2Proof.Machine.execAmomin a b c s
  | .amomax a b c => Sys2Proof.Machine.execAmomax a b c s
  | .amoand a b c => Sys2Proof.Machine.execAmoand a b c s
  | .amoor a b c => Sys2Proof.Machine.execAmoor a b c s
  | .qpush a b => Sys2Proof.Machine.execQpush a b s
  | .qpop a b => Sys2Proof.Machine.execQpop a b s
  | .qtry a b c => Sys2Proof.Machine.execQtry a b c s
  | .tspawn a b c => Sys2Proof.Machine.execTspawn a b c s
  | .sframe a b c => Sys2Proof.Machine.execSframe a b c s
  | .strunc a b c => Sys2Proof.Machine.execStrunc a b c s
  | .sadv a b c => Sys2Proof.Machine.execSadv a b c s
  | .scur a b c => Sys2Proof.Machine.execScur a b c s
  | .sgen a b c => Sys2Proof.Machine.execSgen a b c s
  | .smpl a b => Sys2Proof.Machine.execSmpl a b s
  | .sacc a b => Sys2Proof.Machine.execSacc a b s
  | .srng a => Sys2Proof.Machine.execSrng a s
  | .wait a b => Sys2Proof.Machine.execWait a b s
  | .waity a b => Sys2Proof.Machine.execWaity a b s
  | .post a b c => Sys2Proof.Machine.execPost a b c s
  | .postr a b c d => Sys2Proof.Machine.execPostr a b c d s
  | .barr a => Sys2Proof.Machine.execBarr a s
  | .agree a => Sys2Proof.Machine.execAgree a s
  | .agreep a b => Sys2Proof.Machine.execAgreep a b s
  | .agreeT a => Sys2Proof.Machine.execAgreeT a s
  | .agst a b c => Sys2Proof.Machine.execAgst a b c s
  | .vadd a => Sys2Proof.Machine.execVadd a s
  | .vsub a => Sys2Proof.Machine.execVsub a s
  | .vmul a => Sys2Proof.Machine.execVmul a s
  | .vfma a => Sys2Proof.Machine.execVfma a s
  | .vfms a => Sys2Proof.Machine.execVfms a s
  | .vmin a => Sys2Proof.Machine.execVmin a s
  | .vmax a => Sys2Proof.Machine.execVmax a s
  | .vabs a => Sys2Proof.Machine.execVabs a s
  | .vneg a => Sys2Proof.Machine.execVneg a s
  | .vmov a => Sys2Proof.Machine.execVmov a s
  | .vand a => Sys2Proof.Machine.execVand a s
  | .vor a => Sys2Proof.Machine.execVor a s
  | .vxor a => Sys2Proof.Machine.execVxor a s
  | .vnot a => Sys2Proof.Machine.execVnot a s
  | .vshl a => Sys2Proof.Machine.execVshl a s
  | .vshr a => Sys2Proof.Machine.execVshr a s
  | .vsar a => Sys2Proof.Machine.execVsar a s
  | .vceq a => Sys2Proof.Machine.execVceq a s
  | .vclt a => Sys2Proof.Machine.execVclt a s
  | .vcle a => Sys2Proof.Machine.execVcle a s
  | .vsel a => Sys2Proof.Machine.execVsel a s
  | .vcvt a => Sys2Proof.Machine.execVcvt a s
  | .vmx a => Sys2Proof.Machine.execVmx a s
  | .vunmx a => Sys2Proof.Machine.execVunmx a s
  | .vrcp a => Sys2Proof.Machine.execVrcp a s
  | .vrsq a => Sys2Proof.Machine.execVrsq a s
  | .vsqrt a => Sys2Proof.Machine.execVsqrt a s
  | .vexp2 a => Sys2Proof.Machine.execVexp2 a s
  | .vlog2 a => Sys2Proof.Machine.execVlog2 a s
  | .vtanh a => Sys2Proof.Machine.execVtanh a s
  | .vsigm a => Sys2Proof.Machine.execVsigm a s
  | .vrsum a => Sys2Proof.Machine.execVrsum a s
  | .vrmax a => Sys2Proof.Machine.execVrmax a s
  | .vrmin a => Sys2Proof.Machine.execVrmin a s
  | .vargmax a => Sys2Proof.Machine.execVargmax a s
  | .vtopk a => Sys2Proof.Machine.execVtopk a s
  | .vperm a => Sys2Proof.Machine.execVperm a s
  | .vrot a => Sys2Proof.Machine.execVrot a s
  | .vbcast a => Sys2Proof.Machine.execVbcast a s
  | .vext a => Sys2Proof.Machine.execVext a s
  | .vins a => Sys2Proof.Machine.execVins a s
  | .vany a => Sys2Proof.Machine.execVany a s
  | .vall a => Sys2Proof.Machine.execVall a s
  | .mset a b => Sys2Proof.Machine.execMset a b s
  | .mseti a b => Sys2Proof.Machine.execMseti a b s
  | .mget a b c => Sys2Proof.Machine.execMget a b c s
  | .mlatch a => Sys2Proof.Machine.execMlatch a s
  | .mgoBf16 a => Sys2Proof.Machine.execMgoBf16 a s
  | .mgoF16 a => Sys2Proof.Machine.execMgoF16 a s
  | .mgoW8 a => Sys2Proof.Machine.execMgoW8 a s
  | .mgoS8 a => Sys2Proof.Machine.execMgoS8 a s
  | .mgoW4 a => Sys2Proof.Machine.execMgoW4 a s
  | .mgoS4 a => Sys2Proof.Machine.execMgoS4 a s
  | .mjoinBf16 a => Sys2Proof.Machine.execMjoinBf16 a s
  | .mjoinF16 a => Sys2Proof.Machine.execMjoinF16 a s
  | .mjoinW8 a => Sys2Proof.Machine.execMjoinW8 a s
  | .mjoinS8 a => Sys2Proof.Machine.execMjoinS8 a s
  | .mjoinW4 a => Sys2Proof.Machine.execMjoinW4 a s
  | .mjoinS4 a => Sys2Proof.Machine.execMjoinS4 a s
  | .cset a b => Sys2Proof.Machine.execCset a b s
  | .cseti a b => Sys2Proof.Machine.execCseti a b s
  | .cget a b c => Sys2Proof.Machine.execCget a b c s
  | .cdis a => Sys2Proof.Machine.execCdis a s
  | .cpost a b c d => Sys2Proof.Machine.execCpost a b c d s
  | .cgo a b => Sys2Proof.Machine.execCgo a b s
  | .cgath a b => Sys2Proof.Machine.execCgath a b s
  | .cscat a b => Sys2Proof.Machine.execCscat a b s
  | .cfill a b => Sys2Proof.Machine.execCfill a b s
  | .cbcast a b => Sys2Proof.Machine.execCbcast a b s
  | .cdx a b => Sys2Proof.Machine.execCdx a b s
  | .cpfd a b => Sys2Proof.Machine.execCpfd a b s
  | .carm a b c => Sys2Proof.Machine.execCarm a b c s
  | .cmred a b => Sys2Proof.Machine.execCmred a b s
  | .ckvc a b => Sys2Proof.Machine.execCkvc a b s
  | .cnet a b => Sys2Proof.Machine.execCnet a b s
  | .bgo a b => Sys2Proof.Machine.execBgo a b s
  | .exposedResultLanding a => Sys2Proof.Machine.execExposedResultLanding a s
  | .loadCompletion a => Sys2Proof.Machine.execLoadCompletion a s
  | .copyCompletion a b => Sys2Proof.Machine.execCopyCompletion a b s
  | .cnetCompletion a b => Sys2Proof.Machine.execCnetCompletion a b s
  | .landingPostDelivery a => Sys2Proof.Machine.execLandingPostDelivery a s
  | .cpostDelivery a => Sys2Proof.Machine.execCpostDelivery a s
  | .armedCopyFire a => Sys2Proof.Machine.execArmedCopyFire a s
  | .flagPostDelivery a => Sys2Proof.Machine.execFlagPostDelivery a s
  | .queueMessageAppend a b c => Sys2Proof.Machine.execQueueMessageAppend a b c s
  | .flueMove a => Sys2Proof.Machine.execFlueMove a s
  | .targetFillCompletion a => Sys2Proof.Machine.execTargetFillCompletion a s
  | .preemptionRequest a => Sys2Proof.Machine.execPreemptionRequest a s
  | .agreementContributionArrival a b c => Sys2Proof.Machine.execAgreementContributionArrival a b c s
  | .lateLimitExpiry a b => Sys2Proof.Machine.execLateLimitExpiry a b s
  | .agreementOutcomeDelivery a b c => Sys2Proof.Machine.execAgreementOutcomeDelivery a b c s
  | .reportCopyWrite a b c d => Sys2Proof.Machine.execReportCopyWrite a b c d s
  | .groupInvalidate a => Sys2Proof.Machine.execGroupInvalidate a s
  | .heartbeatArrival a => Sys2Proof.Machine.execHeartbeatArrival a s
  | .deviceLoss a => Sys2Proof.Machine.execDeviceLoss a s
  | .frameArrival a b => Sys2Proof.Machine.execFrameArrival a b s
  | .rxSegmentArrival a b => Sys2Proof.Machine.execRxSegmentArrival a b s
  | .rxRemoteRead a b => Sys2Proof.Machine.execRxRemoteRead a b s
  | .bellowsMessageArrival a b => Sys2Proof.Machine.execBellowsMessageArrival a b s
  | .graphLaunch a => Sys2Proof.Machine.execGraphLaunch a s
  | .tasksetFirstArrival a b => Sys2Proof.Machine.execTasksetFirstArrival a b s
  | .tasksetActivation a b => Sys2Proof.Machine.execTasksetActivation a b s
  | .condActivation a b => Sys2Proof.Machine.execCondActivation a b s
  | .whileActivation a b => Sys2Proof.Machine.execWhileActivation a b s
  | .joinActivation a b => Sys2Proof.Machine.execJoinActivation a b s
  | .endActivation a b => Sys2Proof.Machine.execEndActivation a b s
  | .tlbInvalidate a => Sys2Proof.Machine.execTlbInvalidate a s
  | .engineRestart a => Sys2Proof.Machine.execEngineRestart a s
  | .queueEnable a => Sys2Proof.Machine.execQueueEnable a s
  | .registerPageWindowWrite a b => Sys2Proof.Machine.execRegisterPageWindowWrite a b s
  | .registerWrite a b => Sys2Proof.Machine.execRegisterWrite a b s
  | .hostMemoryAccess a b c => Sys2Proof.Machine.execHostMemoryAccess a b c s
  | .hostCompletionTimeout a => Sys2Proof.Machine.execHostCompletionTimeout a s
  | .clockStep a => Sys2Proof.Machine.execClockStep a s
  | .bringUpStage a b => Sys2Proof.Machine.execBringUpStage a b s
  | .softErrorRollback a => Sys2Proof.Machine.execSoftErrorRollback a s
  | .machineCheck a b => Sys2Proof.Machine.execMachineCheck a b s
  | .damperCharge a b c => Sys2Proof.Machine.execDamperCharge a b c s
  | .damperRefill a b => Sys2Proof.Machine.execDamperRefill a b s
  | .chimneyLinkDown a => Sys2Proof.Machine.execChimneyLinkDown a s
  | .chimneyLinkUp a => Sys2Proof.Machine.execChimneyLinkUp a s
  | .hostWindowAccess a b c => Sys2Proof.Machine.execHostWindowAccess a b c s
  | .spdmRequest a => Sys2Proof.Machine.execSpdmRequest a s
  | .weakStoreReachesHome a => Sys2Proof.Machine.execWeakStoreReachesHome a s
  | .bundleIssue => Sys2Proof.Machine.execBundleIssue s
  | .trapEntry => Sys2Proof.Machine.execTrapEntry s
  | .hearthLanding => Sys2Proof.Machine.execHearthLanding s
  | .mjoinRendezvous => Sys2Proof.Machine.execMjoinRendezvous s
  | .mjoinWaitLimitExpiry => Sys2Proof.Machine.execMjoinWaitLimitExpiry s
  | .fenceCompletion => Sys2Proof.Machine.execFenceCompletion s
  | .taskRetirement => Sys2Proof.Machine.execTaskRetirement s
  | .taskDispatch => Sys2Proof.Machine.execTaskDispatch s
  | .forcedRollback => Sys2Proof.Machine.execForcedRollback s
  | .saveCompletion => Sys2Proof.Machine.execSaveCompletion s
  | .yieldThresholdExpiry => Sys2Proof.Machine.execYieldThresholdExpiry s
  | .heartbeatSend => Sys2Proof.Machine.execHeartbeatSend s
  | .bellowsSend => Sys2Proof.Machine.execBellowsSend s
  | .bellowsRecv => Sys2Proof.Machine.execBellowsRecv s
  | .bellowsRrs => Sys2Proof.Machine.execBellowsRrs s
  | .bellowsCopy => Sys2Proof.Machine.execBellowsCopy s
  | .bellowsWait => Sys2Proof.Machine.execBellowsWait s
  | .bellowsPost => Sys2Proof.Machine.execBellowsPost s
  | .bellowsLoop => Sys2Proof.Machine.execBellowsLoop s
  | .bellowsEndl => Sys2Proof.Machine.execBellowsEndl s
  | .bellowsHalt => Sys2Proof.Machine.execBellowsHalt s
  | .saffronRequestTake => Sys2Proof.Machine.execSaffronRequestTake s
  | .notifyRead => Sys2Proof.Machine.execNotifyRead s
  | .tlbInvalidateCompletion => Sys2Proof.Machine.execTlbInvalidateCompletion s
  | .dieFence => Sys2Proof.Machine.execDieFence s
  | .dieOpen => Sys2Proof.Machine.execDieOpen s
  | .attest => Sys2Proof.Machine.execAttest s
  | .ckpt => Sys2Proof.Machine.execCkpt s
  | .mailboxInvalidCommand => Sys2Proof.Machine.execMailboxInvalidCommand s
  | .hubLinkFailure => Sys2Proof.Machine.execHubLinkFailure s
  | .thermalFence => Sys2Proof.Machine.execThermalFence s
  | .coolantLoss => Sys2Proof.Machine.execCoolantLoss s
  | .moduleReset => Sys2Proof.Machine.execModuleReset s
  | .softErrorCorrected => Sys2Proof.Machine.execSoftErrorCorrected s
  | .hubLinkRetrain => Sys2Proof.Machine.execHubLinkRetrain s
  | .coreRestart => Sys2Proof.Machine.execCoreRestart s
  | .rfe => Sys2Proof.Machine.execRfe s
  | .halt => Sys2Proof.Machine.execHalt s
  | .fenceCore => Sys2Proof.Machine.execFenceCore s
  | .fenceDie => Sys2Proof.Machine.execFenceDie s
  | .fenceDev => Sys2Proof.Machine.execFenceDev s
  | .fenceFab => Sys2Proof.Machine.execFenceFab s
  | .ifence => Sys2Proof.Machine.execIfence s
  | .tend => Sys2Proof.Machine.execTend s
  | .yield => Sys2Proof.Machine.execYield s
  | .mclr => Sys2Proof.Machine.execMclr s
  | .mgol => Sys2Proof.Machine.execMgol s

end Sys2Proof.Machine
end

