-- ==== Sys2Proof/Machine/Events.lean ====
section
/-!
DEFINITION. What may happen next inside the module, and how time passes. An event listed here may still wait: its meaning then
leaves the state as it is. Everything that comes from outside (host, fabric, system software, errors, temperature) comes
through the agenda (log 1).
-/
namespace Sys2Proof.Machine

/-! ### Events of one agent -/

def Ev.on (k : Nat) (l : List Instr) : List Ev := l.map fun i => { who := k, ev := i }

/-- The die-level agent. -/
def dieKey (d : Nat) : Nat := d * 128 + 127

/-- Work in flight that may land, complete, post or reach home. -/
def State.flightEvents (s : State) (c : Core) : List Instr :=
  (((List.range c.land.length).filter fun i => match c.land[i]? with
      | some e => !e.landed
      | none => false).map .exposedResultLanding) ++
  (if c.outst.isEmpty then [] else [.loadCompletion 0]) ++
  (((List.range c.outst.length).filter fun i => match c.outst[i]? with
      | some _ => i != 0 && c.mayPerform i
      | none => false).map .loadCompletion) ++
  (if c.hops.isEmpty then [] else [.hearthLanding]) ++
  ((c.copies.filter fun x => x.state == .running && x.op != .bgo && !(s.cRemote x)).map fun x : Copy =>
    .copyCompletion x.id { status := 0, data := [] }) ++
  ((c.copies.filter Copy.landDue).map fun x : Copy => .landingPostDelivery x.id) ++
  ((c.cposts.filter c.cpostDue).map fun p : CPost => .cpostDelivery p.id) ++
  ((List.range c.rel.length).map fun i => match c.rel[i]? with
    | some (.post _ _) => .flagPostDelivery i
    | _ => .weakStoreReachesHome i) ++
  (((List.range c.copies.length).filter fun i => match c.copies[i]? with
      | some x => x.inParts
      | none => false).map fun i => .weakStoreReachesHome (c.rel.length + i)) ++
  (((List.range 8).filter fun t => match c.live.tb[t]? with
      | some e => e.filling
      | none => false).map .targetFillCompletion)

/-- What an agent does itself: issue, traps, waits, saves, retirement, dispatch. -/
def State.coreEvents (s : State) (k : Nat) : List Ev :=
  let c := s.coreOf k
  let issues := c.phase == .run || c.phase == .handler
  let when' := fun (b : Bool) (i : Instr) => if b then [i] else []
  Ev.on k (
    when' issues .bundleIssue ++ s.flightEvents c ++ when' c.trapDue.isSome .trapEntry ++
    when' c.fence.isSome .fenceCompletion ++
    (if c.joinAt.isSome then [Instr.mjoinRendezvous, .mjoinWaitLimitExpiry] else []) ++
    when' (c.agw.isSome && c.phase == .run) .yieldThresholdExpiry ++
    when' (c.phase == .run && c.pbound != 0 && decide (c.pbound.toNat < c.acnt)) .forcedRollback ++
    when' (c.phase == .saving) .saveCompletion ++ when' (c.phase == .ending) .taskRetirement ++
    when' (s.coreFree k && (s.pick k).isSome) .taskDispatch)

/-! ### Events of a die -/

/-- Saffrons that may take a request: a queue of theirs holds one (spec/11 R304). -/
def State.saffronEvents (s : State) : List Ev :=
  (s.mqs.filter fun m => decide (m.die < 8) && decide (112 ≤ m.q) && decide (m.q < 121) && !m.ring.isEmpty &&
      s.qEnabled m.die m.q &&
      (s.coreOf (m.die * 128 + (m.q - 40))).phase == .idle).map fun m : MQ =>
    { who := m.die * 128 + (m.q - 40), ev := .saffronRequestTake }

/-- Graph events of a launch: each node with arrivals or descriptors left, as its kind says. -/
def State.graphEvents (s : State) (d : Nat) (l : Launch) : List Instr :=
  let nodes := (l.arr.filter fun p => p.2 != 0).map (·.1) ++ l.todo.map (·.1)
  nodes.flatMap fun i => match s.gNode d l i with
    | .error _ => [.joinActivation l.h i]
    | .ok g => match g.kind with
      | 1 => [.tasksetFirstArrival l.h i, .tasksetActivation l.h i]
      | 2 => [.condActivation l.h i]
      | 3 => [.whileActivation l.h i]
      | 4 => [.joinActivation l.h i]
      | _ => [.endActivation l.h i]

def bellowsOf (n : Nat) : Instr :=
  match n with
  | 1 => .bellowsSend | 2 => .bellowsRecv | 3 => .bellowsRrs | 4 => .bellowsCopy | 5 => .bellowsWait | 6 => .bellowsPost
  | 7 => .bellowsLoop | 8 => .bellowsEndl | _ => .bellowsHalt

/-- Scheduler, walker, Flue and Bellows of a die. -/
def State.dieEvents (s : State) (d : Nat) : List Ev :=
  Ev.on (dieKey d) (
    ((s.mqs.filter fun m => m.die == d && !m.flue.isEmpty).map fun m : MQ => .flueMove m.q) ++
    (if s.tasks.all fun t => t.state != .ready then [] else
      ((List.range 64).filter fun q => (s.requester d q).isSome).map .preemptionRequest) ++
    ((s.launches.filter fun p => p.1 == d && !p.2.ended).flatMap fun p => s.graphEvents d p.2) ++
    ((s.bruns.filter fun p => p.1 == d && s.bReady p.2).map fun p : Nat × BRun => bellowsOf (s.bKind p.2)) ++
    ((s.bals.filter fun b => b.die == d && b.b != 0).map fun b : Bal =>
      .damperCharge b.ctx b.b (Config.energyUnits (s.ctr * 4 + b.b))) ++
    (if (s.dget d offTLBINV).getLsbD 0 then [.tlbInvalidateCompletion] else []) ++
    ((List.range ((s.dieRests d).1.length + (s.dieRests d).2.length)).map fun i =>
      .weakStoreReachesHome ((s.coreOf (dieKey d)).rel.length + i)))

/-! ### Events of the module -/

/-- The first contribution of each member still under way: one member's arrive in order (spec/11 R294). -/
def firstMail : List (Nat × Nat × Contrib) → List (Nat × Nat) → List Instr
  | [], _ => []
  | p :: ps, seen =>
    if seen.contains (p.1, p.2.1) then firstMail ps seen
    else .agreementContributionArrival p.1 p.2.1 p.2.2 :: firstMail ps ((p.1, p.2.1) :: seen)

/-- Devices that members of a valid group are bound to. -/
def State.groupDevices (s : State) : List Nat :=
  (List.range 256).flatMap fun g =>
    if s.gValid g then (List.range (s.gNmem g)).filterMap fun m =>
      let w := s.memWhere g m
      if w.testBit 63 then some (natBits w 11 0) else none
    else []

/-- Agreement units, heartbeats and the mailbox. -/
def State.moduleEvents (s : State) : List Ev :=
  Ev.on s.here (
    firstMail (s.agMail.filter fun p => s.gHome p.1 == s.device) [] ++
    (s.homes.flatMap fun h => (h.todo.filter fun p => s.memberHere h.g p.1).map fun p : Nat × AgOut =>
      .agreementOutcomeDelivery h.g p.1 p.2) ++
    ((s.homes.filter s.limitPast).map fun h : AgHome => .lateLimitExpiry h.g h.seq) ++
    (if s.beatTick + s.hbInt ≤ s.tick then [.heartbeatSend] else []) ++
    ((s.groupDevices.filter s.lossDue).map .deviceLoss) ++
    (if s.mbBusy then [Instr.attest, .ckpt, .mailboxInvalidCommand] else []))

/-- Everything that may happen next by itself. -/
def State.events (s : State) : List Ev :=
  s.keys.flatMap s.coreEvents ++ s.saffronEvents ++ (List.range 8).flatMap s.dieEvents ++ s.moduleEvents

/-! ### Time -/

/-- Arithmetic cycles of a span of ticks (spec/00 R3, spec/21 R423). -/
def State.cyclesOf (s : State) (dt : Nat) : Nat := (s.tick + dt) * s.mhz / 1000 - s.tick * s.mhz / 1000

/-- A cross-context request waits on a core. -/
def State.crossWaits (s : State) (k : Nat) : Bool := match s.reqLive k with
  | some r => r.cross
  | none => false

/-- Ticks that may pass at once: a task that waits under a cross-context request is rolled back as soon as its count passes PBOUND
(spec/20 R396). -/
def State.stallRoom (s : State) (dt : Nat) : Nat :=
  s.keys.foldl (fun d k =>
    let c := s.coreOf k
    if c.phase == .run && c.pbound != 0 && s.crossWaits k then min d (max 1 (c.pbound.toNat + 1 - c.acnt)) else d) dt

/-- A stall under a cross-context request counts towards PBOUND (spec/07 R200). -/
def State.stallCount (s : State) (dt : Nat) : State :=
  (s.keys.filter fun k => decide (keyIdx k < 72) && s.crossWaits k && (s.focus k).stallsNow).foldl
    (fun s k => s.modCore k fun c => { c with acnt := c.acnt + s.cyclesOf dt }) s

/-- Cores on which a context's tasks are RUNNING on a die. -/
def State.running (s : State) (d ctx : Nat) : Nat :=
  (s.keys.filter fun k => keyDie k == d && (s.coreOf k).runsTask && (s.coreOf k).taskCtx == ctx).length

/-- Charges of TIME and the refills that fall within a span of ticks (spec/19 R371). -/
def State.damper (s : State) (t0 dt : Nat) : State :=
  let n := (t0 + dt) / 1024 - t0 / 1024
  s.bals.foldl (fun s b =>
    let ticks := if b.b = 0 then b.part + dt * s.running b.die b.ctx else 0
    let s1 := s.setBal b.die b.ctx b.b fun x => min x.cap (x.bal - (ticks / 64 : Nat) + n * x.rate)
    { s1 with bals := s1.bals.map fun x : Bal =>
        if x.die == b.die && x.ctx == b.ctx && x.b == b.b then { x with part := ticks % 64 } else x }) s

/-- Let ticks pass: at least one (log 7). Late limits that end meanwhile expire at their ticks, each the last in its own (spec/11
R287). A row that a copy has overwritten is new to every later read (spec/08 R210). -/
def State.pass (s : State) : State :=
  let dt := s.stallRoom (1 + Config.tickGap s.ctr)
  let s1 := ((s.expireTo (s.tick + dt)).stallCount dt).mapCores fun c => { c with rowOld := [] }
  ({ s1 with tick := s.tick + dt }).damper s.tick dt

/-- The choice among what may happen by itself: time passes, or an event that a free value picks. -/
def State.chosen (s : State) : Option Ev := choose (s.freeNat (2 ^ 63 - 1)) none (s.events.map some)

/-- Agents that exist: the cores and Saffrons of spec/01 R11, and each die's own. -/
def agentExists (k : Nat) : Bool := agentOk k || (decide (k / 128 < 8) && k % 128 == 127)

/-- The next die to be fenced to the end. -/
def State.fencingDie (s : State) : Nat := ((List.range 8).find? fun d => s.fencing.getLsbD d).getD 0

end Sys2Proof.Machine
end

