-- ==== Sys2Proof/Machine/Place.lean ====
section
/-!
DEFINITION. How an instruction is laid where the next step fetches it (log 59): a bundle of one slot at virtual address
0x4000 of an agent of the die in focus, behind page tables that map the die's first gigabyte of DRAM onto itself (spec/18
R353, R354), and that agent's next bundle issue at the head of the agenda.
-/
namespace Sys2Proof.Machine

/-- Put bytes into a memory. -/
def memPut (m : List Host.Cell) : Nat → List Byte → List Host.Cell
  | _, [] => m
  | a, b :: bs => memPut (memSet m a b) (a + 1) bs

/-- Where the tables and the bundle lie within the die's DRAM. -/
def placeRoot : Nat := 0x2000
def placeMid : Nat := 0x3000
def placePc : Nat := 0x4000

/-- A table entry that points to a table, and the leaf of one gigabyte with every permission. -/
def pteTable (pa : Nat) : Nat := 1 + pa / 2 ^ 12 * 2 ^ 18
def pteGig (pa : Nat) : Nat := 1 + 2 + 9 * 4 + 64 + 128 + 256 + pa / 2 ^ 12 * 2 ^ 18

/-- The header of a bundle that holds one operation alone: K where the operation asks for it (spec/07 R177, R190, R197,
spec/06 R170), Q where it gives up the core. -/
def placeHdr (sl : Slot) (i : Option Instr) : Hdr :=
  let q := match i with
    | some i => releases { e := false, t := 0, rc := 0, d := false, k := false, q := false, a := false, w := false, z := false,
                           j := false, tb := 0, pn := false, pg := 0 } i
    | none => false
  let k := match i with
    | some i => q || i.onceOnly || i.lone || i == .halt
    | none => false
  { e := false, t := 1 <<< sl.tbit, rc := 0, d := false, k := k, q := q, a := false, w := false, z := false, j := false,
    tb := 0, pn := false, pg := 0 }

/-- The syllables of the bundle: the operation is its last, so its stop bit is set (spec/04 R93, R95). -/
def placeSyls (nbits w : Nat) : List Syl :=
  let w' := w % 2 ^ nbits
  let m := sylAt w' 0
  let sl := (rowSlot m (sylAt w' 1)).getD .s
  let i := match decSlot sl m (sylAt w' 1) with
    | .ok i => some i
    | .error _ => none
  let main : Syl := m ||| 0x80000000
  (placeHdr sl i).word :: main :: (if fX m = 1 && sl != .p then [sylAt w' 1] else [])

/-- The agent that runs it: a Saffron where only Saffron runs the instruction, else a core. -/
def State.placeKey (s : State) (nbits w : Nat) : Nat :=
  let d := keyDie s.here % 8
  match decodeTableWord nbits w with
  | some i => if i.saffronOnly then d * 128 + 72 else if coreOk s.here then s.here else d * 128
  | none => if coreOk s.here then s.here else d * 128

/-- A core about to fetch at the place, with nothing in flight that could hold or precede the bundle. -/
def Core.placed (c : Core) (die part ifseq : Nat) : Core :=
  { c with
    phase := .run
    live := { c.live.refetch with ftok := [] }
    pc := BitVec.ofNat 64 placePc
    tcw := BitVec.ofNat 64 (1 + part * 2 ^ 32)
    accid := 0
    ptroot := BitVec.ofNat 64 (die * 2 ^ 36 + placeRoot)
    ifseq := ifseq
    land := []
    outst := []
    hops := []
    copies := []
    cposts := []
    whb := []
    hostLate := []
    rowOld := []
    sticky := .replicate 5 none
    agw := none
    runAhead := false
    heldTrap := none
    pend := none
    fence := none
    drain := false
    iss := {}
    joinAt := none
    req := none }

/-- The memory with tables and bundle in place. -/
def placeMem (m : List Host.Cell) (die nbits w : Nat) : List Host.Cell :=
  let base := die * 2 ^ 36
  let m1 := memPut m (base + placeRoot) (leBytes 8 (pteTable (base + placeMid)))
  let m2 := memPut m1 (base + placeMid) (leBytes 8 (pteGig base))
  memPut m2 (base + placePc) ((placeSyls nbits w).flatMap fun x => leBytes 4 x.toNat)

/-- The state whose next step fetches and runs the instruction. -/
def State.place (s : State) (nbits w : Nat) : State :=
  let k := s.placeKey nbits w
  let die := keyDie k
  let s1 := s.focus k
  let s2 := s1.dset die offREPCTL 0
  { s2 with
    core := s1.core.placed die (s.partOf die) s.wseq
    parked := s1.parked.map fun p => (p.1, { p.2 with req := none })
    mem := placeMem s.mem die nbits w
    hist := []
    tlb := []
    fencing := 0
    hot := 0
    homes := []
    agMail := []
    mseq := []
    absent := []
    invSeen := []
    frames := []
    goneAt := []
    agenda := [{ who := k, ev := .bundleIssue }] }

end Sys2Proof.Machine
end

