-- ==== Sys2Proof/Machine/Step.lean ====
section
/-!
DEFINITION. One step of the module. A die fence under way ends first (spec/18 R351), and a group whose entry reads VALID 0 is
decided LOST (spec/19 R376), a task past its PBOUND under a cross-context request is rolled back (spec/20 R396), a member past its
limit at a rendezvous leaves it (spec/09 R244), and an armed copy that met its threshold starts once its banks are free (spec/10
R269); then the next event of the agenda, which the outside world or the model's own choice has put there; else one of the events
that may happen by themselves, or the passing of time (log 1, log 7).
-/
namespace Sys2Proof.Machine

/-- Run an event at its agent. -/
def State.run (s : State) (e : Ev) : Host.Outcome State Fault Refusal :=
  if agentExists e.who then exec e.ev (s.focus e.who) else .fault (.noAgent e.who)

/-- What must happen before anything else. -/
def State.forced (s : State) : Option Ev :=
  if s.fencing != 0 then some { who := dieKey s.fencingDie, ev := .dieFence }
  else match s.invalidated with
    | some g => some { who := s.here, ev := .groupInvalidate g }
    | none =>
      match s.keys.find? fun k => (s.focus k).pastBound with
      | some k => some { who := k, ev := .forcedRollback }
      | none =>
        match s.keys.find? fun k => (s.focus k).joinLate with
        | some k => some { who := k, ev := .mjoinWaitLimitExpiry }
        | none => s.keys.findSome? fun k => (s.focus k).armNext.map fun x => { who := k, ev := .armedCopyFire x.id }

/-- One step. -/
def step (s0 : State) : Host.Outcome State Fault Refusal :=
  let s := s0.bump
  match s.forced, s.agenda with
  | some e, _ => s.run e
  | none, e :: r => { s with agenda := r }.run e
  | none, [] =>
    match s.chosen with
    | some e => s.run e
    | none => .next s.pass

/-- The state whose next step fetches and runs the instruction of a table word (log 59). -/
def State.withFetchWord (s : State) (nbits w : Nat) : State := s.place nbits w

end Sys2Proof.Machine
end

