-- ==== Sys2Proof/Safety.lean ====
section
/-!
DEFINITION. The terms in which claims are made: what a safe run is, what an invariant of the machine says, what it means
that nothing is in flight, and how much of the state an operation leaves alone.
-/
namespace Sys2Proof.Machine

/-! ### Memory as a reader sees it -/

/-- Every byte of memory reads as before. -/
def NoStore (s t : State) : Prop := ∀ a, memGet t.mem a = memGet s.mem a

/-- Every byte outside the n bytes at an address reads as before. -/
def StoresAt (pa n : Nat) (s t : State) : Prop := ∀ a, a < pa ∨ pa + n ≤ a → memGet t.mem a = memGet s.mem a

/-- The bytes at an address read as a list. -/
def Holds (t : State) (pa : Nat) (bs : List Byte) : Prop := ∀ i, i < bs.length → memGet t.mem (pa + i) = bs.getD i 0

/-- A place whose bytes stand in memory proper: DRAM, host memory or a scratchpad. -/
def memLoc : Loc → Bool
  | .dram _ | .host | .win (.scratch _ _) => true
  | _ => false

/-! ### Invariants and safe steps -/

/-- The memory has its one canonical form. -/
def State.Inv (s : State) : Prop := Memory.wf s.mem = true

/-- Every agent that the state names exists: the agent in focus, the parked ones, and those of the agenda (spec/01 R11). -/
def State.AgentsExist (s : State) : Prop :=
  agentExists s.here = true ∧ (∀ p ∈ s.parked, agentExists p.1 = true) ∧ (∀ e ∈ s.agenda, agentExists e.who = true)

/-- A step that stops neither with a fault nor with a refusal. -/
def State.Goes (s : State) : Prop := ∃ t, step s = .next t

/-! ### What is in flight -/

/-- No exposed result, no Hearth operation and no load is in flight, no trap is pending or held, and no agreement lets the
core run ahead. -/
def State.Quiet (s : State) : Prop :=
  s.core.land = [] ∧ s.core.hops = [] ∧ s.core.outst = [] ∧ s.core.pend = none ∧ s.core.heldTrap = none ∧
  s.core.runAhead = false

/-- The recorder of the die in focus is off. -/
def State.NoReplay (s : State) : Prop := s.repMode = 0

/-! ### What an operation leaves alone. Each says that the next state is the old one but for the fields named, whose new
values another clause gives. -/

/-- Only the core in focus changes. -/
def OnlyCore (s t : State) : Prop := t = { s with core := t.core }

/-- An S operation: its operand port, the generators, the results in flight, and the marks of outstanding results that meet
them. -/
def OnlyIssueS (s t : State) : Prop :=
  t = { s with core := { s.core with
    live := { s.core.live with portS := t.core.live.portS, sg := t.core.live.sg }, land := t.core.land, outst := t.core.outst } }

/-- A V operation: as an S operation, without the port, with the rows of the interval. -/
def OnlyIssueV (s t : State) : Prop :=
  t = { s with core := { s.core with
    live := { s.core.live with sg := t.core.live.sg }, land := t.core.land, outst := t.core.outst, trk := t.core.trk } }

/-- The operand port of L and the results to come. -/
def OnlyResultL (s t : State) : Prop :=
  t = { s with core := { s.core with live := { s.core.live with portL := t.core.live.portL }, outst := t.core.outst } }

/-- The operand port of L and the withholding buffer. -/
def OnlyWithheldL (s t : State) : Prop :=
  t = { s with core := { s.core with live := { s.core.live with portL := t.core.live.portL }, whb := t.core.whb } }

/-- The withholding buffer. -/
def OnlyWithheld (s t : State) : Prop := t = { s with core := { s.core with whb := t.core.whb } }

/-! ### A trap taken (spec/20 R383 to R387) -/

/-- The core in focus can take a trap now: it runs a task or a request's bundle, handlers are enabled, and nothing earlier is
in flight. -/
def State.CanTrap (s : State) : Prop :=
  s.Quiet ∧ s.core.phase = .run ∧ s.onSaffron = false ∧ s.trapEnabled = true

/-- What entry leaves: cause, DETAIL, slot, address of the trapping bundle, address, resume address. -/
structure TrapTaken (s t : State) (cause detail slot : Nat) (pcb addr resume : Word) : Prop where
  handler : t.core.phase = .handler
  vector  : t.core.pc = s.trapEntry
  status  : t.core.trtcw = s.core.tcw
  resumes : t.core.trpc = resume
  mode    : t.core.tcw = (s.core.tcw &&& 0x0000FFFFFFFFFFFF) ||| 1
  record  : t.core.tcause = BitVec.ofNat 64 (detail % 2 ^ 32 * 2 ^ 32 + slot * 2 ^ 20 + cause)
  bundle  : t.core.tbund = pcb
  address : t.core.taddr = addr
  point   : t.core.tckpt = s.core.ckpt
  time    : t.core.ttick = BitVec.ofNat 64 s.tick
  state   : t.core.live = s.core.dup.refetch
  buffer  : t.core.whb = []
  bytes   : NoStore s t

end Sys2Proof.Machine
end

