-- ==== Sys2Proof/Certificates/Slice0/Obligations.lean ====
section
/-!
DEFINITION. What is claimed of the model, for the provers. Each statement is followed by nothing but the next; the tables of
what an instruction must do stand before the statements that use them, in the namespace Sys2Proof.Claims.
-/
namespace Sys2Proof.Claims
open Machine

/-! ## Scalar results (spec/06) -/

/-- The record of an exposed operation of bound `lat` that issues now: it must have landed by cycle c + lat (spec/04 R106), on
Saffron before the next bundle reads (R128). -/
def entry (s : State) (lat : Nat) (ws : List LWrite) : Landing :=
  { seq := s.core.seq, pcb := s.core.iss.pcb, slot := s.core.iss.slot, issued := s.core.cyc,
    due := s.core.cyc + (if s.onSaffron then 1 else lat), landed := false, ws := ws }

/-- An outstanding result whose register an exposed write now meets is marked; on Saffron no two results meet (spec/04 R128). -/
def marked (ws : List LWrite) (o : Outst) : Outst :=
  if ws.any (fun w => match w, o.xd with
    | .x q _, some r => q == r
    | _, _ => false) then { o with clash := true } else o

/-- An operation issues: its writes are in flight, its A operand (`a`) is in the S port unless it is `ko`, the generators
stand at `g`, and nothing else changes. -/
structure Issues (s t : State) (a : Option Src) (g : Vector Word 16) (lat : Nat) (ws : List LWrite) : Prop where
  only   : OnlyIssueS s t
  bytes  : NoStore s t
  port   : t.core.live.portS = (match a with
    | none => s.core.live.portS
    | some r => if r = .ko then s.core.live.portS else s.src .s r)
  gens   : t.core.live.sg = g
  flight : t.core.land = s.core.land ++ [entry s lat ws]
  meets  : t.core.outst = if s.onSaffron then s.core.outst else s.core.outst.map (marked ws)

/-- `u` with an open value on its way to `sq` alone: what an operation of the S slot that names no result leaves there (log 32). -/
def sqOpen (u : State) (v : Word) : State := { u with core := { u.core with land := u.core.land ++ [entry u 1 [.sq v]] } }

/-- A result: destination (the physical register that its logical number names), port source, bound, value, flags. -/
structure Val where
  d : XReg
  a : Option Src
  lat : Nat
  v : Word
  f : Fl := 0

/-- Writes of a result: the destination, `sq` whatever the destination (spec/06 R154), flags where any is set. -/
def Val.writes (s : State) (r : Val) : List LWrite :=
  [.x (physX s.core.live r.d) r.v, .sq r.v] ++ (if r.f = 0 then [] else [.flags r.f])

def w64 (n : Nat) : Word := BitVec.ofNat 64 n
def i64 (n : Int) : Word := BitVec.ofInt 64 n

/-- A width or length field, where 0 means 64. -/
def fieldLen (n : Nat) : Nat := if n % 64 = 0 then 64 else n % 64

/-- F(A, B) of spec/06 R155 and R156, with its bound. -/
def binary (d x y : Word) : Instr → Option (Nat × Word)
  | .add .. => some (1, x + y)
  | .sub .. => some (1, x - y)
  | .mul .. => some (3, w64 (x.toNat * y.toNat))
  | .mulh .. => some (3, i64 (x.toInt * y.toInt / 2 ^ 64))
  | .mulhn .. => some (3, w64 (x.toNat * y.toNat / 2 ^ 64))
  | .and .. => some (1, x &&& y)
  | .or .. => some (1, x ||| y)
  | .xor .. => some (1, x ^^^ y)
  | .andn .. => some (1, x &&& ~~~y)
  | .shl .. => some (1, x <<< (y.toNat % 64))
  | .shr .. => some (1, x >>> (y.toNat % 64))
  | .sar .. => some (1, x.sshiftRight (y.toNat % 64))
  | .rotl .. => some (1, x.rotateLeft (y.toNat % 64))
  | .min .. => some (1, if x.toInt < y.toInt then x else y)
  | .max .. => some (1, if x.toInt < y.toInt then y else x)
  | .minn .. => some (1, if x.toNat < y.toNat then x else y)
  | .maxn .. => some (1, if x.toNat < y.toNat then y else x)
  | .sext .. => some (1, i64 ((x.setWidth (fieldLen y.toNat)).toInt))
  | .zext .. => some (1, (x.setWidth (fieldLen y.toNat)).setWidth 64)
  | .bfx .. => some (1, (x >>> (y.toNat % 64)) &&& w64 (2 ^ fieldLen (y.toNat / 256) - 1))
  | .bfi .. =>
    let m := w64 (2 ^ fieldLen (y.toNat / 256) - 1) <<< (y.toNat % 64)
    some (1, (d &&& ~~~m) ||| ((x <<< (y.toNat % 64)) &&& m))
  | _ => none

/-- Numbers of leading, trailing and all one bits: spec/06 R156. -/
def leading (x : Word) : Nat := ((List.range 64).takeWhile fun i => !x.getLsbD (63 - i)).length
def trailing (x : Word) : Nat := ((List.range 64).takeWhile fun i => !x.getLsbD i).length
def ones (x : Word) : Nat := (List.range 64).countP fun i => x.getLsbD i

/-- Every integer result of the S slot: spec/06 R155 to R157. -/
def intVal (s : State) (i : Instr) : Option Val :=
  match i with
  | .add d a b | .sub d a b | .mul d a b | .mulh d a b | .mulhn d a b | .and d a b | .or d a b | .xor d a b | .andn d a b
  | .shl d a b | .shr d a b | .sar d a b | .rotl d a b | .min d a b | .max d a b | .minn d a b | .maxn d a b | .sext d a b
  | .zext d a b | .bfx d a b | .bfi d a b =>
    (binary (s.x d) (s.src .s a) (s.opnd .s b) i).map fun p => { d := d, a := some a, lat := p.1, v := p.2 }
  | .clz d a => some { d := d, a := some a, lat := 1, v := w64 (leading (s.src .s a)) }
  | .ctz d a => some { d := d, a := some a, lat := 1, v := w64 (trailing (s.src .s a)) }
  | .popc d a => some { d := d, a := some a, lat := 1, v := w64 (ones (s.src .s a)) }
  | .li d b => some { d := d, a := none, lat := 1, v := b.val }
  | .lih d a b => some { d := d, a := some a, lat := 1, v := (b.val <<< 32) ||| w64 ((s.src .s a).toNat % 2 ^ 32) }
  | _ => none

/-- Reads of loop counters, identity, FST and formats into a register: spec/06 R164 to R166, R169. FST reads as it stands,
where a flag of an operation in flight may be absent. -/
def readVal (s : State) : Instr → Option Val
  | .lcget d n => some { d := d, a := none, lat := 1, v := (s.lcv n).setWidth 64 }
  | .rdid d sel => some { d := d, a := none, lat := 1, v := s.identity sel.val }
  | .rdfst d => some { d := d, a := none, lat := 1, v := (s.fstRead).setWidth 64 }
  | .fmget d n => some { d := d, a := none, lat := 1, v := (s.core.live.fm[n]).setWidth 64 }
  | _ => none

/-- A condition of spec/06 R158 on A and B. -/
def intCond (x y : Word) : Instr → Bool
  | .cmpeq .. => x == y
  | .cmpne .. => x != y
  | .cmplt .. => decide (x.toInt < y.toInt)
  | .cmple .. => decide (x.toInt ≤ y.toInt)
  | .cmpltn .. => decide (x.toNat < y.toNat)
  | .cmplen .. => decide (x.toNat ≤ y.toNat)
  | .cmptst .. => (x &&& y) != 0
  | _ => false

/-- A condition and its complement to the even and odd member of a pair (spec/03 R77). -/
def pairWrites (s : State) (p : Pair) (b : Bool) : List LWrite :=
  [.p (physP s.core.live (pairEven p)) b, .p (physP s.core.live (pairOdd p)) (!b)]

/-- A condition as the S result that becomes `sq` whatever the destination (spec/06 R154): 0 or 1, the model's reading (log 32). -/
def condWrite (b : Bool) : LWrite := .sq (if b then 1 else 0)

/-- Compares and predicate logic: port source, and the predicates and `sq` written. -/
def condVal (s : State) (i : Instr) : Option (Option Src × List LWrite) :=
  let one := fun (d : Fin 16) (v : Bool) => some ((none : Option Src), [LWrite.p (physP s.core.live d) v, condWrite v])
  match i with
  | .cmpeq p a b | .cmpne p a b | .cmplt p a b | .cmple p a b | .cmpltn p a b | .cmplen p a b | .cmptst p a b =>
    some (some a, pairWrites s p (intCond (s.src .s a) (s.opnd .s b) i) ++ [condWrite (intCond (s.src .s a) (s.opnd .s b) i)])
  | .pand d a na b nb => one d ((s.pred a != na) && (s.pred b != nb))
  | .por d a na b nb => one d ((s.pred a != na) || (s.pred b != nb))
  | .pxor d a na b nb => one d ((s.pred a != na) != (s.pred b != nb))
  | _ => none

/-! ## Scalar floats and rationals -/

/-- The rounding of a scalar operation: under STO it takes one output of the prefix's generator, which advances (spec/02
R58). -/
def drawn (s : State) : Rnd × Vector Word 16 :=
  let n := s.core.iss.seed
  let x := sgStep s.core.live.sg[n]
  if s.core.iss.frnd = .sto then (s.rnd (sgOut x), s.core.live.sg.set n x) else (s.rnd 0, s.core.live.sg)

/-- A float result: whether it rounds (and so draws), its bound, and code and flags under a rounding. Operands are the f32
codes in bits 31:0 (spec/06 R160, R161). -/
structure FloatOp where
  d : XReg
  a : Src
  lat : Nat
  rounds : Bool
  val : Rnd → Word × Fl

def ofCode (p : Nat × Fl) : Word × Fl := (w64 p.1, p.2)

/-- The S float instructions with TCW.RM 0. -/
def floatOp (s : State) : Instr → Option FloatOp
  | .fadd d a b => some ⟨d, a, 4, true, fun m => ofCode (fmtF32.add m (fv32 (s.src .s a)) (fv32 (s.opnd .s b)))⟩
  | .fsub d a b => some ⟨d, a, 4, true, fun m => ofCode (fmtF32.sub m (fv32 (s.src .s a)) (fv32 (s.opnd .s b)))⟩
  | .fmul d a b => some ⟨d, a, 4, true, fun m => ofCode (fmtF32.mul m (fv32 (s.src .s a)) (fv32 (s.opnd .s b)))⟩
  | .fma d a b => some ⟨d, a, 4, true, fun m =>
      ofCode (fmtF32.fma m (fv32 (s.src .s a)) (fv32 (s.opnd .s b)) (fv32 (s.x d)))⟩
  | .fdiv d a b => some ⟨d, a, 14, true, fun m => ofCode (fmtF32.div m (fv32 (s.src .s a)) (fv32 (s.opnd .s b)))⟩
  | .fsqrt d a => some ⟨d, a, 14, true, fun m => ofCode (fmtF32.sqrt m (fv32 (s.src .s a)))⟩
  | .fmin d a b => some ⟨d, a, 4, false, fun _ => ofCode (fmtF32.minmax false (lo32 (s.src .s a)) (lo32 (s.opnd .s b)))⟩
  | .fmax d a b => some ⟨d, a, 4, false, fun _ => ofCode (fmtF32.minmax true (lo32 (s.src .s a)) (lo32 (s.opnd .s b)))⟩
  | .fcvtfi d a t => some ⟨d, a, 4, true, fun m => let r := fvToInt (cvtTy t) m (fv32 (s.src .s a)); (i64 r.1, r.2)⟩
  | .fcvtif d a t => some ⟨d, a, 4, true, fun m =>
      let v := cvtIn t (s.src .s a)
      ofCode (fmtF32.round m (decide (v < 0)) v.natAbs 1 0 false)⟩
  | _ => none

/-- The same instructions with TCW.RM 1: exact rationals in one bound of 40 cycles (spec/06 R162). `fcvtfi` alone rounds to an
integer as FRND says. -/
def ratOp (s : State) : Instr → Option FloatOp
  | .fadd d a b => some ⟨d, a, 40, false, fun _ => ofCode (qAdd s.qr s.qsat (qv32 (s.src .s a)) (qv32 (s.opnd .s b)))⟩
  | .fsub d a b => some ⟨d, a, 40, false, fun _ => ofCode (qAdd s.qr s.qsat (qv32 (s.src .s a)) (qv32 (s.opnd .s b)).neg)⟩
  | .fmul d a b => some ⟨d, a, 40, false, fun _ => ofCode (qMul s.qr s.qsat (qv32 (s.src .s a)) (qv32 (s.opnd .s b)))⟩
  | .fma d a b => some ⟨d, a, 40, false, fun _ =>
      ofCode (qFma s.qr s.qsat (qv32 (s.src .s a)) (qv32 (s.opnd .s b)) (qv32 (s.x d)))⟩
  | .fdiv d a b => some ⟨d, a, 40, false, fun _ => ofCode (qDiv s.qr s.qsat (qv32 (s.src .s a)) (qv32 (s.opnd .s b)))⟩
  | .fsqrt d a => some ⟨d, a, 40, false, fun _ => ofCode (qSqrt s.qr (qv32 (s.src .s a)))⟩
  | .fmin d a b => some ⟨d, a, 40, false, fun _ => (w64 (qMinMax false (qv32 (s.src .s a)) (qv32 (s.opnd .s b))), 0)⟩
  | .fmax d a b => some ⟨d, a, 40, false, fun _ => (w64 (qMinMax true (qv32 (s.src .s a)) (qv32 (s.opnd .s b))), 0)⟩
  | .fcvtfi d a t => some ⟨d, a, 40, true, fun m => let r := qToInt (cvtTy t) m (qv32 (s.src .s a)); (i64 r.1, r.2)⟩
  | .fcvtif d a t => some ⟨d, a, 40, false, fun _ => ofCode (qRound s.qr s.qsat (cvtIn t (s.src .s a)) 1)⟩
  | _ => none

/-- Clove: spec/06 R163, in either mode. Only `qtof` rounds to a float. -/
def cloveOp (s : State) : Instr → Option FloatOp
  | .qmk d a b => some ⟨d, a, 40, false, fun _ => ofCode (qmkV s.qr s.qsat (s.src .s a).toInt (s.opnd .s b).toInt)⟩
  | .qnum d a => some ⟨d, a, 40, false, fun _ => (i64 (qnumV (qv32 (s.src .s a))), 0)⟩
  | .qden d a => some ⟨d, a, 40, false, fun _ => (i64 (qdenV (qv32 (s.src .s a))), 0)⟩
  | .qflr d a => some ⟨d, a, 40, false, fun _ => let r := qFloor (qv32 (s.src .s a)); (i64 r.1, r.2)⟩
  | .qceil d a => some ⟨d, a, 40, false, fun _ => let r := qCeil (qv32 (s.src .s a)); (i64 r.1, r.2)⟩
  | .qfromf d a => some ⟨d, a, 40, false, fun _ => ofCode (qFromF s.qr s.qsat (fv32 (s.src .s a)))⟩
  | .qtof d a => some ⟨d, a, 40, true, fun m => ofCode (qToF fmtF32 m (qv32 (s.src .s a)))⟩
  | _ => none

/-- A float operation issues with the value its rounding gives. -/
def FloatOp.issues (r : FloatOp) (s t : State) : Prop :=
  let p := r.val (if r.rounds then (drawn s).1 else {})
  Issues s t (some r.a) (if r.rounds then (drawn s).2 else s.core.live.sg) r.lat
    (Val.writes s { d := r.d, a := some r.a, lat := r.lat, v := p.1, f := p.2 })

/-- Float compares with TCW.RM 0 and 1: condition, and whether NV is set (spec/06 R160, R162). -/
def floatCond (rm : Bool) (x y : Word) : Instr → Bool × Bool
  | .fcmpeq .. =>
    if rm then
      (match qv32 x, qv32 y with
        | .nar, _ | _, .nar => (false, false)
        | u, v => (!qLt u v && !qLt v u, false))
    else (fvEq (fv32 x) (fv32 y), (fv32 x).isSnan || (fv32 y).isSnan)
  | .fcmplt .. =>
    if rm then
      (match qv32 x, qv32 y with
        | .nar, _ | _, .nar => (false, true)
        | u, v => (qLt u v, false))
    else (fvCmpLt (fv32 x) (fv32 y), (fv32 x).isNan || (fv32 y).isNan)
  | .fcmple .. =>
    if rm then
      (match qv32 x, qv32 y with
        | .nar, _ | _, .nar => (false, true)
        | u, v => (!qLt v u, false))
    else (fvCmpLe (fv32 x) (fv32 y), (fv32 x).isNan || (fv32 y).isNan)
  | _ => (false, false)

end Sys2Proof.Claims

open Sys2Proof Sys2Proof.Machine Sys2Proof.Claims

/-- Every integer instruction of the S slot answers a next state in which its result, and nothing else, is in flight: D and
`sq` take F(A, B) within its bound, the port takes A, no flag is set and no byte of memory changes. Reads of a loop counter, an
identity word, FST or a format register do the same with the value read. -/
def Obligations.IntegerResults : Prop :=
  ∀ (s : State) (i : Instr) (r : Val), (intVal s i = some r ∨ readVal s i = some r) →
    ∃ t, exec i s = .next t ∧ Issues s t r.a s.core.live.sg r.lat (r.writes s)

/-- Integer compares write the condition to the even member of their pair and its complement to the odd member; predicate
logic writes one predicate. `sq` takes the condition as 0 or 1 (the model's reading, log 32). -/
def Obligations.ComparesWritePredicates : Prop :=
  ∀ (s : State) (i : Instr) (r : Option Src × List LWrite), condVal s i = some r →
    ∃ t, exec i s = .next t ∧ Issues s t r.1 s.core.live.sg 1 r.2

/-- f32 arithmetic and conversions: value, flags, bound, and the one generator output a rounding under STO takes. In rational
mode the same instructions compute on exact rationals within 40 cycles. The Clove instructions deliver theirs within 40 cycles
in either mode. The flags of a clamped integer, ties between equal denominators and operations on two infinities are the model's choices (logs
80, 85, 86). -/
def Obligations.FloatAndRationalResults : Prop :=
  ∀ (s : State) (i : Instr) (r : FloatOp),
    (s.core.tcw.getLsbD 1 = false → floatOp s i = some r → ∃ t, exec i s = .next t ∧ r.issues s t) ∧
    (s.core.tcw.getLsbD 1 = true → ratOp s i = some r → ∃ t, exec i s = .next t ∧ r.issues s t) ∧
    (cloveOp s i = some r → ∃ t, exec i s = .next t ∧ r.issues s t)

/-- Float compares write their pair, `sq` (0 or 1, the model's reading, log 32), and NV as the rule of the mode says. -/
def Obligations.FloatCompares : Prop :=
  ∀ (s : State) (i : Instr) (p : Pair) (a : Src) (b : Opnd),
    (i = .fcmpeq p a b ∨ i = .fcmplt p a b ∨ i = .fcmple p a b) →
    let rm := s.core.tcw.getLsbD 1
    let c := floatCond rm (s.src .s a) (s.opnd .s b) i
    ∃ t, exec i s = .next t ∧ Issues s t (some a) s.core.live.sg (if rm then 40 else 4)
      (pairWrites s p c.1 ++ condWrite c.1 :: (if c.2 then [.flags fNV] else []))

namespace Sys2Proof.Claims

/-! ## Loop counters, status, what waits for the end of the bundle -/

/-- One issue of `lcnext`: stage, go, and the counter written (spec/06 R164). -/
def loopStep (run drain : BitVec 32) (r dn : Fin 4) : Bool × Bool × List LWrite :=
  if run ≠ 0 then (true, true, [.lc r (run - 1)])
  else if drain ≠ 0 then (false, true, [.lc dn (drain - 1)])
  else (false, false, [])

/-- What an operation puts off to the end of its bundle: spec/06 R167 to R169, spec/07 R195. -/
def putOff (s : State) : Instr → Option (Option Src × EobWrite)
  | .sgset n a => some (some a, .sg n (if s.src .s a = 0 then sgReset[n] else s.src .s a))
  | .vstp k a => some (some a, .vstp k (s.src .s a &&& 0xFFFFFFFF000001FF))
  | .fmset n a => some (some a, .fm n ((s.src .s a).setWidth 32 &&& 0x00FF371F))
  | .bprep n b => some (none, .tb n (s.core.iss.pcb + b.val) false)
  | .bprepL n b => some (none, .tb n (s.core.iss.pcb + b.val) true)
  | .bprepi n a => some (some a, .tb n (((s.src .s a).setWidth 48).signExtend 64) false)
  | .bprepiL n a => some (some a, .tb n (((s.src .s a).setWidth 48).signExtend 64) true)
  | _ => none

/-- The S port after an operation with this A operand. -/
def portAfter (s : State) : Option Src → Word
  | none => s.core.live.portS
  | some a => if a = .ko then s.core.live.portS else s.src .s a

/-- The effect when the bundle ends: a generator, the port of a V slot (its steps and kept row, spec/06 R168), a format register,
an entry whose fill then starts (one whose target is no canonical address keeps that, spec/07 R196), the outcome of an agreement. -/
def endEffect (l : Live) : EobWrite → Live
  | .sg n v => { l with sg := l.sg.set n v }
  | .vstp k v => { l with portV := l.portV.set k v }
  | .fm n v => { l with fm := l.fm.set n v }
  | .tb n a link => { l with tb := l.tb.set n {
      valid := true, addr := a.setWidth 48, link := link, copy := false, filling := true
      top := if (a.setWidth 48).signExtend 64 = a then none else some (a.extractLsb' 48 16) } }
  | .ag v none => { l with gq := v }
  | .ag v (some (e, o, b)) => { l with
      gq := v
      p := (l.p &&& ~~~((1#16 <<< e.val) ||| (1#16 <<< o.val))) ||| (if b then 1#16 <<< e.val else 1#16 <<< o.val) }
  | .pbound _ | .mask _ _ => l

/-- The core that has executed the task-ending or stopping instruction of `t`'s bundle issues no other bundle when this one is over: the
effects put off are made, and the program counter is at the next bundle. -/
def EndsIn (t : State) (p : Phase) : Prop :=
  ∀ (b : Bundle) (take : Bool), t.core.iss.leave = none →
    let u := t.finish b take
    u.core.phase = p ∧ u.core.pc = t.core.iss.next ∧ u.core.live = t.core.iss.eob.foldl endEffect t.core.live ∧
      u.core.iss = {} ∧ NoStore t u ∧ u.tasks = t.tasks ∧ u.core.whb = t.core.whb

/-! ## Control registers -/

/-- Value of a control register: spec/06 R170, spec/18 R342. -/
def controlReg (s : State) (n : Nat) : Option Word :=
  let c := s.core
  match n with
  | 0x000 => some c.tcw
  | 0x001 => some c.pbound
  | 0x002 => some (w64 c.acnt)
  | 0x008 => some (c.livemask.extractLsb' 0 64)
  | 0x009 => some (c.livemask.extractLsb' 64 64)
  | 0x00A => some (c.livemask.extractLsb' 128 64)
  | 0x00B => some (c.livemask.extractLsb' 192 64)
  | 0x00C => some (c.livemask.extractLsb' 256 64)
  | 0x00D => some (c.livemask.extractLsb' 320 64)
  | 0x00E => some (c.livemask.extractLsb' 384 64)
  | 0x00F => some (c.livemask.extractLsb' 448 64)
  | 0x010 => some (if c.phase = .handler then c.hroot else c.ptroot)
  | 0x020 => some c.trtcw
  | 0x021 => some c.trpc
  | 0x030 => some (semapWord c.semap)
  | 0x040 => some c.tcause
  | 0x041 => some c.tbund
  | 0x042 => some c.taddr
  | 0x043 => some c.tckpt
  | 0x044 => some c.tres0
  | 0x045 => some c.tres1
  | 0x046 => some c.tres2
  | 0x047 => some c.tstart
  | 0x048 => some c.ttick
  | 0x049 | 0x04A | 0x04B | 0x04C | 0x04D | 0x04E | 0x04F => some 0
  | _ => none

/-- Bits of LIVEMASK that may be 1: plane rows and B-store quarters (spec/18 R345). -/
def maskable (j : Nat) : Bool := decide (j < 256) || (decide (384 ≤ j) && decide (j < 388))

/-- A write of a control register: only RM of TCW and TRTCW, TRPC and, with the end of the bundle, PBOUND's low half and the maskable
bits of LIVEMASK change; every other field of the core stays, with an open value on its way to `sq` (log 32). -/
structure ControlWrite (s t : State) (n : Nat) (v : Word) : Prop where
  only : ∃ q, t = sqOpen { s with core := { s.core with
    tcw := t.core.tcw, trtcw := t.core.trtcw, trpc := t.core.trpc
    live := { s.core.live with portS := t.core.live.portS }, iss := { s.core.iss with eob := t.core.iss.eob } } } q
  tcw : t.core.tcw = if n = 0 then (s.core.tcw &&& ~~~2) ||| (v &&& 2) else s.core.tcw
  later : ((n = 1 ∨ (8 ≤ n ∧ n < 16)) → ∃ w, t.core.iss.eob = s.core.iss.eob ++ [w] ∧ ∀ l, endEffect l w = l) ∧
    (¬(n = 1 ∨ (8 ≤ n ∧ n < 16)) → t.core.iss.eob = s.core.iss.eob)
  ends : ∀ b, t.core.iss.leave = none → t.core.iss.ending = 0 →
    let c := (t.finish b false).core
    let c0 := s.core.endControls
    c.pbound = (if n = 1 then v &&& 0xFFFFFFFF else c0.pbound) ∧
    ∀ j, j < 512 → c.livemask.getLsbD j =
      (if 8 ≤ n ∧ n < 16 then maskable j && (if j / 64 = n - 8 then v.getLsbD (j % 64) else c0.livemask.getLsbD j)
       else c0.livemask.getLsbD j)
  trtcw : t.core.trtcw = if n = 0x20 then (s.core.trtcw &&& ~~~2) ||| (v &&& 2) else s.core.trtcw
  trpc : t.core.trpc = if n = 0x21 then v else s.core.trpc

/-- Instructions that only the privileged mode runs: spec/04 R101. -/
def needsPrivilege : Instr → Bool
  | .rdcr .. | .wrcr .. | .rfe | .halt => true
  | _ => false

end Sys2Proof.Claims

/-- `lcset` writes B[31:0]; `sq` takes it zero-extended (the model's reading, log 32). `lcnext` counts one counter down as its phase says,
sets the stage predicate at once, and writes go to its pair where it has one; which value its `sq` takes is left open (log 32). -/
def Obligations.LoopCounterSteps : Prop :=
  ∀ (s : State),
    (∀ (n : Fin 4) (b : Opnd), ∃ t, exec (.lcset n b) s = .next t ∧
      Issues s t none s.core.live.sg 1 [.lc n ((s.opnd .s b).setWidth 32), .sq (((s.opnd .s b).setWidth 32).setWidth 64)]) ∧
    (∀ (p : Option Pair) (r dn : Fin 4),
      let n := loopStep (s.lcv r) (s.lcv dn) r dn
      let s1 : State := { s with core := { s.core with live := { s.core.live with stage := n.1 } } }
      ∃ t v, exec (.lcnext p r dn) s = .next t ∧
        Issues s1 t none s.core.live.sg 1 (n.2.2 ++ (match p with
          | some q => pairWrites s q n.2.1
          | none => []) ++ [.sq v]))

/-- `wrfst` takes the enables from A[15:8] and clears the flags that A[7:0] names; nothing else changes but the port, and `sq`,
which takes an open value (log 32). -/
def Obligations.StatusWriteClearsFlags : Prop :=
  ∀ (s : State) (a : Src), ∃ t q, exec (.wrfst a) s = .next t ∧ NoStore s t ∧
    t = sqOpen { s with core := { s.core with
      live := { s.core.live with portS := portAfter s (some a), fst := t.core.live.fst } } } q ∧
    ∀ i, i < 16 → t.core.live.fst.getLsbD i =
      (if i < 8 then s.core.live.fst.getLsbD i && !(s.src .s a).getLsbD i else (s.src .s a).getLsbD i)

/-- `sgset`, `vstp`, `fmset`, `bprep`, `bprep.l`, `bprepi` and `bprepi.l` complete for every operand: the next state differs in the S
port, in the effect put off to the end of the bundle and in the open value on its way to `sq` (log 32). -/
def Sys2Proof.Claims.PutOffInstructionsComplete : Prop :=
  ∀ (s : State) (i : Instr) (r : Option Src × EobWrite), putOff s i = some r →
    ∃ q, exec i s = .next (sqOpen { s with core := { s.core with
      live := { s.core.live with portS := portAfter s r.1 }
      iss := { s.core.iss with eob := s.core.iss.eob ++ [r.2] } } } q)

/-- The prefix completes in every state: it sets the roundings and the generator of its own bundle, and nothing else changes. -/
def Sys2Proof.Claims.PrefixCompletes : Prop :=
  ∀ (s : State) (r : Frnd) (u : Sat) (q : Qrnd) (n : Fin 16),
    exec (.pfx r u q n) s =
      .next { s with core := { s.core with iss := { s.core.iss with frnd := r, sat := u, qrnd := q, seed := n } } }

/-- `sgset`, `vstp`, `fmset` and the branch preparations leave their effect for the end of the bundle, which applies them in
issue order; the prefix sets the rounding of its own bundle. What `sq` takes from them is open (log 32). -/
def Obligations.BundleEndEffects : Prop :=
  PutOffInstructionsComplete ∧ PrefixCompletes ∧
  (∀ (s : State) (b : Bundle), s.core.iss.leave = none → s.core.iss.ending = 0 →
    (s.finish b false).core.live = s.core.iss.eob.foldl endEffect s.core.live ∧
    (s.finish b false).core.pbound = s.core.endControls.pbound ∧
    (s.finish b false).core.livemask = s.core.endControls.livemask ∧
    (s.finish b false).core.pc = s.core.iss.next)

/-- `sysc` and `brk` take their trap: the bundle's address and the immediate are recorded, the resume address is that of the
next bundle, and the handler begins in the privileged mode at the vector with the state of the last checkpoint. -/
def Obligations.SystemCallsTrap : Prop :=
  ∀ (s : State) (b : Imm), s.CanTrap →
    (∃ t, exec (.sysc b) s = .next t ∧
      TrapTaken s t 0x0F (b.val.toNat % 2 ^ 32) 3 s.core.iss.pcb 0 s.core.iss.next) ∧
    (∃ t, exec (.brk b) s = .next t ∧
      TrapTaken s t 0x10 (b.val.toNat % 2 ^ 32) 3 s.core.iss.pcb 0 s.core.iss.next)

/-- `sysc` in a handler, or with no handler enabled, is a double trap: it is recorded with DBL and the core stops. -/
def Obligations.DoubleTrapStopsTheCore : Prop :=
  ∀ (s : State) (b : Imm), s.Quiet → s.onSaffron = false → (s.core.phase = .handler ∨ s.trapEnabled = false) →
    ∃ t, exec (.sysc b) s = .next t ∧ t.core.phase = .stopped ∧ t.core.tcause.getLsbD 19 = true ∧
      t.core.tcause.setWidth 8 = 0x0F#8 ∧ t.core.tbund = s.core.iss.pcb ∧ NoStore s t

/-- Outside the privileged mode a privileged instruction has no effect of its own: it raises PRIV. -/
def Obligations.UserModeRaisesPriv : Prop :=
  ∀ (s : State) (i : Instr), s.CanTrap → s.core.tcw.getLsbD 0 = false → needsPrivilege i = true →
    ∃ t, exec i s = .next t ∧ TrapTaken s t 0x03 0 s.core.iss.slot.num s.core.iss.pcb 0 s.core.ckpt

/-- In the privileged mode `rdcr` reads the register its number names into D, `wrcr` changes the writable bits of the register it
names and nothing else (`sq` takes an open value, log 32), those of PBOUND and LIVEMASK at the end of its bundle, and `halt` stops the
core at the end of its bundle, with the program counter at the next one. -/
def Obligations.ControlRegisters : Prop :=
  ∀ (s : State), s.core.tcw.getLsbD 0 = true →
    (∀ (d : XReg) (n : Imm) (v : Word), controlReg s n.val.toNat = some v →
      ∃ t, exec (.rdcr d n) s = .next t ∧
        Issues s t none s.core.live.sg 1 (Val.writes s { d := d, a := none, lat := 1, v := v })) ∧
    (∀ (n : Imm) (a : Src) (v : Word), controlReg s n.val.toNat = some v →
      ∃ t, exec (.wrcr n a) s = .next t ∧ NoStore s t ∧ ControlWrite s t n.val.toNat (s.src .s a) ∧
        t.core.live.portS = portAfter s (some a)) ∧
    (∃ t, exec .halt s = .next t ∧ NoStore s t ∧
      t = { s with core := { s.core with iss := { s.core.iss with ending := 2 } } } ∧ EndsIn t .stopped)

/-- `rfe` returns: the live state is the duplicate set, TCW and the program counter come from TRTCW and TRPC, and bundles of
the task issue again. What `rfe` does in privileged code with no handler running is the model's reading (log 51): the same. -/
def Obligations.ReturnFromHandler : Prop :=
  ∀ (s : State), s.core.tcw.getLsbD 0 = true →
    ∃ t, exec .rfe s = .next t ∧ NoStore s t ∧ t.core.phase = .run ∧ t.core.tcw = s.core.trtcw ∧
      t.core.pc = BitVec.ofNat 64 (s.core.trpc.toNat / 4 * 4) ∧ t.core.live = s.core.dup.refetch ∧ t.core.dup = s.core.dup ∧
      t.core.whb = s.core.whb ∧ t.core.rows = s.core.rows ∧ t.core.bstore = s.core.bstore ∧ t.core.flags = s.core.flags ∧
      t.core.trtcw = s.core.trtcw ∧ t.core.trpc = s.core.trpc ∧ t.core.tcause = s.core.tcause ∧
      t = { s with core := t.core }

namespace Sys2Proof.Claims

/-! ## The L slot (spec/07) -/

/-- The L port after an operation with this base. -/
def portLAfter (s : State) (a : Src) : Word := if a = .ko then s.core.live.portL else s.src .l a

/-- One scoreboarded result joins those to come: its registers, by physical number, and its values. -/
def Delivers (s t : State) (d : Option XReg) (v : Word) (lq : Option Word) (pair : Option (Pair × Bool)) : Prop :=
  ∃ o, t.core.outst = s.core.outst ++ [o] ∧ o.seq = s.core.seq ∧ o.pcb = s.core.iss.pcb ∧ o.ld = none ∧
    o.xd = d.map (physX s.core.live) ∧ o.val = v ∧ o.lq = lq ∧ o.fault = none ∧
    o.pair = pair.map fun p => (physP s.core.live (pairEven p.1), physP s.core.live (pairOdd p.1), p.2)

structure LoadOp where
  n : Nat
  strong : Bool
  d : XReg
  base : Src
  off : Opnd

def loadOp : Instr → Option LoadOp
  | .ldN8 d b o => some ⟨1, false, d, b, o⟩
  | .ldN16 d b o => some ⟨2, false, d, b, o⟩
  | .ldN32 d b o => some ⟨4, false, d, b, o⟩
  | .ldN64 d b o => some ⟨8, false, d, b, o⟩
  | .ldsN8 d b o => some ⟨1, true, d, b, o⟩
  | .ldsN16 d b o => some ⟨2, true, d, b, o⟩
  | .ldsN32 d b o => some ⟨4, true, d, b, o⟩
  | .ldsN64 d b o => some ⟨8, true, d, b, o⟩
  | _ => none

structure StoreOp where
  n : Nat
  strong : Bool
  v : Src
  base : Src
  off : Opnd

def storeOp : Instr → Option StoreOp
  | .stN8 v b o => some ⟨1, false, v, b, o⟩
  | .stN16 v b o => some ⟨2, false, v, b, o⟩
  | .stN32 v b o => some ⟨4, false, v, b, o⟩
  | .stN64 v b o => some ⟨8, false, v, b, o⟩
  | .stsN8 v b o => some ⟨1, true, v, b, o⟩
  | .stsN16 v b o => some ⟨2, true, v, b, o⟩
  | .stsN32 v b o => some ⟨4, true, v, b, o⟩
  | .stsN64 v b o => some ⟨8, true, v, b, o⟩
  | _ => none

/-- The address of a load or a store: base plus offset (spec/07 R171). -/
def LoadOp.ea (r : LoadOp) (s : State) : Word := s.src .l r.base + s.opnd .l r.off
def StoreOp.ea (r : StoreOp) (s : State) : Word := s.src .l r.base + s.opnd .l r.off

/-- Translation and checks of an access of the L slot now. -/
def lAccess (s : State) (k : AKind) (strong : Bool) (ea : Word) : Except Nat Tr :=
  s.access s.acc k (.lslot strong) ea (s.core.utag 120)

structure AmoOp where
  d : XReg
  base : Src
  v : Opnd
  f : Word → Word → Word

/-- The new value of each atomic from the old one and its operand: spec/07 R179. -/
def amoOp (s : State) : Instr → Option AmoOp
  | .amoadd d b v => some ⟨d, b, v, fun o x => o + x⟩
  | .amoswp d b v => some ⟨d, b, v, fun _ x => x⟩
  | .amocas d b v => some ⟨d, b, v, fun o x => if o = s.x d then x else o⟩
  | .amomin d b v => some ⟨d, b, v, fun o x => if o.toInt < x.toInt then o else x⟩
  | .amomax d b v => some ⟨d, b, v, fun o x => if o.toInt < x.toInt then x else o⟩
  | .amoand d b v => some ⟨d, b, v, fun o x => o &&& x⟩
  | .amoor d b v => some ⟨d, b, v, fun o x => o ||| x⟩
  | _ => none

/-- Address and size that an access instruction must be aligned to. -/
def alignment (s : State) (i : Instr) : Option (Word × Nat) :=
  match loadOp i, storeOp i, amoOp s i with
  | some r, _, _ => some (r.ea s, r.n)
  | _, some r, _ => some (r.ea s, r.n)
  | _, _, some r => some (s.src .l r.base, 8)
  | _, _, _ => match i with
    | .tspawn _ b _ => some (s.src .l b, 64)
    | .sframe _ _ b | .strunc _ b _ | .sadv _ b _ | .scur _ b _ | .sgen _ b _ => some (s.src .l b, 256)
    | _ => none

/-- A result that a performed once-only instruction delivers again from its record: base, destination, value, second result,
pair (spec/07 R178, spec/11 R298). -/
def recorded (r : OnceRec) : Instr → Option (Src × Option XReg × Word × Option Word × Option (Pair × Bool))
  | .amoadd d b _ | .amoswp d b _ | .amocas d b _ | .amomin d b _ | .amomax d b _ | .amoand d b _ | .amoor d b _ =>
    some (b, some d, r.val, some r.val, none)
  | .qpop d b => if r.pair = none then some (b, some d, r.val, none, none) else none
  | .qtry d p b => match r.pair with
    | some hit => some (b, if hit then some d else none, r.val, none, some (p, hit))
    | none => none
  | .tspawn d b _ => some (b, some d, r.val, none, none)
  | .sframe d p b => some (b, some d, r.val, some r.aux, p.map fun p => (p, r.pair.getD false))
  | .strunc d b _ => some (b, some d, r.val, some r.aux, none)
  | .sgen p b _ => some (b, none, 0, none, some (p, r.pair.getD false))
  | _ => none

/-- Scope of a fence: 0 core, 1 die, 2 device, 3 fabric; 4 the instruction fence (spec/07 R180, R181). -/
def fenceScope : Instr → Option Nat
  | .fenceCore => some 0
  | .fenceDie => some 1
  | .fenceDev => some 2
  | .fenceFab => some 3
  | .ifence => some 4
  | _ => none

/-- What a performed access of the L slot may change: the port, the results to come, the once record, the places of this
core's own writes, and the acquire floor. -/
def OnlyPerformedL (s t : State) : Prop :=
  t = { s with
    mem := t.mem, hist := t.hist, wseq := t.wseq
    homes := t.homes, agMail := t.agMail, mseq := t.mseq, rptGot := t.rptGot, absent := t.absent, invSeen := t.invSeen
    core := { s.core with
      live := { s.core.live with portL := t.core.live.portL }
      outst := t.core.outst, once := t.core.once, once2 := t.core.once2, lastWr := t.core.lastWr, rel := t.core.rel
      acq := t.core.acq } }

end Sys2Proof.Claims

/-- A load of a core whose address is aligned issues: it joins the results to come with the bytes it will read, those of this core's
own stores not yet at home among them. One that is refused carries the LDF it will raise. Saffron performs its loads as they issue: a
strong one of memory proper delivers what stands there. -/
def Obligations.LoadsIssue : Prop :=
  ∀ (s : State) (i : Instr) (r : LoadOp), loadOp i = some r → (r.ea s).toNat % r.n = 0 →
    (∀ tr, s.onSaffron = true → lAccess s .rd r.strong (r.ea s) = .ok tr → s.core.rel = [] →
      ∃ t v, exec i s = .next t ∧ OnlyResultL s t ∧ NoStore s t ∧ t.core.live.portL = portLAfter s r.base ∧
        (∃ o, t.core.outst = s.core.outst ++ [o] ∧ o.ld = none ∧ o.xd = some (physX s.core.live r.d) ∧ o.val = v ∧
          o.lq = some v ∧ o.fault = none ∧ o.pair = none) ∧
        (r.strong = true → (∀ k, k < r.n → memLoc (locate (tr.pa + k)) = true ∧ s.core.ownByte (tr.pa + k) = none) →
          v = w64 (rdNat s.mem tr.pa r.n))) ∧
    (∀ tr, s.onSaffron = false → lAccess s .rd r.strong (r.ea s) = .ok tr →
      ∃ t o, exec i s = .next t ∧ OnlyResultL s t ∧ NoStore s t ∧ t.core.live.portL = portLAfter s r.base ∧
        t.core.outst = s.core.outst ++ [o] ∧ o.xd = some (physX s.core.live r.d) ∧ o.fault = none ∧ o.pair = none ∧
        ∃ ld, o.ld = some ld ∧ ld.strong = r.strong ∧ ld.cl = tr.cl ∧
          ld.bytes = (List.range r.n).map fun k => (tr.pa + k, s.core.ownByte (tr.pa + k))) ∧
    (∀ k, s.onSaffron = false → lAccess s .rd r.strong (r.ea s) = .error k →
      ∃ t o f, exec i s = .next t ∧ OnlyResultL s t ∧ NoStore s t ∧ t.core.outst = s.core.outst ++ [o] ∧ o.fault = some f ∧
        f.cause = 0x05 ∧ f.detail = BitVec.ofNat 32 k ∧ f.addr = r.ea s ∧ f.pcb = s.core.iss.pcb ∧ f.slot = 4)

/-- The oldest result completes: its register takes the value (x0 discards it), `lq` takes a load's value, the pair of one that has a
pair its two bits, and nothing else changes, but that a register written is no longer a token. A strong load takes its bytes from their
home, least significant first. -/
def Obligations.LoadsComplete : Prop :=
  ∀ (s : State) (o : Outst) (os : List Outst), s.core.outst = o :: os → o.fault = none → o.clash = false →
    ∃ t v, exec (.loadCompletion 0) s = .next t ∧ NoStore s t ∧ t.core.outst = os ∧
      (∀ ld, o.ld = some ld → v = w64 (leNat (State.ldBytes { s with core := { s.core with outst := os } } ld)) ∧
        t.core.live.lq = v) ∧
      (o.ld = none → v = o.val ∧ t.core.live.lq = o.lq.getD s.core.live.lq) ∧
      (∀ ld pa n, o.ld = some ld → ld.strong = true → ld.bytes = ((List.range n).map fun k => (pa + k, none)) →
        (∀ k, k < n → memLoc (locate (pa + k)) = true) → v = w64 (rdNat s.mem pa n)) ∧
      t = { s with core := { s.core with
        outst := os
        live := { s.core.live with
          x := (match o.xd with
            | some d => if d.val = 0 then s.core.live.x else s.core.live.x.set d v
            | none => s.core.live.x)
          p := (match o.pair with
            | some (e, d, b) => (s.core.live.p &&& ~~~((1#16 <<< e.val) ||| (1#16 <<< d.val))) |||
                (if b then 1#16 <<< e.val else 1#16 <<< d.val)
            | none => s.core.live.p)
          lq := t.core.live.lq, ftok := t.core.live.ftok } } } ∧
      ∀ k ∈ t.core.live.ftok, k ∈ s.core.live.ftok

/-- A store of a core whose access is granted enters the withholding buffer with its bytes, least significant first; nothing is
stored yet. A full buffer raises STF. A store of Saffron to memory proper is performed at once, and no other byte changes. -/
def Obligations.StoresAreWithheld : Prop :=
  ∀ (s : State) (i : Instr) (r : StoreOp) (tr : Tr), storeOp i = some r → (r.ea s).toNat % r.n = 0 →
    lAccess s .wr r.strong (r.ea s) = .ok tr →
    (s.onSaffron = false → s.core.whb.length < 256 →
      ∃ t, exec i s = .next t ∧ OnlyWithheldL s t ∧ NoStore s t ∧ t.core.live.portL = portLAfter s r.base ∧
        t.core.whb = s.core.whb ++ [.store (r.ea s) tr.pa (leBytes r.n (s.src .l r.v).toNat) r.strong s.acc]) ∧
    (s.CanTrap → 256 ≤ s.core.whb.length →
      ∃ t, exec i s = .next t ∧ TrapTaken s t 0x06 6 s.core.iss.slot.num s.core.iss.pcb (r.ea s) s.core.ckpt) ∧
    (s.onSaffron = true → s.Inv → memLoc (locate tr.pa) = true →
      ∃ t, exec i s = .next t ∧ StoresAt tr.pa r.n s t ∧ Holds t tr.pa (leBytes r.n (s.src .l r.v).toNat))

/-- A misaligned address raises ALIGN, whatever else would hold of it (which of several refusals is reported is the model's reading, logs
26 and 27). A refused store raises STF and a refused atomic LDF, with
the kind of the refusal and the address. -/
def Obligations.AccessTraps : Prop :=
  ∀ (s : State) (i : Instr), s.CanTrap →
    (∀ p : Word × Nat, alignment s i = some p → p.1.toNat % p.2 ≠ 0 → (s.once 0).done = false → s.NoReplay →
      ∃ t, exec i s = .next t ∧ TrapTaken s t 0x07 0 s.core.iss.slot.num s.core.iss.pcb p.1 s.core.ckpt) ∧
    (∀ r k, storeOp i = some r → k < 256 → (r.ea s).toNat % r.n = 0 → lAccess s .wr r.strong (r.ea s) = .error k →
      ∃ t, exec i s = .next t ∧ TrapTaken s t 0x06 k s.core.iss.slot.num s.core.iss.pcb (r.ea s) s.core.ckpt) ∧
    (∀ r k, amoOp s i = some r → k < 256 → (s.once 0).done = false → s.NoReplay → (s.src .l r.base).toNat % 8 = 0 →
      lAccess s .rw true (s.src .l r.base) = .error k →
      ∃ t, exec i s = .next t ∧ TrapTaken s t 0x05 k s.core.iss.slot.num s.core.iss.pcb (s.src .l r.base) s.core.ckpt)

/-- An atomic performs one access at issue: it delivers the old value to D and `lq`, the new value stands at the address, no
other byte of memory changes, and its once record holds the result. -/
def Obligations.AtomicsUpdateMemory : Prop :=
  ∀ (s : State) (i : Instr) (r : AmoOp) (tr : Tr), amoOp s i = some r → s.Inv → (s.once 0).done = false → s.NoReplay →
    s.core.rel = [] → (s.src .l r.base).toNat % 8 = 0 → lAccess s .rw true (s.src .l r.base) = .ok tr →
    let old := w64 (rdNat s.mem tr.pa 8)
    ∃ t, exec i s = .next t ∧ OnlyPerformedL s t ∧ StoresAt tr.pa 8 s t ∧
      Holds t tr.pa (leBytes 8 (r.f old (s.opnd .l r.v)).toNat) ∧ Delivers s t (some r.d) old (some old) none ∧
      (s.onSaffron = false → (t.once 0).done = true ∧ (t.once 0).val = old)

/-- A once-only instruction that has been performed since the checkpoint is not performed again: it delivers what its record
holds, and no byte of memory, queue or task changes. -/
def Obligations.OnceOnlyIsNotRepeated : Prop :=
  ∀ (s : State) (i : Instr) (r : Src × Option XReg × Word × Option Word × Option (Pair × Bool)),
    (s.once 0).done = true → recorded (s.once 0) i = some r →
    ∃ t, exec i s = .next t ∧ OnlyResultL s t ∧ NoStore s t ∧ t.core.live.portL = portLAfter s r.1 ∧
      Delivers s t r.2.1 r.2.2.1 r.2.2.2.1 r.2.2.2.2

/-- A fence is outstanding from its issue. It completes once every load has (that one of the core's scope and `ifence` acquire nothing, and
that `ifence` performs the released stores, is the model's reading, log 76); then a fence beyond the core has performed every
released store of this core and is an acquire, and an instruction fence makes later fetches see every store and every copy of a
target is fetched again. -/
def Obligations.FencesOrderAccesses : Prop :=
  ∀ (s : State) (n : Nat),
    (∀ i, fenceScope i = some n → ∃ t, exec i s = .next t ∧ NoStore s t ∧
      t = { s with core := { s.core with fence := some n } }) ∧
    (s.core.fence = some n → s.core.outst = [] → s.core.rel = [] → (n = 3 → s.core.copies.any s.farOpen = false) →
      ∃ t, exec .fenceCompletion s = .next t ∧ NoStore s t ∧ t.core.fence = none ∧ t.core.rel = [] ∧
        t.core.acq = (if n = 0 ∨ n = 4 then s.core.acq else s.wseq) ∧
        t.core.ifseq = (if n = 4 then s.wseq else s.core.ifseq) ∧
        (n = 4 → ∀ k : Fin 8, t.core.live.tb[k].copy = false) ∧
        t.core.live.x = s.core.live.x ∧ t.core.live.p = s.core.live.p ∧ t.core.flags = s.core.flags) ∧
    (∀ pa data a, s.core.fence = some n → 1 ≤ n → s.core.outst = [] → s.core.rel = [.store pa data a] →
      (n = 3 → s.core.copies.any s.farOpen = false) → memLoc (locate pa) = true → s.Inv →
      ∃ t, exec .fenceCompletion s = .next t ∧ StoresAt pa data.length s t ∧ Holds t pa data ∧ t.core.fence = none ∧
        t.core.rel = [])

/-- A push is withheld; a pop takes the oldest message of a queue that has one, and `qtry` on an empty queue delivers false and
takes nothing. -/
def Obligations.QueueInstructions : Prop :=
  ∀ (s : State) (q : Src), s.qRefused s.acc (s.src .l q) = false →
    let die := qDie (s.src .l q)
    let n := qNum (s.src .l q)
    (∀ v : Opnd, s.onSaffron = false → s.core.whb.length < 256 →
      ∃ t, exec (.qpush q v) s = .next t ∧ OnlyWithheldL s t ∧ NoStore s t ∧
        t.core.whb = s.core.whb ++ [.push (s.src .l q) (s.opnd .l v) s.acc]) ∧
    ((s.once 0).done = false → s.NoReplay → saffronQueue (s.src .l q) = false →
      (∀ (d : XReg) (m : Msg) (ms : List Msg), (s.mq die n).ring = m :: ms → (s.mq die n).flue = [] →
        (∃ t, exec (.qpop d q) s = .next t ∧ NoStore s t ∧ Delivers s t (some d) m.val none none ∧
          (t.mq die n).ring = ms ∧ t.tasks = s.tasks) ∧
        (∀ p, ∃ t, exec (.qtry d p q) s = .next t ∧ NoStore s t ∧ Delivers s t (some d) m.val none (some (p, true)) ∧
          (t.mq die n).ring = ms ∧ t.tasks = s.tasks)) ∧
      (∀ (d : XReg) (p : Pair), (s.mq die n).ring = [] →
        ∃ t, exec (.qtry d p q) s = .next t ∧ NoStore s t ∧ Delivers s t none 0 none (some (p, false)) ∧ t.mqs = s.mqs) ∧
      (∀ d : XReg, (s.mq die n).ring = [] → s.core.iss.q = true →
        ∃ t, exec (.qpop d q) s = .next t ∧ NoStore s t ∧ t.core.iss.leave = some (.queue die n) ∧ t.mqs = s.mqs))

/-- `tspawn` reads a descriptor of 64 bytes and delivers the status of its acceptance: 0 with the task at the tail of its queue, 1 for an
invalid descriptor, 2 for a full queue; with 1 and 2 no task changes (that 1 stands before 2 is the model's choice, log 117). `tend` ends
the task with its bundle: no other issues, and the program counter is at the next one. -/
def Obligations.TasksSpawnAndEnd : Prop :=
  ∀ (s : State), s.NoReplay →
    (∀ (d : XReg) (b q : Src) (tr : Tr), (s.once 0).done = false → s.core.rel = [] → (s.src .l b).toNat % 64 = 0 →
      lAccess s .rd true (s.src .l b) = .ok tr → s.spawnShut (s.src .l q) = false →
      let die := natBits (s.src .l q).toNat 8 6
      let n := natBits (s.src .l q).toNat 5 0
      let desc := BitVec.ofNat 512 (rdNat s.mem tr.pa 64)
      let st := if !(s.descOk desc && s.ctxOk die (descCtx desc)) then 1 else if s.queueFull die n then 2 else 0
      ∃ t, exec (.tspawn d b q) s = .next t ∧ NoStore s t ∧ Delivers s t (some d) (w64 st) none none ∧
        t.tasks = (if st = 0 then s.tasks ++ [s.newTask die n desc none true] else s.tasks)) ∧
    (∃ t, exec .tend s = .next t ∧ NoStore s t ∧ t.core.iss = { s.core.iss with ending := 1 } ∧
      t.core.live = s.core.live ∧ t.tasks = s.tasks ∧ EndsIn t .ending)

namespace Sys2Proof.Claims

/-! ## Streams and Saffron (spec/11) -/

/-- Truncation of a context to i < G: the snapshot's address, and whether it is too old (spec/11 R300). -/
def snapshot (c : SCtx) (i : Nat) : Word × Bool :=
  if c.dep < c.g - i then (0, true) else (c.snb + w64 (c.sns * (i % c.dep)), false)

/-- G, KVL, D, `lq` and trap of `strunc` to i: spec/11 R301. -/
def cutRule (c : SCtx) (i : Nat) : Nat × Nat × Word × Word × Option Nat :=
  if i < c.p ∧ c.lpol = false then (c.g, c.kvl, 0, 0, some 0x0B)
  else
    let j := if i < c.p then c.p else i
    if c.g ≤ j then (c.g, c.kvl, 0, 0, none)
    else (j, min c.kvl j, w64 j, (snapshot c j).1, if (snapshot c j).2 then some 0x0C else none)

/-- The frame's position ⌈t / TB⌉ clamped to 32 bits; none for NaR and infinity. Late: no position, negative, or before P. -/
def framePosition (c : SCtx) (t : Nat) : Option Nat :=
  match qVal t with
  | .rat n d =>
    let k : Int := -((-(n * c.tb.2)) / (d * c.tb.1))
    some (if k < 0 then 0 else min (2 ^ 32 - 1) k.toNat)
  | _ => none

def frameLate (c : SCtx) (t : Nat) : Bool :=
  match qVal t, framePosition c t with
  | .rat n _, some p => decide (n < 0) || decide (p < c.p)
  | _, _ => true

/-- G, KVL, LF, D, `lq`, pair and trap of `sframe` for a frame that arrived at t: spec/11 R300. -/
def frameRule (c : SCtx) (t : Nat) : Nat × Nat × Nat × Word × Word × Bool × Option Nat :=
  let pos := (framePosition c t).getD c.p
  if frameLate c t ∧ c.lpol = false then (c.g, c.kvl, c.lf, w64 pos, 0, false, some 0x0B)
  else
    let i := if frameLate c t then c.p else pos
    if i < c.g then (i, min c.kvl i, i, w64 i, (snapshot c i).1, true, if (snapshot c i).2 then some 0x0C else none)
    else (c.g, c.kvl, i, w64 i, 0, true, none)

/-- Selections of `scur`: spec/11 R303. -/
def contextField (c : SCtx) (sel : Fin 7) : Nat :=
  if sel = 0 then c.g else if sel = 1 then c.p else if sel = 2 then c.head else if sel = 3 then c.tail
  else if sel = 4 then c.kvl else if sel = 5 then c.lf else c.w40

/-- The fields of a context that stream instructions store: G and P, then KVL, LF and HEAD. -/
def ContextHolds (t : State) (pa g p kvl lf head : Nat) : Prop :=
  Holds t pa (leBytes 4 g ++ leBytes 4 p) ∧ Holds t (pa + 0x10) (leBytes 4 kvl ++ leBytes 4 lf ++ leBytes 4 head)

/-- The next state takes the trap of a performed once-only instruction with its results: spec/11 R291. -/
def StreamTrap (u t : State) (cause : Nat) (xd lq : Word) : Prop :=
  t.core.phase = .handler ∧ t.core.tcause.setWidth 8 = BitVec.ofNat 8 cause ∧ t.core.tcause.getLsbD 16 = true ∧
    t.core.tres0 = xd ∧ t.core.tres1 = lq ∧ t.core.tbund = u.core.iss.pcb

end Sys2Proof.Claims

/-- The stream instructions on a well-formed context `c`, `u` being the state in which this core's earlier stores to it stand: `scur` and
`sadv` deliver a field and the clamped P; `sgen` appends a token at G or rejects it (past 2^32 − 1, where the spec gives the cursor no
successor, the new G is open, but never below P: the model's choice, log 79); nothing outside the context and the token's slot is stored. -/
def Obligations.StreamCursors : Prop :=
  ∀ (s u : State) (c : SCtx) (b : Src), u.NoReplay → u.Inv → u.core.rel = [] →
    (s.loadL b).sctxAt (s.src .l b) = .ok (u, c) →
    (∀ (d : XReg) (sel : Fin 7), ∃ t, exec (.scur d b sel) s = .next t ∧ NoStore u t ∧
      Delivers u t (some d) (w64 (contextField c sel)) none none) ∧
    (∀ (d : XReg) (n : Src),
      let p := min (max c.p ((s.src .l n).toNat % 2 ^ 32)) c.g
      ∃ t, exec (.sadv d b n) s = .next t ∧ StoresAt c.pa 0x48 u t ∧ ContextHolds t c.pa c.g p c.kvl c.lf c.head ∧
        Delivers u t (some d) (w64 p) none none) ∧
    (∀ (p : Pair) (v : Src), (s.once 0).done = false →
      let q := (s.src .l v).toNat / 2 ^ 32
      (¬(q = c.g ∧ c.g - c.p < 2 ^ c.tkl) → ∃ t, exec (.sgen p b v) s = .next t ∧ NoStore u t ∧
        Delivers u t none 0 none (some (p, false))) ∧
      (q = c.g → c.g - c.p < 2 ^ c.tkl → ∀ ps,
        u.vaddrs u.acc .rw (.lslot true) (c.tkb + w64 (4 * (q % 2 ^ c.tkl))) (2 ^ 50) 4 0 = .ok ps →
        (∀ p ∈ ps, memLoc (locate p) = true) →
        ∃ t g, exec (.sgen p b v) s = .next t ∧ Delivers u t none 0 none (some (p, true)) ∧
          (c.g + 1 < 2 ^ 32 → g = c.g + 1) ∧ (2 ^ 32 ≤ c.g + 1 → c.p < 2 ^ 32 → c.p ≤ g ∧ g < 2 ^ 32) ∧ Holds t c.pa (leBytes 4 g) ∧
          (ps.Nodup → (∀ p ∈ ps, p < c.pa ∨ c.pa + 0x48 ≤ p) →
            ps.map (memGet t.mem) = leBytes 4 ((s.src .l v).toNat % 2 ^ 32)) ∧
          ∀ a, (a < c.pa ∨ c.pa + 0x48 ≤ a) → ¬ a ∈ ps → memGet t.mem a = memGet u.mem a))

/-- `strunc` and `sframe` truncate as spec/11 R300 and R301 say: the new G and KVL stand in the context, D and `lq` take the
position and the snapshot's address, a late position under FAULT and a truncation deeper than the ring raise LATEF and TRDEP
with these results, and an empty frame ring delivers −1. -/
def Obligations.StreamTruncation : Prop :=
  ∀ (s u : State) (c : SCtx) (b : Src), u.NoReplay → u.Inv → u.core.rel = [] → (s.once 0).done = false →
    (s.loadL b).sctxAt (s.src .l b) = .ok (u, c) →
    (∀ (d : XReg) (i : Src),
      let r := cutRule c ((s.src .l i).toNat % 2 ^ 32)
      (r.2.2.2.2 = none → ∃ t, exec (.strunc d b i) s = .next t ∧ StoresAt c.pa 0x48 u t ∧
        ContextHolds t c.pa r.1 c.p r.2.1 c.lf c.head ∧ Delivers u t (some d) r.2.2.1 (some r.2.2.2.1) none) ∧
      (∀ cause, r.2.2.2.2 = some cause → u.CanTrap → ∃ t, exec (.strunc d b i) s = .next t ∧ StoresAt c.pa 0x48 u t ∧
        ContextHolds t c.pa r.1 c.p r.2.1 c.lf c.head ∧ StreamTrap u t cause r.2.2.1 r.2.2.2.1)) ∧
    (∀ (d : XReg) (p : Option Pair), c.head = c.tail →
      ∃ t, exec (.sframe d p b) s = .next t ∧ NoStore u t ∧
        Delivers u t (some d) (-1) (some 0) (p.map fun q => (q, false))) ∧
    (∀ (d : XReg) (p : Option Pair) (a : Nat), c.head ≠ c.tail → u.nextFrame c = .ok (u, some a) →
      let r := frameRule c a
      (r.2.2.2.2.2.2 = none → ∃ t, exec (.sframe d p b) s = .next t ∧ StoresAt c.pa 0x48 u t ∧
        ContextHolds t c.pa r.1 c.p r.2.1 r.2.2.1 ((c.head + 1) % 2 ^ 32) ∧
        Delivers u t (some d) r.2.2.2.1 (some r.2.2.2.2.1) (p.map fun q => (q, r.2.2.2.2.2.1))) ∧
      (∀ cause, r.2.2.2.2.2.2 = some cause → u.CanTrap → ∃ t, exec (.sframe d p b) s = .next t ∧ StoresAt c.pa 0x48 u t ∧
        ContextHolds t c.pa r.1 c.p r.2.1 r.2.2.1 ((c.head + 1) % 2 ^ 32) ∧
        StreamTrap u t cause r.2.2.2.1 r.2.2.2.2.1))

/-- On Saffron `srng` steps the generator and delivers its whole state; `smpl` delivers the token its descriptor gives, −2 for a
malformed one, and moves the generator only where it draws; `sacc` delivers −2 for a bad node count and else the accepted length,
the last node and the status of the bonus token. On a core they raise ILLOP. -/
def Obligations.SaffronInstructions : Prop :=
  ∀ (s : State),
    (s.onSaffron = true →
      (∀ d : XReg, ∃ t, exec (.srng d) s = .next t ∧ NoStore s t ∧ t.core.sr = sgStep s.core.sr ∧
        Delivers s t (some d) (sgStep s.core.sr) none none) ∧
      (∀ (d : XReg) (b : Src) (n : Nat), (s.src .l b).toNat % 64 = 0 →
        (s.loadL b).wreadN (s.src .l b) (2 ^ 43) 64 = .ok n →
        (∀ (v : Int) (u : State), (s.loadL b).sample (SDesc.of n) = .ok (v, u) →
          ∃ t, exec (.smpl d b) s = .next t ∧ NoStore u t ∧ t.core.sr = u.core.sr ∧ Delivers u t (some d) (i64 v) none none) ∧
        (natBits n 263 256 = 0 ∨ 64 < natBits n 263 256 ∨ natBits n 511 264 ≠ 0 ∨ badTemp (qVal (natBits n 255 224)) = true →
          ∃ t, exec (.smpl d b) s = .next t ∧ NoStore s t ∧ t.core.sr = s.core.sr ∧ Delivers s t (some d) (-2) none none) ∧
        (natBits n 263 256 = 0 ∨ 64 < natBits n 263 256 ∨ natBits n 511 264 ≠ 0 →
          ∃ t, exec (.sacc d b) s = .next t ∧ NoStore s t ∧ t.core.sr = s.core.sr ∧ Delivers s t (some d) (-2) none none) ∧
        (∀ (gram : Bool) (tb : List Byte) (cur a w st : Nat) (u v : State),
          1 ≤ natBits n 263 256 → natBits n 263 256 ≤ 64 → natBits n 511 264 = 0 →
          (s.loadL b).sGram (w64 (natBits n 255 192)) = .ok gram →
          (s.loadL b).wread (w64 (natBits n 63 0)) (2 ^ 39) (16 * natBits n 263 256) 0 = .ok tb →
          let ns := (List.range (natBits n 263 256)).map fun k => SNode.of (leNat ((tb.drop (16 * k)).take 16))
          (∀ x ∈ ns, x.rsv = 0) → (∀ k x, 1 ≤ k → ns[k]? = some x → x.par < k) →
          (s.loadL b).sWalk ns (w64 (natBits n 191 128)) 64 0 0 = .ok (cur, a, u) →
          u.wreadN (w64 (natBits n 127 64) + w64 (8 * cur)) (2 ^ 38) 8 = .ok w →
          u.sBonus (w64 w) gram = .ok (st, none, v) →
          ∃ t, exec (.sacc d b) s = .next t ∧ Delivers v t (some d) (w64 (a + 256 * cur + 65536 * st)) none none))) ∧
    (s.CanTrap → ∀ (d : XReg) (b : Src) (i : Instr), (i = .smpl d b ∨ i = .sacc d b ∨ i = .srng d) →
      ∃ t, exec i s = .next t ∧ TrapTaken s t 0x02 0 s.core.iss.slot.num s.core.iss.pcb 0 s.core.ckpt)

namespace Sys2Proof.Claims

/-! ## The Y slot (spec/07) -/

/-- Threshold of a wait: spec/07 R187. -/
def threshold (s : State) : Thr → Nat
  | .short n => n.toNat
  | .long n => n.toNat
  | .reg r => (s.src .y r).toNat

/-- Target and post of `post` and `postr`: the value that names the target, whether it is this core, and the post (spec/07
R188). A `postr` whose value names no core has none. -/
def postOp (s : State) : Instr → Option (Word × Bool × Post)
  | .post f n set => some (w64 (s.here % 128 + s.here / 128 * 128), true,
      { key := s.here, flag := f.val, set := set, amt := match n with
        | .short n => n.toNat
        | .long n => n.toNat })
  | .postr f x n set =>
    let w := s.src .y x
    if w.toNat < 1024 ∧ w.toNat % 128 ≤ 80 then
      some (w, w.toNat == s.here, { key := w.toNat, flag := f.val, set := set, amt := match n with
        | some n => n.toNat
        | none => 1 })
    else none
  | _ => none

/-- A flag after a post: spec/03 R80, spec/07 R188. -/
def posted (p : Post) (old : Nat) : Nat := if p.set then min 65535 p.amt else min 65535 (old + p.amt)

/-- A barrier's word with another arrival count and phase: spec/19 R377. -/
def barrierWord (w : Word) (arr phase : Nat) : Nat := w.toNat / 2 ^ 48 * 2 ^ 48 + phase % 2 ^ 16 * 2 ^ 32 + arr * 2 ^ 16 + w.toNat % 2 ^ 16

/-- The contribution of an agreement: spec/01 R24, spec/11 R284. -/
def contribution (s : State) (a : AgArgs) (seq : Nat) : Contrib :=
  let v := s.src .y a.v
  { seq := seq, site := a.site, cmb := a.cmb, tc := a.tc, t := if a.tc = 0 then 0 else (v.extractLsb' 32 32).toInt,
    v := (v.extractLsb' 0 32).toInt }

/-- Argument, trapping form and hint of an agreement. -/
def agreeOp : Instr → Option (AgArgs × Bool × Option Bool)
  | .agree a => some (a, false, none)
  | .agreep a h => some (a, false, some h)
  | .agreeT a => some (a, true, none)
  | _ => none

end Sys2Proof.Claims

/-- A wait whose flag has reached its threshold completes as an acquire of what stood at the flag's last change (the model's reading, log
29) and changes nothing else; `waity` on a flag that has not
gives up the core to wait for it. -/
def Sys2Proof.Claims.WaitsTestTheirFlag : Prop :=
  ∀ (s : State) (f : Fin 32) (n : Thr),
    (threshold s n ≤ (s.core.flag f.val).toNat → ∀ i, (i = .wait f n ∨ i = .waity f n) →
      ∃ t, exec i s = .next t ∧ NoStore s t ∧
        t = { s with core := { s.core with acq := max s.core.acq (s.core.fseq[f]) } }) ∧
    ((s.core.flag f.val).toNat < threshold s n →
      ∃ t, exec (.waity f n) s = .next t ∧ NoStore s t ∧
        t = { s with core := { s.core with
          iss := { s.core.iss with leave := some (.flag s.here f.val (threshold s n)) } } })

/-- A post of a core is one withheld entry with its target, flag and amount; no flag changes before its release. A `postr` that
names no core raises STF. -/
def Sys2Proof.Claims.PostsAreWithheld : Prop :=
  ∀ (s : State) (i : Instr),
    (∀ r, postOp s i = some r → s.onSaffron = false → s.core.whb.length < 256 →
      ∃ t, exec i s = .next t ∧ OnlyWithheld s t ∧ NoStore s t ∧
        t.core.whb = s.core.whb ++ [.post r.1 r.2.1 r.2.2 s.acc]) ∧
    (∀ f x n set, i = .postr f x n set → postOp s i = none → s.CanTrap →
      ∃ t, exec i s = .next t ∧ TrapTaken s t 0x06 5 s.core.iss.slot.num s.core.iss.pcb (s.src .y x) s.core.ckpt)

/-- A released weak store to memory proper reaches its home: its bytes stand there, and no other byte of memory changes. A
released post with no store before it, and none to its flag, reaches its flag: it adds, saturating at 65,535, or sets; no other flag of any agent
changes, and no byte of memory. -/
def Obligations.ReleasedEntriesReachHome : Prop :=
  ∀ (s : State) (i : Nat),
    (∀ pa data a, s.core.rel[i]? = some (.store pa data a) → relFree s.core.rel i = true → memLoc (locate pa) = true →
      s.Inv →
      ∃ t, exec (.weakStoreReachesHome i) s = .next t ∧ StoresAt pa data.length s t ∧ Holds t pa data ∧
        t.core.rel = s.core.rel.eraseIdx i ∧ t.core.live = s.core.live ∧ t.core.flags = s.core.flags ∧ t.dreg = s.dreg) ∧
    (∀ p a, s.core.rel[i]? = some (.post p a) → p.flag < 32 → relFree s.core.rel i = true →
      (∀ e ∈ s.core.rel.take i, ∃ q b, e = .post q b) →
      ∃ t, exec (.flagPostDelivery i) s = .next t ∧ NoStore s t ∧
        (t.coreOf p.key).flag p.flag = BitVec.ofNat 16 (posted p ((s.coreOf p.key).flag p.flag).toNat) ∧
        (∀ k f, ¬(k = p.key ∧ f = p.flag) → (t.coreOf k).flag f = (s.coreOf k).flag f) ∧
        t.core.rel = s.core.rel.eraseIdx i ∧ t.core.live = s.core.live)

/-- A barrier counts one arrival: the last one of a phase clears the count, advances the phase and wakes every task that waits
there; another gives up the core. A barrier of another context or with nothing expected raises STF. `yield` gives up the core
once, and completes when its bundle issues again. -/
def Obligations.BarriersAndYield : Prop :=
  ∀ (s : State) (n : Fin 64),
    let die := keyDie s.here
    let w := s.dget die (offBAR n.val)
    let arr := natBits w.toNat 31 16
    (s.NoReplay → s.core.rel = [] → s.onSaffron = false → (s.once 1).done = false → natBits w.toNat 63 48 = s.core.ctx →
      natBits w.toNat 15 0 ≠ 0 → arr < natBits w.toNat 15 0 →
      ∃ t, exec (.barr n) s = .next t ∧ NoStore s t ∧ (t.once 1).done = true ∧
        (if arr + 1 = natBits w.toNat 15 0 then
          t.dget die (offBAR n.val) = w64 (barrierWord w 0 (natBits w.toNat 47 32 + 1)) ∧
          t.core.iss.leave = s.core.iss.leave ∧ (∀ x ∈ t.tasks, x.wait ≠ .barrier die n.val)
        else
          t.dget die (offBAR n.val) = w64 (barrierWord w (arr + 1) (natBits w.toNat 47 32)) ∧
          t.core.iss.leave = some (.barrier die n.val) ∧ t.tasks = s.tasks)) ∧
    (s.CanTrap → (s.once 1).done = false → (natBits w.toNat 63 48 ≠ s.core.ctx ∨ natBits w.toNat 15 0 = 0) →
      ∃ t, exec (.barr n) s = .next t ∧ TrapTaken s t 0x06 8 s.core.iss.slot.num s.core.iss.pcb 0 s.core.ckpt) ∧
    (s.NoReplay → s.onSaffron = false →
      ((s.once 1).done = false → ∃ t, exec .yield s = .next t ∧ NoStore s t ∧ t.core.iss.leave = some .none ∧
        (t.once 1).done = true ∧ t.core.live = s.core.live ∧ t.tasks = s.tasks) ∧
      ((s.once 1).done = true → ∃ t, exec .yield s = .next t ∧ t = s)) ∧
    ((s.once 1).done = true → ¬((s.once 1).val.toNat = natBits w.toNat 47 32 ∧ arr ≠ 0) →
      ∃ t, exec (.barr n) s = .next t ∧
        t = { s with core := { s.core with acq := max s.core.acq (assocGet 0 s.barAt (die * 64 + n.val)) } })

/-- An agreement whose membership the task does not hold contributes to nothing: the trapping form raises AGFAIL, with its results in
the trap record and bit 7 of DETAIL set, and another form takes the outcome LOST. -/
def Sys2Proof.Claims.AgreementsOutsideTheTask : Prop :=
  ∀ (s : State) (i : Instr) (a : AgArgs) (trapping : Bool) (hint : Option Bool),
    agreeOp i = some (a, trapping, hint) → s.NoReplay → s.onSaffron = false → (s.once 1).done = false →
    s.membership a.mb = none →
    (trapping = false →
      ∃ t, exec i s = .next t ∧ NoStore s t ∧ t.core.live = s.core.live ∧
        t.core.iss.eob = s.core.iss.eob ++ [.ag 0 (a.pr.map fun p =>
          (physP s.core.live (pairEven p), physP s.core.live (pairOdd p), false))] ∧
        (t.once 1).done = true ∧ (t.once 1).wait = false ∧ (t.once 1).val = 0 ∧ (t.once 1).aux = 0x33 ∧
        t.agMail = s.agMail ∧ t.mseq = s.mseq ∧ t.homes = s.homes ∧ t.tasks = s.tasks) ∧
    (trapping = true → s.CanTrap →
      ∃ t, exec i s = .next t ∧ TrapTaken s t 0x1000A 0xB3 2 s.core.iss.pcb 0 s.core.ckpt ∧
        t.core.tres0 = 0 ∧ t.core.tres1 = 0x33 ∧ t.agMail = s.agMail ∧ t.mseq = s.mseq ∧ t.homes = s.homes)

/-- An agreement of a valid group contributes once: its value, site and combine leave for the home under the member's next
sequence number, which advances; the once record marks it, and only the hinted form lets the core run ahead. A member to whom no Chimney's access
table grants agreement traffic to its group's home takes LOST, and no other member does (the model's reading, log 91). -/
def Sys2Proof.Claims.AgreementsContribute : Prop :=
  ∀ (s : State) (i : Instr) (a : AgArgs) (trapping : Bool) (hint : Option Bool) (g m : Nat),
    agreeOp i = some (a, trapping, hint) → s.NoReplay → s.onSaffron = false → (s.once 1).done = false →
    s.membership a.mb = some (g, m) → s.gValid g = true → s.homeShut g = false → s.homeAbsent g = false →
    (s.homeDenied g = true → trapping = false →
      ∃ t, exec i s = .next t ∧ NoStore s t ∧ t.agMail = s.agMail ∧ t.absent = s.absent ∧ t.homes = s.homes ∧
        t.nextSeq g m = (s.nextSeq g m + 1) % 2 ^ 32 ∧ t.core.live = s.core.live ∧
        t.core.iss.eob = s.core.iss.eob ++ [.ag 0 (a.pr.map fun p =>
          (physP s.core.live (pairEven p), physP s.core.live (pairOdd p), false))] ∧ (t.once 1).done = true) ∧
    (s.homeDenied g = false → ∃ t w, exec i s = .next t ∧ NoStore s t ∧ t.agMail = s.agMail ++ [(g, m, contribution s a (s.nextSeq g m))] ∧
      t.nextSeq g m = (s.nextSeq g m + 1) % 2 ^ 32 ∧ (t.once 1).done = true ∧ (t.once 1).wait = true ∧
      t.core.agw = some w ∧ w.g = g ∧ w.m = m ∧ w.seq = s.nextSeq g m ∧ w.hint = hint ∧ w.trapping = trapping ∧
      t.core.runAhead = hint.isSome ∧ t.core.live = s.core.live ∧ t.homes = s.homes ∧ t.tasks = s.tasks)

/-- `agst` delivers the latest status or report of a membership, its next sequence number, or the counts of present, departed and
lost members; −1 for a membership the task does not have, and for the sequence number and the counts while its group's entry has
VALID 0. -/
def Sys2Proof.Claims.AgreementStatus : Prop :=
  ∀ (s : State) (d : XReg) (mb : Fin 4),
    (s.membership mb = none → ∀ sel, ∃ t, exec (.agst d mb sel) s = .next t ∧ NoStore s t ∧
      Delivers s t (some d) (-1) none none) ∧
    (∀ (g m : Nat) (k : Task), s.membership mb = some (g, m) → s.curTask = some k →
      (∃ t, exec (.agst d mb 0) s = .next t ∧ NoStore s t ∧ Delivers s t (some d) (k.ag[mb]).sel0 none none) ∧
      (∃ t, exec (.agst d mb 2) s = .next t ∧ NoStore s t ∧ Delivers s t (some d) (k.ag[mb]).sel2 none none) ∧
      (s.gValid g = true → ∃ t, exec (.agst d mb 1) s = .next t ∧ NoStore s t ∧
        Delivers s t (some d) (w64 (s.nextSeq g m)) none none) ∧
      (s.gValid g = true →
        let n := fun st => ((List.range (s.gNmem g)).filter fun k => s.memState g k == st).length
        let lost := ((List.range (s.gNmem g)).filter fun k => decide (2 ≤ s.memState g k)).length
        ∃ t, exec (.agst d mb 3) s = .next t ∧ NoStore s t ∧
          Delivers s t (some d) (w64 (n 0 + n 1 * 2 ^ 17 + lost * 2 ^ 34)) none none) ∧
      (s.gValid g = false → ∀ sel : Fin 4, (sel = 1 ∨ sel = 3) → ∃ t, exec (.agst d mb sel) s = .next t ∧ NoStore s t ∧
        Delivers s t (some d) (-1) none none))

/-- The agreement instructions at issue, within and without a membership of the task, and `agst`. -/
def Obligations.AgreementInstructions : Prop := AgreementsContribute ∧ AgreementsOutsideTheTask ∧ AgreementStatus

/-- The flag instructions: waits test their flag, posts are withheld. -/
def Obligations.WaitsAndPosts : Prop := WaitsTestTheirFlag ∧ PostsAreWithheld

namespace Sys2Proof.Claims

/-! ## The V slots (spec/08) -/

/-- Generator outputs that n roundings take under STO, in lane order, and the generators after them (spec/02 R58). -/
def outputs (s : State) (rounds : Bool) (n : Nat) : List Nat × Vector Word 16 :=
  let k := s.core.iss.seed
  if rounds = true ∧ s.core.iss.frnd = .sto then
    ((drawN n s.core.live.sg[k]).1, s.core.live.sg.set k (drawN n s.core.live.sg[k]).2)
  else ([], s.core.live.sg)

/-- A V operation issues: its row writes, predicates or register and its flags are in flight, the generators stand at `g`, the
rows of the interval may grow, and nothing else changes. -/
structure VIssues (s t : State) (g : Vector Word 16) (lat : Nat) (ws : List LWrite) (f : Fl) : Prop where
  only   : OnlyIssueV s t
  bytes  : NoStore s t
  gens   : t.core.live.sg = g
  flight : t.core.land = s.core.land ++ [entry s lat (ws ++ if f = 0 then [] else [.flags f])]
  meets  : t.core.outst = if s.onSaffron then s.core.outst else s.core.outst.map (marked (ws ++ if f = 0 then [] else [.flags f]))

/-- Lane values of an operation on the enabled lanes, each with its own rounding, and the flags of all. -/
def laneResults (s : State) (rounds : Bool) (es : List Nat) (f : Nat → Rnd → Nat × Fl) : List (Nat × Nat) × Fl :=
  mapLanes (fun r => s.rnd r) f es (outputs s rounds es.length).1

/-- A lane-wise operation: bound, whether it rounds, and the value of lane i. -/
structure LaneOp where
  v : VArgs
  lat : Nat
  rounds : Bool
  val : Nat → Rnd → Nat × Fl

/-- Whole-lane integers of a lane. -/
def laneZ (v : VArgs) (x : Nat) : Int := laneInt v.ty x

/-- Arithmetic on two or three lanes: exact integers modulo the lane, or one float operation on the lanes' codes (spec/08
R211). -/
def arithLane (s : State) (v : VArgs) (a b c : Nat → Nat) (fi : Int → Int → Int → Int)
    (ff : FFmt → Rnd → Nat → Nat → Nat → Nat × Fl) (i : Nat) (m : Rnd) : Nat × Fl :=
  match v.ty.ffmt with
  | some f => ff f m (a i % 2 ^ s.dbits v.ty) (b i % 2 ^ s.dbits v.ty) (c i % 2 ^ s.dbits v.ty)
  | none => (wrapNat v.ty.width (fi (laneZ v (a i)) (laneZ v (b i)) (laneZ v (c i))), 0)

/-- A sign operation on a float code: a NaN becomes the quiet one, with NV if it signals. -/
def signLane (f : FFmt) (g : Nat → Nat) (a : Nat) : Nat × Fl :=
  match f.val a with
  | .nan sig => (f.qnan, if sig then fNV else 0)
  | _ => (g a, 0)

def isFloat (v : VArgs) : Bool := v.ty.ffmt.isSome

/-- The arithmetic operations. -/
def arithOp (s : State) : Instr → Option LaneOp
  | .vadd v => some ⟨v, 2, isFloat v, arithLane s v (s.laneA v) (s.laneB v) (fun _ => 0) (fun a b _ => a + b)
      (fun f m a b _ => f.add m (f.val a) (f.val b))⟩
  | .vsub v => some ⟨v, 2, isFloat v, arithLane s v (s.laneA v) (s.laneB v) (fun _ => 0) (fun a b _ => a - b)
      (fun f m a b _ => f.sub m (f.val a) (f.val b))⟩
  | .vmul v => some ⟨v, 4, isFloat v, arithLane s v (s.laneA v) (s.laneB v) (fun _ => 0) (fun a b _ => a * b)
      (fun f m a b _ => f.mul m (f.val a) (f.val b))⟩
  | .vfma v => some ⟨v, 4, isFloat v, arithLane s v (s.laneA v) (s.laneB v) (s.lanesOf v.c v.ty.width)
      (fun a b c => a * b + c) (fun f m a b c => f.fma m (f.val a) (f.val b) (f.val c))⟩
  | .vfms v => some ⟨v, 4, isFloat v, arithLane s v (s.laneA v) (s.laneB v) (s.lanesOf v.c v.ty.width)
      (fun a b c => a * b - c) (fun f m a b c => f.fma m (f.val a) (f.val b) (f.val c).neg)⟩
  | .vmin v => some ⟨v, 2, false, arithLane s v (s.laneA v) (s.laneB v) (fun _ => 0) (fun a b _ => if b < a then b else a)
      (fun f _ a b _ => f.minmax false a b)⟩
  | .vmax v => some ⟨v, 2, false, arithLane s v (s.laneA v) (s.laneB v) (fun _ => 0) (fun a b _ => if a < b then b else a)
      (fun f _ a b _ => f.minmax true a b)⟩
  | .vabs v => some ⟨v, 2, false, arithLane s v (s.laneA v) (fun _ => 0) (fun _ => 0) (fun a _ _ => a.natAbs)
      (fun f _ a _ _ => signLane f (fun a => a % f.signBit) a)⟩
  | .vneg v => some ⟨v, 2, false, arithLane s v (s.laneA v) (fun _ => 0) (fun _ => 0) (fun a _ _ => -a)
      (fun f _ a _ _ => signLane f (fun a => (a + f.signBit) % (2 * f.signBit)) a)⟩
  | _ => none

/-- The operations that move, combine or choose bits: lane i of the result (spec/08 R211 to R214, R222, R223). A shift amount is
taken modulo 128. -/
def bitsOp (s : State) : Instr → Option (VArgs × (Nat → Nat))
  | .vmov v => some (v, match v.b with
      | .scal _ => s.laneB v
      | .idx _ => s.laneA v)
  | .vand v => some (v, fun i => s.laneA v i &&& s.laneB v i)
  | .vor v => some (v, fun i => s.laneA v i ||| s.laneB v i)
  | .vxor v => some (v, fun i => s.laneA v i ^^^ s.laneB v i)
  | .vnot v => some (v, fun i => 2 ^ v.ty.width - 1 - s.laneA v i)
  | .vshl v => some (v, fun i => s.laneA v i * 2 ^ (s.laneB v i % 128))
  | .vshr v => some (v, fun i => s.laneA v i / 2 ^ (s.laneB v i % 128))
  | .vsar v => some (v, fun i => wrapNat v.ty.width (toSigned v.ty.width (s.laneA v i) / 2 ^ (s.laneB v i % 128)))
  | .vsel v => some (v, fun i => if (s.vrow v.c 1).getLsbD i then s.laneA v i else s.laneB v i)
  | .vperm v => some (v, fun i => s.laneA v (s.laneB v i % v.ty.lanes))
  | .vrot v => some (v, fun i => s.laneA v ((i + s.amount v) % v.ty.lanes))
  | .vbcast v => some (v, fun _ => s.laneA v (s.amount v % v.ty.lanes))
  | _ => none

/-- Compares: the condition on integers and on float values, and whether only a signalling NaN sets NV (spec/08 R213). -/
def compareOp : Instr → Option (VArgs × Bool × (Int → Int → Bool) × (FV → FV → Bool))
  | .vceq v => some (v, true, fun a b => decide (a = b), fvEq)
  | .vclt v => some (v, false, fun a b => decide (a < b), fvCmpLt)
  | .vcle v => some (v, false, fun a b => decide (a ≤ b), fvCmpLe)
  | _ => none

def compareLane (s : State) (v : VArgs) (quiet : Bool) (fi : Int → Int → Bool) (ff : FV → FV → Bool) (i : Nat) : Nat × Fl :=
  match v.ty.ffmt with
  | some f =>
    let x := f.val (s.laneA v i % 2 ^ s.dbits v.ty)
    let y := f.val (s.laneB v i % 2 ^ s.dbits v.ty)
    (if ff x y then 1 else 0, if (if quiet then x.isSnan || y.isSnan else x.isNan || y.isNan) then fNV else 0)
  | none => (if fi (laneZ v (s.laneA v i)) (laneZ v (s.laneB v i)) then 1 else 0, 0)

/-- V operations beside arithmetic that work in the type of their TYPE field. -/
def typedOp : Instr → Option VArgs
  | .vmov v | .vand v | .vor v | .vxor v | .vnot v | .vshl v | .vshr v | .vsar v | .vsel v | .vperm v | .vrot v | .vbcast v
  | .vceq v | .vclt v | .vcle v | .vcvt v | .vmx v | .vrsum v | .vrmax v | .vrmin v | .vargmax v | .vtopk v | .vext v | .vins v
  | .vany v | .vall v => some v
  | _ => none

/-- Special functions by number: spec/08 R218. -/
def specialOp : Instr → Option (Nat × VArgs)
  | .vrcp v => some (0, v)
  | .vrsq v => some (1, v)
  | .vsqrt v => some (2, v)
  | .vexp2 v => some (3, v)
  | .vlog2 v => some (4, v)
  | .vtanh v => some (5, v)
  | .vsigm v => some (6, v)
  | _ => none

/-- One value in every lane of D. -/
def everyLane (v : VArgs) (x : Nat) : LWrite := rowWrite v.d v.ty.width ((List.range v.ty.lanes).map fun i => (i, x))

/-- Value and flags of a reduction without a rounding: spec/08 R219, R220. -/
def reduceOp (s : State) : Instr → Option (VArgs × Nat × Fl)
  | .vrmax v => some (v, match v.ty.ffmt with
      | some f => pickFloat f true ((s.enabled v).map fun i => s.laneA v i % 2 ^ s.dbits v.ty)
      | none => (pickInt v.ty true ((s.enabled v).map fun i => laneZ v (s.laneA v i)), 0))
  | .vrmin v => some (v, match v.ty.ffmt with
      | some f => pickFloat f false ((s.enabled v).map fun i => s.laneA v i % 2 ^ s.dbits v.ty)
      | none => (pickInt v.ty false ((s.enabled v).map fun i => laneZ v (s.laneA v i)), 0))
  | .vargmax v =>
    let ls := (s.enabled v).map fun i => (i, s.laneVal v.ty (s.laneA v i))
    some (v, (match s.enabled v with
      | [] => 2 ^ v.ty.width - 1
      | e :: _ => (bestLane ls none).getD e), if ls.any (fun p => p.2.isSnan) then fNV else 0)
  | _ => none

end Sys2Proof.Claims

/-- Vector arithmetic writes each enabled lane of D with the operation on the lanes of A, B and C, under its own rounding, within
its bound; masked lanes keep their value (they are not among the lanes written), and no other row is named. A type that names an
invalid format register raises ILLOP. NV of a fused product of zero and infinity, and a scalar NaN in lanes of `.a80`, are the model's
readings (logs 21, 22). -/
def Obligations.VectorArithmetic : Prop :=
  ∀ (s : State) (i : Instr) (r : LaneOp), arithOp s i = some r →
    (s.fmOk r.v.ty = true →
      let p := laneResults s r.rounds (s.enabled r.v) r.val
      ∃ t, exec i s = .next t ∧
        VIssues s t (outputs s r.rounds (s.enabled r.v).length).2 r.lat [rowWrite r.v.d r.v.ty.width p.1] p.2) ∧
    (s.fmOk r.v.ty = false → s.CanTrap →
      ∃ t, exec i s = .next t ∧ TrapTaken s t 0x02 0 s.core.iss.slot.num s.core.iss.pcb 0 s.core.ckpt)

/-- Movement, logic, shifts, selection and permutes write each enabled lane of D with bits of their operands, cut to the datum,
and set no flag. -/
def Sys2Proof.Claims.VectorBits : Prop :=
  ∀ (s : State) (i : Instr) (r : VArgs × (Nat → Nat)), bitsOp s i = some r → s.fmOk r.1.ty = true →
    ∃ t, exec i s = .next t ∧
      VIssues s t s.core.live.sg 2
        [rowWrite r.1.d r.1.ty.width ((s.enabled r.1).map fun i => (i, r.2 i % 2 ^ s.dbits r.1.ty))] 0

/-- A vector compare writes all of D: bit i is the condition of enabled lane i, and every other bit is zero. -/
def Sys2Proof.Claims.VectorCompares : Prop :=
  ∀ (s : State) (i : Instr) (v : VArgs) (quiet : Bool) (fi : Int → Int → Bool) (ff : FV → FV → Bool),
    compareOp i = some (v, quiet, fi, ff) → s.fmOk v.ty = true →
    let val := compareLane s v quiet fi ff
    ∃ t, exec i s = .next t ∧
      VIssues s t s.core.live.sg 2
        [.row v.d v.ty.width (BitVec.allOnes 10240)
          (BitVec.ofNat 10240 (packAt 1 ((s.enabled v).map fun i => (i, (val i).1))))]
        ((s.enabled v).foldr (fun i f => (val i).2 ||| f) 0)

/-- Every V operation beside arithmetic whose TYPE may name a format register raises ILLOP where that register is invalid, and so do
`vcvt` from an invalid format and `vunmx` of one. -/
def Sys2Proof.Claims.InvalidFormatsTrap : Prop :=
  ∀ (s : State) (i : Instr) (v : VArgs), s.CanTrap →
    (typedOp i = some v ∧ s.fmOk v.ty = false ∨
      i = .vcvt v ∧ (∃ st, vcvtSrc v.c.val = some st ∧ s.fmOk st = false) ∨
      i = .vunmx v ∧ s.fmOk (.fm ⟨v.b.val / 4 % 8, Nat.mod_lt _ (by decide)⟩) = false) →
    ∃ t, exec i s = .next t ∧ TrapTaken s t 0x02 0 s.core.iss.slot.num s.core.iss.pcb 0 s.core.ckpt

/-- Conversions, block scaling and special functions write their lanes within 4 and 10 cycles: `vcvt` each enabled lane of its
part, `vmx` codes and block scales, `vunmx` every lane, the special functions each enabled lane. The model's readings and choices: the
special functions' flags and rounding (logs 25, 30), ties, NaNs, minus infinity, exponents and underflow of narrow formats (81 to 84, 109),
and rows that steps make equal (112). -/
def Obligations.VectorConversions : Prop :=
  ∀ (s : State) (v : VArgs),
    (∀ st, vcvtSrc v.c.val = some st → s.fmOk v.ty = true → s.fmOk st = true →
      let es := ((cvtMap st.lanes v.ty.lanes v.b.val).filter fun p => (s.enabled v).contains p.1).map (·.1)
      let src := fun i => if st.lanes ≤ v.ty.lanes then i - v.b.val * st.lanes else v.b.val * v.ty.lanes + i
      let rounds := v.ty != .q32 && !(st.isInt && v.ty.isInt)
      let p := laneResults s rounds es fun i m => s.cvtLane st v.ty m (s.lanesOf (s.vA v) st.width (src i))
      ∃ t, exec (.vcvt v) s = .next t ∧ VIssues s t (outputs s rounds es.length).2 4 [rowWrite v.d v.ty.width p.1] p.2) ∧
    (∀ n, v.ty = .fm n → s.fmOk v.ty = true →
      let f := s.nfmt n
      let la := vmxLanes v.b.val
      let part := v.b.val % 4
      let sf := vmxFmt v.b.val
      let x := fun i => sf.val (s.lanesOf (s.vA v) (10240 / la) i % (2 * sf.signBit))
      let blk := fun j => (List.range 16).map fun k => x (16 * j + k)
      let es := (List.range la).map (part * la + ·)
      let p := laneResults s true es fun i m =>
        let j := i - part * la
        match mxScale f (blk (j / 16)) with
        | none => (0, fNV)
        | some k => mxCode f m ((blk (j / 16)).all FV.isZero) k (x j)
      ∃ t, exec (.vmx v) s = .next t ∧
        VIssues s t (outputs s true es.length).2 4
          [rowWrite v.d 10 p.1,
           rowWrite v.c 10 ((List.range (la / 16)).map fun j => (part * (la / 16) + j, (mxScale f (blk j)).getD 255))] p.2) ∧
    (∀ f, v.ty.ffmt = some f →
      let n : Fin 8 := ⟨v.b.val / 4 % 8, Nat.mod_lt _ (by decide)⟩
      let part := v.b.val % 4
      let ld := v.ty.lanes
      let p := laneResults s true (List.range ld) fun i m =>
        unmxLane f (s.nfmt n) m (s.lanesOf (s.vA v) 10 (part * ld + i) % 2 ^ (s.nfmt n).width)
          (s.lanesOf v.c 10 (part * ld / 16 + i / 16) % 256)
      s.fmOk (.fm n) = true →
      ∃ t, exec (.vunmx v) s = .next t ∧ VIssues s t (outputs s true ld).2 4 [rowWrite v.d v.ty.width p.1] p.2) ∧
    (∀ i k f, specialOp i = some (k, v) → v.ty.ffmt = some f →
      let p := laneResults s (f.fb != 23) (s.enabled v) fun i m => specialLane k f m (s.laneA v i % 2 ^ s.dbits v.ty)
      ∃ t, exec i s = .next t ∧
        VIssues s t (outputs s (f.fb != 23) (s.enabled v).length).2 10 [rowWrite v.d v.ty.width p.1] p.2)

/-- Reductions over the enabled lanes put one value into every lane of D within 8 cycles; a float sum is exact and rounded once. `vtopk`
puts the greatest k lanes in order into the first lanes of D, and their numbers into C, within 16; a scalar k of 0 changes nothing, not even
NV. That, the sign of a zero sum, and rows that steps make equal, are the model's choices (logs 111, 36, 112). -/
def Obligations.VectorReductions : Prop :=
  ∀ (s : State),
    (∀ i v x f, reduceOp s i = some (v, x, f) → s.fmOk v.ty = true →
      ∃ t, exec i s = .next t ∧ VIssues s t s.core.live.sg 8 [everyLane v x] f) ∧
    (∀ v, s.fmOk v.ty = true → v.ty.ffmt = none →
      ∃ t, exec (.vrsum v) s = .next t ∧
        VIssues s t s.core.live.sg 8
          [everyLane v (wrapNat v.ty.width ((s.enabled v).map fun i => laneZ v (s.laneA v i)).sum)] 0) ∧
    (∀ v f, s.fmOk v.ty = true → v.ty.ffmt = some f →
      let r := sumFloat f (drawn s).1 ((s.enabled v).map fun i => f.val (s.laneA v i % 2 ^ s.dbits v.ty))
      ∃ t, exec (.vrsum v) s = .next t ∧ VIssues s t (drawn s).2 8 [everyLane v r.1] r.2) ∧
    (∀ v, s.fmOk v.ty = true →
      let k := match v.b with
        | .idx n => n.val
        | .scal _ => min (s.amount v) 64
      let ls := (s.enabled v).map fun i => (i, s.laneVal v.ty (s.laneA v i))
      let top := topList k ls
      (k = 0 → ∃ t, exec (.vtopk v) s = .next t ∧ t = s) ∧
      (let val := fun j => match top[j]?, v.ty.ffmt with
        | some p, some f => if p.2.isNan then f.qnan else s.laneA v p.1 % 2 ^ s.dbits v.ty
        | some p, none => s.laneA v p.1
        | none, some f => f.inf true
        | none, none => negLimit v.ty
      (k ≠ 0 → ∃ t, exec (.vtopk v) s = .next t ∧
        VIssues s t s.core.live.sg 16
          [rowWrite v.d v.ty.width ((List.range k).map fun j => (j, val j)),
           rowWrite v.c 40 ((List.range k).map fun j => (j, (top[j]?.map (·.1)).getD 0xFFFFFFFF))]
          (if ls.any (fun p => p.2.isSnan) then fNV else 0))))

/-- `vext` puts one lane into a scalar register, `vins` a scalar into one enabled lane, `vany` and `vall` the condition of a row's
enabled bits into a pair. -/
def Sys2Proof.Claims.VectorScalarExchange : Prop :=
  ∀ (s : State) (v : VArgs), s.fmOk v.ty = true →
    (let x := s.laneA v (s.amount v % v.ty.lanes)
      ∃ t, exec (.vext v) s = .next t ∧
        VIssues s t s.core.live.sg 2 [.x (physX s.core.live (vXreg v.d))
          (if v.ty.isInt then i64 (laneZ v x) else w64 (x % 2 ^ s.dbits v.ty))] 0) ∧
    (∀ n r, v.a = .row n → Src.ofCode n.val = some r →
      let k := (s.src s.core.iss.slot r).toNat % v.ty.lanes
      ∃ t, exec (.vins v) s = .next t ∧
        VIssues s t s.core.live.sg 2
          [rowWrite v.d v.ty.width (if (s.enabled v).contains k then [(k, s.laneB v k)] else [])] 0) ∧
    (∃ t, exec (.vany v) s = .next t ∧
      VIssues s t s.core.live.sg 8 (pairWrites s (vPair v.d) ((s.enabled v).any (s.vrow (s.vA v) 1).getLsbD)) 0) ∧
    (∃ t, exec (.vall v) s = .next t ∧
      VIssues s t s.core.live.sg 8 (pairWrites s (vPair v.d) ((s.enabled v).all (s.vrow (s.vA v) 1).getLsbD)) 0)

/-- A write of some lanes of a row changes those lanes to the values given and no other bit of the row. -/
def Sys2Proof.Claims.RowWritesKeepOtherLanes : Prop :=
  ∀ (n : Fin 512) (w : Nat) (ls : List (Nat × Nat)) (old : Row), 0 < w → (∀ p ∈ ls, p.2 < 2 ^ w ∧ w * (p.1 + 1) ≤ 10240) →
    (ls.map (·.1)).Nodup →
    ∃ en v, rowWrite n w ls = .row n w en v ∧
      let new := (old &&& ~~~en) ||| (v &&& en)
      (∀ p ∈ ls, laneOf new w p.1 = p.2) ∧
      (∀ k, k < 10240 → (∀ p ∈ ls, ¬(w * p.1 ≤ k ∧ k < w * (p.1 + 1))) → new.getLsbD k = old.getLsbD k)

/-- The logical, shift, field and compare operations of the V slots, and the trap of an invalid format register. -/
def Obligations.VectorBitsAndCompares : Prop := VectorBits ∧ VectorCompares ∧ InvalidFormatsTrap

/-- What a row write leaves of a row, and the operations that move between rows and scalars. -/
def Obligations.VectorRowsAndScalars : Prop := VectorScalarExchange ∧ RowWritesKeepOtherLanes

namespace Sys2Proof.Claims

/-! ## The M slot (spec/09) -/

/-- Bits of a Hearth register that are fields; the others read 0 whatever is written (spec/09 R228 to R233, R239, R244). -/
def hearthFields (er : Fin 14) : Word :=
  let bits := fun (l : List (Nat × Nat)) => w64 ((l.map fun p => 2 ^ (p.1 + 1) - 2 ^ p.2).foldl (· + ·) 0)
  bits (match er.val with
    | 0 => [(63, 62), (47, 0)]
    | 1 => [(30, 0)]
    | 2 => [(30, 16), (8, 0)]
    | 3 => [(8, 0)]
    | 4 => [(15, 0)]
    | 5 => [(6, 4), (2, 0)]
    | 6 => [(63, 63), (47, 0)]
    | 7 => [(63, 63), (24, 0)]
    | 8 => [(16, 16), (8, 0)]
    | 9 => [(63, 0)]
    | 10 => [(5, 0)]
    | 11 => [(47, 0)]
    | 12 => [(63, 0)]
    | _ => [(63, 62), (55, 48), (43, 32), (24, 0)])

/-- The M port after an operation with this A operand. -/
def portMAfter (s : State) (a : Src) : Word := if a = .ko then s.core.live.portM else s.src .m a

/-- Opcode and operand pair of a start. -/
def hearthStart : Instr → Option (Nat × Option (Fin 14 × Src))
  | .mgoBf16 w => some (0x08, w)
  | .mgoF16 w => some (0x09, w)
  | .mgoW8 w => some (0x0A, w)
  | .mgoS8 w => some (0x0B, w)
  | .mgoW4 w => some (0x0C, w)
  | .mgoS4 w => some (0x0D, w)
  | .mjoinBf16 w => some (0x10, w)
  | .mjoinF16 w => some (0x11, w)
  | .mjoinW8 w => some (0x12, w)
  | .mjoinS8 w => some (0x13, w)
  | .mjoinW4 w => some (0x14, w)
  | .mjoinS4 w => some (0x15, w)
  | .mgol => some (0x18, none)
  | _ => none

/-- The shadow set that a start copies: spec/09 R238. -/
def startSet (s : State) : Option (Fin 14 × Src) → Vector Word 14
  | none => s.core.live.hs
  | some (er, a) => s.core.live.hs.set er (s.src .m a &&& hearthFields er)

/-- A format register that MFMT names, by its bit place. -/
def startFmt (s : State) (g : Vector Word 14) (lo : Nat) : BitVec 32 :=
  s.core.live.fm[(⟨g[5].toNat / 2 ^ lo % 8, Nat.mod_lt _ (by decide)⟩ : Fin 8)]

/-- Issue cycles from a start to its landing: spec/09 R240, R249. -/
def startBound (op m n k : Nat) : Nat :=
  let ty := if op = 0x18 then 0 else op % 8
  let kc := if ty ≤ 1 then 32 else if ty ≤ 3 then 64 else 128
  24 + ((if n ≤ 128 then m else 2 * m) + 15) / 16 * ((k + kc - 1) / kc) + (if 0x10 ≤ op ∧ op ≤ 0x15 then 8 else 0)

/-- The live state after a start has copied its set. -/
def afterStart (s : State) (w : Option (Fin 14 × Src)) : Live :=
  let g := startSet s w
  { s.core.live with
    portM := (match w with
      | none => s.core.live.portM
      | some (_, a) => portMAfter s a)
    hs := g, ha := g, hf := #v[startFmt s g 0, startFmt s g 4] }

/-- A member of a rendezvous leaves it. -/
def leaveJoin (s : State) (op : Nat) : State :=
  if 0x10 ≤ op ∧ op ≤ 0x15 then { s with core := { s.core with joinAt := none } } else s

/-- The cooperative starts among the operations, and those that share B and A (spec/09 R242). -/
def sharesPanel (o : HOp) : Bool := decide (0x10 ≤ o.op ∧ o.op ≤ 0x15) && (hEff o.op o.img)[13].getLsbD 63
def sharesA (o : HOp) : Bool := sharesPanel o && (hEff o.op o.img)[13].getLsbD 62
def sharesB (o : HOp) : Bool := sharesPanel o && !(hEff o.op o.img)[13].getLsbD 62

/-- What the blocks `lo` to `hi` add to one result element: their sums in order (spec/09 R236). A shared A lies at SOFF (R242), and where B is
shared, its scales at their own wider offset (R243). -/
def elementSums (s : State) (o : HOp) (m n lo hi : Nat) : List FV :=
  let g := hEff o.op o.img
  let ty := hType o.op
  let r := s.hReaders o g
  let base := if sharesA o = true then hSOFF g else hA g
  ((List.range (hi - lo)).map (lo + ·)).map fun j =>
    hBlockSum ty (hAvals g ty o.fa base r m j) (hBvals g ty o.fb r n j) (hScaleA g r m j) (hScaleB g (sharesB o) r n j)

/-- The bank plane and the column of result column n: paired operations go on in bank B from column 128 on (spec/09 R237). -/
def resultPlace (g : Vector Word 14) (n : Nat) : Nat × Nat :=
  if hPair g = true ∧ 128 ≤ n then (256, n - 128) else (if (vget g 8).getLsbD 16 then 256 else 0, n)

/-- Nothing on its way could supply another value of a byte than the one at its home. -/
def AllHome (s : State) (o : HOp) : Prop :=
  s.hist = [] ∧ s.partial' = [] ∧ s.core.whb = [] ∧ s.core.rel = [] ∧ o.fwd = [] ∧ o.got = [] ∧ s.here < 1024 ∧ s.here % 128 < 72

end Sys2Proof.Claims

/-- `mset`, `mseti` and `mclr` write the shadow set as they issue (the rule has it at the bundle's end: the model's reading, log 44), RSV
fields staying zero; `mget` delivers a shadow or active register; `mlatch`
starts a copy of a tile of 8 KiB that lands within 24 issue cycles. -/
def Sys2Proof.Claims.HearthRegisters : Prop :=
  ∀ (s : State),
    (∀ (er : Fin 14) (a : Src), ∃ t, exec (.mset er a) s = .next t ∧ NoStore s t ∧
      t = { s with core := { s.core with live := { s.core.live with
        portM := portMAfter s a, hs := s.core.live.hs.set er (s.src .m a &&& hearthFields er) } } }) ∧
    (∀ (er : Fin 14) (v : BitVec 32), ∃ t, exec (.mseti er v) s = .next t ∧ NoStore s t ∧
      t = { s with core := { s.core with live := { s.core.live with
        hs := s.core.live.hs.set er (v.signExtend 64 &&& hearthFields er) } } }) ∧
    (∃ t, exec .mclr s = .next t ∧ NoStore s t ∧
      t = { s with core := { s.core with live := { s.core.live with hs := t.core.live.hs } } } ∧
      ∀ er : Fin 14, t.core.live.hs[er] = 0) ∧
    (∀ (d : XReg) (er : Fin 14) (act : Bool), ∃ t, exec (.mget d er act) s = .next t ∧
      Issues s t none s.core.live.sg 1
        [.x (physX s.core.live d) (if act then s.core.live.ha[er] else s.core.live.hs[er])]) ∧
    (∀ a : Src, ∃ t o, exec (.mlatch a) s = .next t ∧ NoStore s t ∧
      t = { s with core := { s.core with
        live := { s.core.live with portM := portMAfter s a }, hops := s.core.hops ++ [o], trk := t.core.trk } } ∧
      o.latch = some ((s.src .m a).toNat / 64 * 64 % 25165824) ∧ o.issued = s.core.cyc ∧ o.due = s.core.cyc + 24 ∧
      o.hseq = s.wseq ∧ o.acc = s.acc)

/-- An explicit start copies its shadow set (with its operand pair) into the active set, takes its formats and checks it: a failed
check raises MSHAPE with the detail; else its operation is in flight with the bound of the rules, and one with M = 0 or N = 0 that
shares no panel only copies its set. A cooperative start first
arrives at its rendezvous, where its bundle stays, and starts once the rendezvous has completed. Where several checks fail the first in the
table's order is reported (the model's choice, log 100); SOURCE is none of those of an A-shared `mjoin` (the model's reading, log 119). -/
def Obligations.HearthStarts : Prop :=
  ∀ (s : State) (i : Instr) (op : Nat) (w : Option (Fin 14 × Src)), hearthStart i = some (op, w) → s.core.iss.again = false →
    let join : Prop := 0x10 ≤ op ∧ op ≤ 0x15
    let g := startSet s w
    let fa := startFmt s g 0
    let fb := startFmt s g 4
    (∀ n, hCheck op g fa fb (s.here % 128 % 8) = some n → (join → s.core.joinAt = none) → s.CanTrap →
      ∃ t, exec i s = .next t ∧ TrapTaken s t 0x09 n s.core.iss.slot.num s.core.iss.pcb 0 s.core.ckpt) ∧
    (hCheck op g fa fb (s.here % 128 % 8) = none → (join → ∃ j, s.core.joinAt = some j ∧ j.go = true) →
      ∀ ps, ((leaveJoin s op).mSet op w).mPages op = .ok ps → hM g ≠ 0 → (op ≠ 0x18 → hN g ≠ 0) →
      ∃ t o, exec i s = .next t ∧ NoStore s t ∧
        t = { s with core := { (leaveJoin s op).core with
          live := afterStart s w, hops := s.core.hops ++ [o], trk := t.core.trk } } ∧
        o.op = op ∧ o.img = g ∧ o.fa = fa ∧ o.fb = fb ∧ o.latch = none ∧ o.pages = ps ∧ o.issued = s.core.cyc ∧
        o.due = s.core.cyc + startBound op (hM g) (if op = 0x18 then 128 else hN g) (if op = 0x18 then 32 else hK g) ∧
        o.banks = hBanks op (hEff op g) fa fb ∧ o.acc = s.acc ∧ o.hseq = s.wseq) ∧
    (hCheck op g fa fb (s.here % 128 % 8) = none → (join → ∃ j, s.core.joinAt = some j ∧ j.go = true) →
      ∀ ps, ((leaveJoin s op).mSet op w).mPages op = .ok ps → (hM g = 0 ∨ (op ≠ 0x18 ∧ hN g = 0)) →
      hShared op (hEff op g) = false →
      ∃ t, exec i s = .next t ∧ NoStore s t ∧
        t = { s with core := { (leaveJoin s op).core with live := afterStart s w } }) ∧
    (join → s.core.joinAt = none → hCheck op g fa fb (s.here % 128 % 8) = none →
      ∃ t j, exec i s = .next t ∧ NoStore s t ∧ t = { s with core := { s.core with joinAt := some j } } ∧
        j.op = op ∧ j.img = g ∧ j.fa = fa ∧ j.fb = fb ∧ j.tick = s.tick ∧ j.go = false)

/-- The oldest operation runs on. `mlatch` puts its tile, as it stands in the scratchpad, into the latch region of the B-store, and the
operations after it will read that. `mgo`, `mjoin` and `mgol`, dense or sparse, paired or not, add at least their next block sums, in order,
to the ember elements of their rows and columns, column 128 and on in bank B; the first under OVW replaces what stood there, and no other
ember row changes; with the last sums the operation has landed. A shared B panel stands in the B-store before the first sum, and the
operations after it will read that. How many sums one step adds is open (the model's choice, log 95). -/
def Obligations.HearthLanding : Prop :=
  ∀ (s : State) (o : HOp) (os : List HOp), s.core.hops = o :: os → o.acc.key = s.here →
    let u : State := { s with core := { s.core with hops := os } }
    let g := hEff o.op o.img
    (∀ off, o.latch = some off → o.blk = 0 → AllHome s o →
      ∃ t fl, exec .hearthLanding s = .next t ∧ NoStore s t ∧
        t.core.hops = os.map (fun h : HOp => { h with bfloor := fl :: h.bfloor }) ∧ fl = (0x1FE000, 8192, t.wseq) ∧
        t.core.live = s.core.live ∧
        t.core.ember = s.core.ember ∧ t.core.rows = s.core.rows ∧
        (∀ i, i < 8192 → bget t.core (0x1FE000 + i) =
          memGet s.mem (scratchAddr (s.here / 128) (s.here % 128 / 8) ((off + i) % 25165824))) ∧
        ∀ i, i < 0x1FE000 → bget t.core i = bget s.core i) ∧
    (o.latch = none → ((8 ≤ o.op ∧ o.op ≤ 13) ∨ (0x10 ≤ o.op ∧ o.op ≤ 0x15) ∨ o.op = 0x18) → hM g ≤ 256 →
      hN g ≤ (if hPair g = true then 256 else 128) → (hPair g = true → (vget g 8).getLsbD 16 = false) →
      let d := if o.blk = 0 then u.hPanel o else (u, o)
      let ty := hType o.op
      let ovw := hOvw g && o.blk == 0
      let nb := hK g / 16
      let row := fun m => (hf g 8 7 0 + m) % 256
      ∃ t hi got, exec .hearthLanding s = .next t ∧ NoStore s t ∧ o.blk < hi ∧
        t.core.hops = (if nb ≤ hi then d.1.core.hops else { d.2 with blk := hi, got := got } :: d.1.core.hops) ∧
        t.core.live = s.core.live ∧ t.core.bstore = d.1.core.bstore ∧ t.core.rows = s.core.rows ∧
        (sharesB o = false → d = (u, o)) ∧
        (∀ m n, m < hM g → n < hN g →
          let p := resultPlace g n
          let old := emberGet s.core (p.1 + row m)
          let new := emberGet t.core (p.1 + row m)
          laneOf new.v 80 p.2 =
            hAccum ty (elementSums d.1 d.2 m n o.blk (min hi nb)) (if ovw then 0 else laneOf old.v 80 p.2) % 2 ^ 80 ∧
          new.touch.getLsbD p.2 = (old.touch.getLsbD p.2 || ovw || decide (16 ≤ hK g)) ∧
          new.repl.getLsbD p.2 = (old.repl.getLsbD p.2 || ovw) ∧ new.form = some (hFloat ty)) ∧
        ∀ r, (∀ m n, m < hM g → n < hN g → r ≠ (resultPlace g n).1 + row m) → emberGet t.core r = emberGet s.core r) ∧
    (o.latch = none → sharesB o = true → hN g ≠ 0 → o.blk = 0 → AllHome s o →
      let rows := if hBT g = true then hN g else hK g
      let len := (hWidth (hType o.op) o.fb * (if hBT g = true then hK g else hN g) + 7) / 8
      hBOFF g + (64 * hPITCH g * (rows - 1) + len) ≤ 2097152 →
      ∃ t, exec .hearthLanding s = .next t ∧ NoStore s t ∧
        (∀ k i, k < rows → i < len → bget t.core (hBOFF g + 64 * hPITCH g * k + i) =
          memGet s.mem (scratchAddr (s.here / 128) (s.here % 128 / 8) ((hSOFF g + 64 * hPITCH g * k + i) % 25165824))) ∧
        (∀ a, (∀ k i, k < rows → i < len → a ≠ hBOFF g + 64 * hPITCH g * k + i) → bget t.core a = bget s.core a) ∧
        ∀ h ∈ t.core.hops, ∀ k, k < rows → len ≠ 0 → ∃ fl ∈ h.bfloor, fl = (hBOFF g + 64 * hPITCH g * k, len, t.wseq))

namespace Sys2Proof.Claims

/-! ## The C slots (spec/10) -/

/-- Bits of a copy register that are fields (spec/10 R252 to R254). -/
def copyFields (er : Fin 9) : Word :=
  let bits := fun (l : List (Nat × Nat)) => w64 ((l.map fun p => 2 ^ (p.1 + 1) - 2 ^ p.2).foldl (· + ·) 0)
  bits (match er.val with
    | 0 | 1 | 4 => [(63, 62), (47, 0)]
    | 2 => [(40, 16), (15, 0)]
    | 3 => [(63, 32), (31, 0)]
    | 5 => [(31, 0)]
    | 6 => [(63, 0)]
    | 7 => [(63, 56), (47, 45), (39, 32), (19, 16), (11, 9)]
    | _ => [(63, 0)])

/-- The C slot's own set of registers: C0 or C1. -/
def cUnit (s : State) : Fin 2 := if s.core.iss.slot = .c1 ∨ s.core.iss.slot = .v1 then 1 else 0

/-- The slot's port after an operation with this A operand. -/
def portCAfter (s : State) (a : Src) : Vector Word 2 :=
  if a = .ko then s.core.live.portC else s.core.live.portC.set (cUnit s) (s.src s.core.iss.slot a)

/-- A start: kind, token, operand pair, whole A operand (`cfill` and `bgo`), flag, threshold. -/
structure CopyStart where
  op : CopyOp
  tok : XReg
  w : Option (Fin 9 × Src) := none
  a : Option Src := none
  flag : Nat := 0
  thr : Nat := 0

def copyStart : Instr → Option CopyStart
  | .cgo t w => some { op := .go, tok := t, w := w }
  | .cgath t w => some { op := .gath, tok := t, w := w }
  | .cscat t w => some { op := .scat, tok := t, w := w }
  | .cfill t a => some { op := .fill, tok := t, a := some a }
  | .cbcast t w => some { op := .bcast, tok := t, w := w }
  | .cdx t w => some { op := .dx, tok := t, w := w }
  | .cpfd t w => some { op := .pfd, tok := t, w := w }
  | .carm t f n => some { op := .arm, tok := t, flag := f.val, thr := n.toNat }
  | .cmred t w => some { op := .mred, tok := t, w := w }
  | .ckvc t w => some { op := .kvc, tok := t, w := w }
  | .cnet t w => some { op := .net, tok := t, w := w }
  | .bgo t a => some { op := .bgo, tok := t, a := some a }
  | _ => none

/-- The shadow set that a start copies: spec/10 R255. -/
def copySet (s : State) (r : CopyStart) : Vector Word 9 :=
  match r.w with
  | none => s.core.live.cs[cUnit s]
  | some (er, a) => s.core.live.cs[cUnit s].set er (s.src s.core.iss.slot a &&& copyFields er)

/-- Starts that wait in an arm entry for their release: spec/10 R260. -/
def armEntry (id : Nat) : CopyOp → List WEntry
  | .arm => [.carm id]
  | .net => [.cnet id]
  | .bgo => [.bgo id]
  | _ => []

/-- The entries a start places: its own where it is withheld, then its landing post's. -/
def startEntries (s : State) (r : CopyStart) : List WEntry :=
  armEntry s.core.nid r.op ++ (if (copySet s r)[5].getLsbD 31 then [.land s.core.nid] else [])

/-- The live state after a start has copied its set. -/
def afterCopyStart (s : State) (r : CopyStart) : Live :=
  { s.core.live with
    portC := (match r.w, r.a with
      | some (_, a), _ => portCAfter s a
      | none, some a => portCAfter s a
      | none, none => s.core.live.portC)
    cs := s.core.live.cs.set (cUnit s) (copySet s r)
    ca := s.core.live.ca.set (cUnit s) (copySet s r) }

/-! ## Copies end -/

/-- The status word of a token: spec/10 R256. -/
def tokenWord (st : Int) : Word := i64 st

/-- A copy of the core in focus whose token stands in its live state: the core runs the task that started it, and no other copy
names the token. -/
def OwnsCopy (s : State) (x : Copy) (r : Fin 56) : Prop :=
  x ∈ s.core.copies ∧ x.tok = some r.val ∧ x.disc = false ∧ s.onSaffron = false ∧ s.core.phase = .run ∧
  s.core.owner = x.task ∧ x.sinceCk = true ∧ (∀ y ∈ s.core.copies, y.id = x.id → y = x) ∧
  (∀ y ∈ s.core.copies, y ≠ x → y.tok ≠ x.tok ∧ y.slot ≠ x.slot) ∧
  (∀ k ∈ s.keys, k ≠ s.here → ∀ y ∈ (s.coreOf k).copies, y.task = x.task → y.tok ≠ x.tok) ∧ s.core.live.ftok = []

end Sys2Proof.Claims

/-- `cset` and `cseti` write the slot's shadow set as they issue, in slot order (the rule has it at the bundle's end: the model's reading,
log 44), RSV fields staying zero; `cget` delivers a shadow or active register; `cdis`
enters the withholding buffer, and `cpost` does with the post it will make. A `cpost` that names no core raises STF. -/
def Sys2Proof.Claims.CopyRegisters : Prop :=
  ∀ (s : State),
    (∀ (er : Fin 9) (a : Src), ∃ t, exec (.cset er a) s = .next t ∧ NoStore s t ∧
      t = { s with core := { s.core with live := { s.core.live with
        portC := portCAfter s a
        cs := s.core.live.cs.set (cUnit s)
          (s.core.live.cs[cUnit s].set er (s.src s.core.iss.slot a &&& copyFields er)) } } }) ∧
    (∀ (er : Fin 9) (v : BitVec 32), ∃ t, exec (.cseti er v) s = .next t ∧ NoStore s t ∧
      t = { s with core := { s.core with live := { s.core.live with
        cs := s.core.live.cs.set (cUnit s) (s.core.live.cs[cUnit s].set er (v.signExtend 64 &&& copyFields er)) } } }) ∧
    (∀ (d : XReg) (er : Fin 9) (act : Bool), ∃ t, exec (.cget d er act) s = .next t ∧
      Issues s t none s.core.live.sg 1
        [.x (physX s.core.live d) (if act then s.core.live.ca[cUnit s][er] else s.core.live.cs[cUnit s][er])]) ∧
    (s.core.whb.length < 256 →
      (∀ x : XReg, ∃ t, exec (.cdis x) s = .next t ∧ OnlyWithheld s t ∧ NoStore s t ∧
        t.core.whb = s.core.whb ++ [.cdis (cUnit s).val (physX s.core.live x).val]) ∧
      (∀ (x : Src) (f : Fin 32) (n : BitVec 16) (set : Bool),
        let w := (s.src s.core.iss.slot x).toNat
        w < 1024 → w % 128 ≤ 80 →
        ∃ t p, exec (.cpost x f n set) s = .next t ∧ NoStore s t ∧
          t = { s with core := { s.core with
            live := { s.core.live with portC := portCAfter s x }
            cposts := s.core.cposts ++ [p], nid := s.core.nid + 1, whb := s.core.whb ++ [.cpost s.core.nid] } } ∧
          p.id = s.core.nid ∧ p.slot = (cUnit s).val ∧ p.post = { key := w, flag := f.val, amt := n.toNat, set := set } ∧
          p.released = false)) ∧
    (∀ (x : Src) (f : Fin 32) (n : BitVec 16) (set : Bool),
      let w := s.src s.core.iss.slot x
      s.CanTrap → (1024 ≤ w.toNat ∨ 80 < w.toNat % 128) →
      ∃ t, exec (.cpost x f n set) s = .next t ∧ TrapTaken s t 0x06 5 s.core.iss.slot.num s.core.iss.pcb w s.core.ckpt)

/-- An explicit start of a copy engine copies its shadow set (with its operand pair) into the active set and checks it: a failed
check raises ILLOP, a full buffer STF; else its copy is recorded with that image, running, or withheld with its entry, and its token is bound to
the physical register; its landing post is one more entry. -/
def Obligations.CopyStarts : Prop :=
  ∀ (s : State) (i : Instr) (r : CopyStart), copyStart i = some r → s.core.iss.again = false →
    (cRefused r.op r.tok.val (copySet s r) = true → s.CanTrap →
      ∃ t, exec i s = .next t ∧ TrapTaken s t 0x02 0 s.core.iss.slot.num s.core.iss.pcb 0 s.core.ckpt) ∧
    (cRefused r.op r.tok.val (copySet s r) = false → 256 < s.core.whb.length + (startEntries s r).length → s.CanTrap →
      ∃ t, exec i s = .next t ∧ TrapTaken s t 0x06 6 s.core.iss.slot.num s.core.iss.pcb 0 s.core.ckpt) ∧
    (cRefused r.op r.tok.val (copySet s r) = false → s.core.whb.length + (startEntries s r).length ≤ 256 →
      ∃ t x, exec i s = .next t ∧ NoStore s t ∧
        t = { s with
          nextId := s.nextId + 1
          core := { s.core with
            live := afterCopyStart s r, copies := s.core.copies ++ [x], nid := s.core.nid + 1
            whb := s.core.whb ++ startEntries s r, trk := t.core.trk } } ∧
        x.id = s.core.nid ∧ x.ord = s.nextId ∧ x.slot = (cUnit s).val ∧ x.op = r.op ∧ x.img = copySet s r ∧
        x.state = (if armEntry 0 r.op = [] then .running else .withheld) ∧
        x.tok = (if r.tok.val = 0 then none else some (physX s.core.live r.tok).val) ∧
        x.pat = (match r.a with
          | some a => s.src s.core.iss.slot a
          | none => 0) ∧
        x.flag = r.flag ∧ x.thr = r.thr ∧ x.banks = cBanks r.op (copySet s r) ∧ x.acc = s.acc ∧ x.hseq = s.wseq ∧
        x.early = s.cEarly r.op (copySet s r) ∧ x.land = (if (copySet s r)[5].getLsbD 31 then some false else none))

/-- The register instructions of the Hearth and of the copy engines. -/
def Obligations.EngineRegisters : Prop := HearthRegisters ∧ CopyRegisters

namespace Sys2Proof.Claims

/-- A copy of one row within the cluster scratchpad, whose banks are declared, that nothing in flight meets: source and
destination offset, length. -/
structure PlainCopy (s : State) (x : Copy) (src dst n : Nat) : Prop where
  op    : x.op = .go
  run   : x.state = .running
  early : x.early = none
  rest  : x.rest = none ∧ x.at0 = none ∧ x.junk = false
  row0  : x.row0 = 0
  rows  : cRows x.img = 1
  kinds : cKind x.img 0 = 0 ∧ cKind x.img 1 = 0
  bases : cBase x.img 0 = src ∧ cBase x.img 1 = dst
  len   : cLen x.img = n ∧ 0 < n
  fits  : src + n ≤ 25165824 ∧ dst + n ≤ 25165824
  banks : x.img[6] = BitVec.allOnes 64
  here  : x.acc.key = s.here ∧ s.here < 1024 ∧ s.here % 128 < 72
  quiet : s.hist = [] ∧ s.core.whb = [] ∧ s.core.rel = [] ∧ x.fwd = []

/-- Physical address of an offset of the scratchpad of the core in focus (spec/03 R89). -/
def ownScratch (s : State) (off : Nat) : Nat :=
  0xF * 2 ^ 48 + s.here / 128 * 2 ^ 45 + 127 * 2 ^ 38 + s.here % 128 / 8 * 0x2000000 + off

/-! Memory as a function of the physical address, which a copy's rows change in turn. -/

/-- Bytes written at places, a later one over an earlier one. -/
def placed (m : Nat → Byte) (ps : List Nat) (bs : List Byte) : Nat → Byte :=
  (ps.zip bs).foldl (fun m p => fun a => if a = p.1 then p.2 else m a) m

/-- n bytes from an offset of the own scratchpad on; offsets wrap (spec/10 R252). -/
def padPlaces (s : State) (b : Int) (n : Nat) : List Nat :=
  (List.range n).map fun i : Nat => ownScratch s ((b + i) % 25165824).toNat
def padBytes (s : State) (m : Nat → Byte) (b : Int) (n : Nat) : List Byte := (padPlaces s b n).map m
def padWrite (s : State) (m : Nat → Byte) (b : Int) (bs : List Byte) : Nat → Byte := placed m (padPlaces s b bs.length) bs

/-- Source row i moved to destination row j. -/
def padMove (s : State) (g : Vector Word 9) (m : Nat → Byte) (i j : Nat) : Nat → Byte :=
  padWrite s m (cBase g 1 + j * cDStr g) (padBytes s m (cBase g 0 + i * cSStr g) (cLen g))

/-- Entry j of the index list. -/
def padIndex (s : State) (g : Vector Word 9) (m : Nat → Byte) (j : Nat) : Nat := leNat (padBytes s m (cIdxBase g + 4 * j) 4)

/-- A value of w bits at a bit position: whole bytes, or a nibble of one byte (spec/10 R266). -/
def padBits (s : State) (m : Nat → Byte) (pos : Int) (w v : Nat) : Nat → Byte :=
  if 8 ≤ w then padWrite s m (pos / 8) (leBytes (w / 8) v)
  else
    let old := leNat (padBytes s m (pos / 8) 1)
    padWrite s m (pos / 8) [BitVec.ofNat 8 (if pos % 8 = 0 then old / 16 * 16 + v else v * 16 + old % 16)]

/-- Dense element k of row r of a 2:4 sparse source (spec/10 R266): each group of four holds two values, whose positions are the halves
of its metadata nibble; where both name one position the later value stands. A row's metadata follows the one before it at once (the
model's choice, log 92). -/
def padDense (s : State) (g : Vector Word 9) (m : Nat → Byte) (r k : Nat) : Nat :=
  let w := cEW g
  let row := leNat (padBytes s m (cBase g 0 + r * cSStr g) (cLen g))
  let value := fun i => row / 2 ^ (w * i) % 2 ^ w
  let nib := r * (4 * cLen g / w) + k / 4
  let at' := leNat (padBytes s m (cIdxBase g + (nib / 2 : Nat)) 1) / 16 ^ (nib % 2) % 16
  if at' / 4 = k % 4 then value (2 * (k / 4) + 1) else if at' % 4 = k % 4 then value (2 * (k / 4)) else 0

/-- One row, index or entry of a copy within the scratchpad, and the bytes that its token counts: spec/10 R263, R265, R266, R276. -/
def padRow (s : State) (x : Copy) (m : Nat → Byte) (r : Nat) : (Nat → Byte) × Nat :=
  let g := x.img
  let len := cLen g
  match x.op with
  | .go | .pfd | .arm => (padMove s g m r r, len)
  | .fill => (padWrite s m (cBase g 1 + r * cDStr g) ((List.range len).map fun t => x.pat.extractLsb' (8 * (t % 8)) 8), len)
  | .gath => if padIndex s g m r = 0xFFFFFFFF then (m, 0) else (padMove s g m (padIndex s g m r) r, len)
  | .scat => if padIndex s g m r = 0xFFFFFFFF then (m, 0) else (padMove s g m r (padIndex s g m r), len)
  | .kvc =>
    let p := if padIndex s g m r = 0xFFFFFFFF then (m, 0) else (padMove s g m (padIndex s g m r) r, len)
    (padWrite s p.1 (cIdxBase g - 8) (leBytes 8 (r + 1)), p.2)
  | .dx =>
    let w := cEW g
    let k := 16 * len / w
    let pos := fun j : Nat => if cfld g 7 9 9 = 1 then 8 * cBase g 1 + 8 * cDStr g * j + w * r else 8 * cBase g 1 + 8 * cDStr g * r + w * j
    ((List.range k).foldl (fun m' j => padBits s m' (pos j) w (padDense s g m r j)) m, k * w / 8)
  | _ => (m, 0)

/-- Rows in increasing order, with the count. -/
def inRows (f : (Nat → Byte) → Nat → (Nat → Byte) × Nat) (m : Nat → Byte) (rs : List Nat) : (Nat → Byte) × Nat :=
  rs.foldl (fun p r => ((f p.1 r).1, p.2 + (f p.1 r).2)) (m, 0)

/-- A running copy of which nothing has been seen, and that nothing in flight meets. -/
structure Unseen (s : State) (x : Copy) : Prop where
  run   : x.state = .running ∧ x.early = none ∧ x.row0 = 0
  rest  : x.rest = none ∧ x.at0 = none ∧ x.junk = false ∧ x.cut = false
  well  : cRefused x.op 1 x.img = false
  banks : x.img[6] = BitVec.allOnes 64
  here  : x.acc.key = s.here ∧ s.here < 1024 ∧ s.here % 128 < 72
  quiet : s.hist = [] ∧ s.core.whb = [] ∧ s.core.rel = [] ∧ x.fwd = []

/-- The same within the scratchpad. -/
def PadCopy (s : State) (x : Copy) : Prop :=
  Unseen s x ∧ x.op ∈ [.go, .pfd, .arm, .fill, .gath, .scat, .dx, .kvc] ∧ (x.op.usesSrc = true → cKind x.img 0 = 0) ∧
  cKind x.img 1 = 0 ∧ (x.op.usesIdx = true → cKind x.img 4 = 0)

/-- The rows it works: `ckvc` goes on at its progress word. -/
def padRows (s : State) (x : Copy) : List Nat :=
  let p := if x.op = .kvc then leNat (padBytes s (memGet s.mem) (cIdxBase x.img - 8) 8) else 0
  List.range' p (cRows x.img - p)

/-- Row r of one side of a copy through the hub lies on die d at places in memory proper, which may be accessed. -/
def OnDie (s : State) (x : Copy) (er d r n : Nat) (k : AKind) (ps : List Nat) : Prop :=
  s.cDestOn x d (cBase x.img er + r * (if er = 0 then cSStr x.img else cDStr x.img)) k n 0 = .ok ps ∧
  ∀ a ∈ ps, memLoc (locate a) = true

/-- One step of the hub's combine on two elements: spec/10 R274. -/
def hubStep (rty rop a b : Nat) : Nat :=
  if rty = 3 then
    let x := toSigned 32 a
    let y := toSigned 32 b
    if rop = 0 then (a + b) % 2 ^ 32 else if rop = 1 then (if x < y then b else a) else (if y < x then b else a)
  else if rop = 0 then (fmtF32.add { mode := .rne, sat := .ovfi } (fmtF32.val a) (fmtF32.val b)).1
  else (fmtF32.minmax (rop == 1) a b).1

/-- Element e of the rows of the dies, in increasing die number: bf16 widened, combined, and rounded to bf16 where RTY is 0. -/
def hubElement (rty rop : Nat) (rows : List (List Byte)) (e : Nat) : List Byte :=
  let w := if rty ≤ 1 then 2 else 4
  let canon := fun v => if (fmtF32.val v).isNan then fmtF32.qnan else v
  let elem := fun row : List Byte =>
    let v := leNat ((row.drop (w * e)).take w)
    if rty = 3 then v else canon (if rty ≤ 1 then v * 2 ^ 16 else v)
  match rows.map elem with
  | [] => []
  | v :: vs =>
    let acc := vs.foldl (hubStep rty rop) v
    if rty = 0 then leBytes 2 (fmtBf16.roundFV { mode := .rne, sat := .ovfi } (fmtF32.val acc)).1 else leBytes 4 acc

/-- A post that reaches its flag: no other flag changes. -/
def Posted (s t : State) (p : Post) : Prop :=
  (t.coreOf p.key).flag p.flag = BitVec.ofNat 16 (posted p ((s.coreOf p.key).flag p.flag).toNat) ∧
  ∀ k f, ¬(k = p.key ∧ f = p.flag) → (t.coreOf k).flag f = (s.coreOf k).flag f

/-- Every record of a copy says that it has ended and its token is written. -/
def Ended (t : State) (id : Nat) : Prop := ∀ y ∈ t.core.copies, y.id = id → y.state = .ended ∧ y.tokDone = true

end Sys2Proof.Claims

/-- A running copy within the scratchpad ends with the bytes of all its rows, and no other byte changes; its token counts those that its
rule counts. A broadcast leaves each row on every die of DMASK; a reduction leaves there the elements combined in increasing die
number. -/
def Sys2Proof.Claims.CopiesMove : Prop :=
  ∀ (s : State) (x : Copy) (r : Fin 56) (reply : Remote), s.copyOf x.id = some x → OwnsCopy s x r → s.Inv →
    let ends := fun w : (Nat → Byte) × Nat =>
      ∃ t, exec (.copyCompletion x.id reply) s = .next t ∧ Ended t x.id ∧
        t.core.live.x = s.core.live.x.set r (tokenWord w.2) ∧ ∀ a, memGet t.mem a = w.1 a
    let dies := (List.range 8).filter fun d => (natBits x.img[7].toNat 63 56).testBit d
    let len := cLen x.img
    let rows := List.range (cRows x.img)
    (PadCopy s x → ends (inRows (padRow s x) (memGet s.mem) (padRows s x))) ∧
    (∀ dst : Nat → Nat → List Nat, Unseen s x → x.op = .bcast → cKind x.img 0 = 0 →
      (∀ j ∈ rows, ∀ d ∈ dies, OnDie s x 1 d j len .wr (dst j d)) →
      ends (inRows (fun m j =>
        let bs := padBytes s m (cBase x.img 0 + j * cSStr x.img) len
        (dies.foldl (fun m d => placed m (dst j d) bs) m, len)) (memGet s.mem) rows)) ∧
    (∀ src dst : Nat → Nat → List Nat, Unseen s x → x.op = .mred →
      let rty := natBits x.img[7].toNat 17 16
      let rop := natBits x.img[7].toNat 19 18
      let count := len / (if rty ≤ 1 then 2 else 4)
      let out := count * (if rty = 0 then 2 else 4)
      (∀ j ∈ rows, ∀ d ∈ dies, OnDie s x 0 d j len .rd (src j d) ∧ OnDie s x 1 d j out .wr (dst j d)) →
      ends (inRows (fun m j =>
        let bs := (List.range count).flatMap (hubElement rty rop (dies.map fun d => (src j d).map m))
        (dies.foldl (fun m d => placed m (dst j d) bs) m, out)) (memGet s.mem) rows))

/-- A running copy ends and its token takes its status. One row within the scratchpad moves its bytes, as they stood before, and
no other byte; its status is their number. An empty copy moves nothing and reads 0; a bank violation found at issue moves
nothing, reads −5 and is logged. -/
def Sys2Proof.Claims.CopiesComplete : Prop :=
  ∀ (s : State) (x : Copy) (r : Fin 56) (reply : Remote), s.copyOf x.id = some x → OwnsCopy s x r →
    (∀ src dst n, PlainCopy s x src dst n → s.Inv →
      ∃ t, exec (.copyCompletion x.id reply) s = .next t ∧ Ended t x.id ∧
        t.core.live.x = s.core.live.x.set r (tokenWord n) ∧ StoresAt (ownScratch s dst) n s t ∧
        ∀ i, i < n → memGet t.mem (ownScratch s dst + i) = memGet s.mem (ownScratch s src + i)) ∧
    (∀ st, x.state = .running → x.op ≠ .mred → x.op ≠ .net → x.op ≠ .bgo → x.early = some st → (st = 0 ∨ st = -5) →
      x.rest = none →
      ∃ t, exec (.copyCompletion x.id reply) s = .next t ∧ Ended t x.id ∧ NoStore s t ∧
        t.core.live.x = s.core.live.x.set r (tokenWord st) ∧
        (st = -5 → (t.dget (s.here / 128) (0x8000 + 0x100 * (s.here % 128) + 0x80 * x.slot + 0x48)).toNat / 2 ^ 32 =
          2 ^ 32 - 5))

/-- A send ends with its bytes acknowledged, with −3 where the peer refuses it, or with −4 where the transport gives up or no Chimney may
take it; a landing post and a
`cpost` that are due reach their flag, and no other flag changes; an armed copy starts as its flag meets the threshold, and one that had to wait for
its banks once they are free, the earlier met first. -/
def Sys2Proof.Claims.CopyEvents : Prop :=
  ∀ (s : State),
    (∀ (x : Copy) (r : Fin 56) (how : CnetEnd), s.copyOf x.id = some x → OwnsCopy s x r → x.op = .net → x.state = .running →
      x.early = none → s.cnetRows x (cRows x.img) 0 = .ok () →
      ∃ t, exec (.cnetCompletion x.id how) s = .next t ∧ Ended t x.id ∧ NoStore s t ∧
        t.core.live.x = s.core.live.x.set r (tokenWord (if s.cnetWays x = [] ∨ how = .gaveUp then -4
          else if how = .refused then -3 else (cRows x.img * cLen x.img : Nat)))) ∧
    (∀ (x : Copy), s.copyOf x.id = some x → x.state = .ended → x.tokDone = true → x.land = some true →
      x.far = false → s.core.rel = [] → s.engPostRefused x.acc (landPost x.img) = none →
      ∃ t, exec (.landingPostDelivery x.id) s = .next t ∧ NoStore s t ∧ Posted s t (landPost x.img) ∧
        (∀ y ∈ t.core.copies, y.id = x.id → y.land = none) ∧ t.core.live = s.core.live) ∧
    (∀ (p : CPost), s.core.cposts.find? (fun q => q.id == p.id) = some p → p.released = true →
      (∀ i ∈ p.after, ∀ y ∈ s.core.copies, y.id = i → y.tokDone = true) → s.engPostRefused p.acc p.post = none →
      s.core.rel = [] → p.post.flag < 32 →
      ∃ t, exec (.cpostDelivery p.id) s = .next t ∧ NoStore s t ∧ Posted s t p.post ∧
        (∀ q ∈ t.core.cposts, q.id ≠ p.id) ∧ t.core.live = s.core.live) ∧
    (∀ (x : Copy), s.armNext = some x → x.op = .arm →
      ∃ t, exec (.armedCopyFire x.id) s = .next t ∧ NoStore s t ∧
        t = { s with nextId := s.nextId + 1, core := { s.core with copies := t.core.copies } } ∧
        (∃ y ∈ t.core.copies, y.id = x.id ∧ y.state = .running ∧ y.img = x.img ∧ y.hseq = s.wseq ∧ y.ord = s.nextId) ∧
        (∀ y ∈ s.core.copies, y.id ≠ x.id → y ∈ t.core.copies)) ∧
    (∀ x y : Copy, s.armNext = some x → y ∈ s.core.copies → s.armFree s.here y = true →
      x.hitAt < y.hitAt ∨ (x.hitAt = y.hitAt ∧ x.id ≤ y.id)) ∧
    (∀ (key f : Nat) (v : BitVec 16) (x : Copy), (s.coreOf key).copies = [x] → x.op = .arm → x.met f v = true →
      s.bankHeld key &&& x.banks = 0 →
      ∃ y, ((s.setFlag key f v).coreOf key).copies = [y] ∧ y.id = x.id ∧ y.state = .running ∧ y.img = x.img ∧ y.ord = s.nextId)

/-- Copies end with their bytes, status and token, and what follows an end comes about. -/
def Obligations.CopiesEnd : Prop := CopiesMove ∧ CopiesComplete ∧ CopyEvents

namespace Sys2Proof.Claims

/-! ## Results land (spec/04 R106, spec/02 R63, R64) -/

/-- One write of a landing operation on the scalar state: x0 and p0 take none, flags are set and never cleared. -/
def landLive (l : Live) : LWrite → Live
  | .x r v => if r.val = 0 then l else { l with x := l.x.set r v, ftok := l.ftok.filter (·.reg != r.val) }
  | .p r v => if r.val = 0 then l else
      { l with p := (l.p &&& ~~~(1#16 <<< r.val)) ||| (if v then 1#16 <<< r.val else 0) }
  | .sq v => { l with sq := v }
  | .lc n v => { l with lc := l.lc.set n v }
  | .flags f => { l with fst := l.fst ||| f.setWidth 16 }
  | .row .. => l

/-- One write on a plane row: only the bits it covers change. -/
def landRow (n : Nat) (r : Row) : LWrite → Row
  | .row q _ en v => if q.val = n then (r &&& ~~~en) ||| (v &&& en) else r
  | _ => r

/-- Flags of a write that an enable turns into a trap. -/
def enabledFlags (s : State) : LWrite → BitVec 8
  | .flags f => f &&& s.core.live.fst.extractLsb' 8 8
  | _ => 0

/-- How many operations are still to land. -/
def toLand (s : State) : Nat := (s.core.land.filter fun e => !e.landed).length

/-! ## Saves (spec/20 R393, R395 to R397) -/

/-- Every byte of memory outside these addresses reads as before. -/
def OnlyAt (ps : List Nat) (s t : State) : Prop := ∀ a, a ∉ ps → memGet t.mem a = memGet s.mem a

/-- The task in focus goes back to its last checkpoint and is being saved: why, where to, what it waits for. Memory changes only
in its save region. -/
structure Saving (s t : State) (k : Task) (ps : List Nat) (why goal : Nat) (w : TWait) : Prop where
  phase : t.core.phase = .saving
  why   : t.core.saveWhy = why ∧ t.core.saveTo = goal
  state : t.core.live = s.core.dup.refetch
  pc    : t.core.pc = s.core.ckpt
  whb   : t.core.whb = []
  task  : ∀ u ∈ t.tasks, u.id = k.id → u.wait = w ∧ (goal ≠ 2 → u.state = .saved) ∧
    ∃ h, u.held = some h ∧ h.pc = s.core.ckpt ∧ h.once = s.core.once
  bytes : OnlyAt ps s t

/-- A save of the task in focus can be made: it stands, and its save region, in memory proper, takes every write. -/
def CanSave (s : State) (k : Task) (ps : List Nat) : Prop :=
  let a : Acc := { s.rollback.acc with priv := true }
  s.Inv ∧ s.NoReplay ∧ s.rollback.curTask = some k ∧
  s.rollback.probe a k.spill (spillSize s.rollback.core.livemask) = none ∧
  s.rollback.vaddrs a .wr .copy k.spill (2 ^ 35) s.rollback.spillImage.length 0 = .ok ps ∧
  ∀ p ∈ ps, memLoc (locate p) = true

end Sys2Proof.Claims

/-- An operation in flight lands: every write of it is made, flags of FST are set, and nothing else changes. A flag whose enable is
set makes a trap pending, QZD or FPX. -/
def Obligations.ResultsLand : Prop :=
  ∀ (s : State) (i : Nat) (e : Landing), s.core.land[i]? = some e → e.landed = false →
    (∀ g ∈ s.core.land, g.landed = true → g.meets e = false) →
    ((∀ w ∈ e.ws, enabledFlags s w = 0) →
      ∃ t, exec (.exposedResultLanding i) s = .next t ∧ NoStore s t ∧ t.core.live = e.ws.foldl landLive s.core.live ∧
        (∀ n, rowGet t.core n = e.ws.foldl (landRow n) (rowGet s.core n)) ∧ toLand t + 1 = toLand s ∧
        t = { s with core := { s.core with live := t.core.live, rows := t.core.rows, rowOld := t.core.rowOld, land := t.core.land } }) ∧
    (∀ ws f, e.ws = ws ++ [.flags f] → (∀ w ∈ ws, enabledFlags s w = 0) → enabledFlags s (.flags f) ≠ 0 →
      s.core.pend = none →
      ∃ t p, exec (.exposedResultLanding i) s = .next t ∧ NoStore s t ∧ t.core.live = e.ws.foldl landLive s.core.live ∧
        t.core.pend = some p ∧ p.cause = (if enabledFlags s (.flags f) &&& fQZD = 0 then 0x0D else 0x0E) ∧
        p.detail = f.setWidth 32 ∧ p.pcb = e.pcb ∧ p.slot = e.slot.num ∧ p.seq = e.seq)

/-- A pending trap is taken when nothing earlier is in flight: its record, its vector and the state of the last checkpoint. A
machine check of a running core is one at once, and sends vector 9; one whose structure is the duplicate set leaves that set free, and one whose
structure holds memory leaves the eight bytes around the address free (the model's choice, log 106). -/
def Obligations.PendingTrapsAreTaken : Prop :=
  ∀ (s : State),
    (∀ p, s.core.pend = some p → State.CanTrap { s with core := { s.core with pend := none } } → p.once = none →
      p.held = false → p.rdiv = false → p.slot < 16 →
      ∃ t, exec .trapEntry s = .next t ∧
        TrapTaken s t p.cause p.detail.toNat p.slot p.pcb p.addr (p.resume.getD s.core.ckpt)) ∧
    (∀ (str : Nat) (addr : Word), s.CanTrap →
      let a := addr.toNat % 2 ^ 52 / 8 * 8
      let harms : Prop := (str % 16 ≤ 4 ∨ str % 16 = 7 ∨ str % 16 = 8) ∧ holdsData (locate a) = true
      ∃ t, exec (.machineCheck str addr) s = .next t ∧ t.msix = s.msix ++ [9] ∧ t.core.phase = .handler ∧
        t.core.pc = s.trapEntry ∧ t.core.taddr = addr ∧ t.core.tcause = BitVec.ofNat 64 (str % 16 * 2 ^ 32 + 15 * 2 ^ 20 + 0x1F) ∧
        (harms → s.Inv → memLoc (locate a) = true → StoresAt a 8 s t) ∧
        (¬harms → str % 16 ≠ 5 →
          TrapTaken s t 0x1F (str % 16) 15 (if s.core.iss.live then s.core.iss.pcb else s.core.pc) addr s.core.ckpt))

/-- Going back to the last checkpoint with no handler: a soft error in speculative state counts in SECNT and runs on, the fourth to
one checkpoint is a machine check; a core past PBOUND with a cross-context request, and a stall that outlasts an agreement's
threshold, roll back and save their task. A fill makes its entry's copy of the target. -/
def Obligations.RollbacksAndFills : Prop :=
  ∀ (s : State),
    (∀ str, s.core.phase = .run → s.onSaffron = false → s.NoReplay → s.core.soft < 3 → (str % 16 = 8 → s.core.hops = []) →
      ∃ t, exec (.softErrorRollback str) s = .next t ∧ NoStore s t ∧ t.core.live = s.core.dup.refetch ∧
        t.core.pc = s.core.ckpt ∧ t.core.phase = .run ∧ t.core.whb = [] ∧ t.core.ember = [] ∧ t.core.outst = [] ∧
        t.core.soft = s.core.soft + 1 ∧
        (let c := s.dget (keyDie s.here) offSECNT
        (t.dget (keyDie s.here) offSECNT).toNat / 2 ^ 32 = min (2 ^ 32 - 1) (c.toNat / 2 ^ 32 + 1))) ∧
    (∀ str, s.CanTrap → 3 ≤ s.core.soft → str % 16 ≠ 5 →
      ∃ t a, exec (.softErrorRollback str) s = .next t ∧ t.msix = s.msix ++ [9] ∧
        TrapTaken s t 0x1F (str % 16) 15 (if s.core.iss.live then s.core.iss.pcb else s.core.pc) a s.core.ckpt) ∧
    (∀ k ps, s.pastBound = true → CanSave s k ps →
      ∃ t, exec .forcedRollback s = .next t ∧ Saving s t k ps 3 0 .none) ∧
    (∀ k ps w, s.yieldDue = some w → CanSave s k ps →
      ∃ t, exec .yieldThresholdExpiry s = .next t ∧ Saving s t k ps 3 2 (.agree w.g w.m w.seq)) ∧
    (∀ (n : Fin 8), s.core.live.tb[n].filling = true →
      ∃ t, exec (.targetFillCompletion n.val) s = .next t ∧ NoStore s t ∧
        t = { s with core := { s.core with live := { s.core.live with
          tb := s.core.live.tb.set n { s.core.live.tb[n] with filling := false, copy := true } } } })

namespace Sys2Proof.Claims

/-! ## The scheduler (spec/19) -/

/-- The scalar state of a task at its first dispatch: spec/03 R90. -/
structure Fresh (l : Live) (args : Word) : Prop where
  x    : ∀ r : Fin 56, l.x[r] = if r.val = 2 then args else 0
  last : l.sq = 0 ∧ l.lq = 0 ∧ l.gq = 0
  pred : ∀ k, 1 ≤ k → l.p.getLsbD k = false
  lc   : ∀ k : Fin 4, l.lc[k] = 0
  turn : l.stage = false ∧ l.xwo = 0 ∧ l.pwo = 0
  fst  : l.fst = 0
  fm   : l.fm = #v[0x00013214#32, 0x00072418#32, 0x000F1518#32, 0x00000014#32, 0, 0, 0, 0]
  sg   : ∀ k : Fin 16, l.sg[k] = 0x9E3779B97F4A7C15 + w64 k.val
  tb   : ∀ k : Fin 8, l.tb[k].valid = false
  port : l.portS = 0 ∧ l.portL = 0 ∧ l.portM = 0 ∧ (∀ k : Fin 2, l.portV[k] = 0 ∧ l.portC[k] = 0)
  eng  : (∀ k : Fin 14, l.hs[k] = 0 ∧ l.ha[k] = 0) ∧ ∀ (u : Fin 2) (k : Fin 9), l.cs[u][k] = 0 ∧ l.ca[u][k] = 0

/-- TCW at a dispatch: spec/18 R343. -/
def dispatchTcw (ctx part rm : Nat) : Word := w64 (ctx * 2 ^ 48 + part * 2 ^ 32 + rm * 2 + if ctx = 0 then 1 else 0)

/-- Task k runs on the core in focus under its context's words; nothing of an earlier task is left there. -/
structure OnCore (s t : State) (k : Task) : Prop where
  run   : t.core.phase = .run ∧ t.core.task = some k.id
  point : t.core.dup = t.core.live ∧ t.core.ckpt = t.core.pc
  ember : t.core.ember = []
  tcw   : t.core.tcw = dispatchTcw (descCtx k.desc) (natBits (s.ctxCfg (keyDie s.here) (descCtx k.desc)) 34 32)
            (natBits (s.ctxCfg (keyDie s.here) (descCtx k.desc)) 1 1)
  ctx   : t.core.ptroot = s.ctxRoot (keyDie s.here) (descCtx k.desc) ∧
            t.core.accid = natBits (s.ctxCfg (keyDie s.here) (descCtx k.desc)) 15 8 ∧ t.core.acnt = 0
  prio  : t.core.prio = s.effPrio k ∧ assocGet 63 t.rp (keyDie s.here * 8 + s.effPrio k) = k.queue
  tasks : ∀ u ∈ t.tasks, u.id = k.id → u.state = .running

/-- The core in focus is free and picks task k. -/
def Picks (s : State) (k : Task) : Prop :=
  s.coreFree s.here = true ∧ s.pickTurn s.here = true ∧ s.pick s.here = some k ∧ s.NoReplay

/-- The first n bytes of the task's spill region read, in memory proper, at places `pa`. -/
def SpillAt (s : State) (k : Task) (n : Nat) (pa : Nat → Nat) : Prop :=
  ∀ i, i < n → ∃ tr, s.access (s.ctxAcc s.here (descCtx k.desc) true) .rd .copy (k.spill + w64 i) (2 ^ 35) = .ok tr ∧
    tr.pa = pa i ∧ memLoc (locate tr.pa) = true

/-- n bytes of memory whose places `pa` names, as a number: those from offset i. -/
def spillWord (s : State) (pa : Nat → Nat) (i n : Nat) : Nat := leNat ((List.range n).map fun j => memGet s.mem (pa (i + j)))

/-- The scalar state that a register page `w` gives a core on resumption, with the engine sets that the die held: spec/03 R88,
spec/20 R398. A generator stored as zero takes its reset value. -/
structure Resumed (l : Live) (w : Nat → Word) (h : HeldSt) : Prop where
  x    : ∀ r : Fin 56, l.x[r] = if r.val = 0 then 0 else w r.val
  last : l.sq = w 56 ∧ l.lq = w 57 ∧ l.gq = w 58
  pred : ∀ k, 1 ≤ k → k < 16 → l.p.getLsbD k = (w 64).getLsbD k
  lc   : ∀ k : Fin 4, l.lc[k] = (w (65 + k.val)).setWidth 32
  turn : l.xwo.val = (w 69).toNat % 32 ∧ l.pwo.val = (w 69).toNat / 256 % 8 ∧ l.stage = (w 69).getLsbD 16
  fst  : l.fst = (w 70).setWidth 16
  fm   : ∀ k : Fin 8, l.fm[k] = BitVec.ofNat 32 ((w (71 + k.val / 2)).toNat / 2 ^ (32 * (k.val % 2))) &&& 0x00FF371F
  sg   : ∀ k : Fin 16, l.sg[k] = if w (80 + k.val) = 0 then 0x9E3779B97F4A7C15 + w64 k.val else w (80 + k.val)
  tb   : ∀ k : Fin 8, l.tb[k].valid = (w (96 + k.val)).getLsbD 63 ∧ l.tb[k].link = (w (96 + k.val)).getLsbD 62 ∧
           l.tb[k].addr = (w (96 + k.val)).setWidth 48 ∧ l.tb[k].copy = false
  port : l.portS = w 104 ∧ l.portL = w 105 ∧ l.portM = w 108 ∧ (∀ k : Fin 2, l.portC[k] = w (109 + k.val)) ∧
           ∀ k : Fin 2, l.portV[k] = w (106 + k.val) &&& 0xFFFFFFFF000001FF
  eng  : l.hs = h.hs ∧ l.ha = h.ha ∧ l.cs = h.cs ∧ l.ca = h.ca

/-- The entries of a group and of a member, and the context entry of a task, stand apart in memory. -/
def EntriesApart (s : State) (k : Task) (g m : Nat) : Prop :=
  (s.grpAt g + 64 ≤ s.memAt g m ∨ s.memAt g m + 16 ≤ s.grpAt g) ∧
  (s.ctxAt (keyDie s.here) (descCtx k.desc) + 128 ≤ s.memAt g m ∨ s.memAt g m + 16 ≤ s.ctxAt (keyDie s.here) (descCtx k.desc))

/-- A completion record: spec/19 R373. -/
def completionRecord (k : Task) (core : Nat) : List Byte :=
  leBytes 8 (descTag k.desc).toNat ++ leBytes 8 (descCtx k.desc + k.queue % 64 * 2 ^ 16 + core * 2 ^ 24)

/-- A core whose task has ended and can retire, with its memberships (number, group, index) and its node of a graph. -/
def CanRetireAs (s : State) (k : Task) (ms : List (Nat × Nat × Nat)) (node : Option (Nat × Nat × Nat)) : Prop :=
  s.retireReady = true ∧ s.core.land = [] ∧ s.core.hops = [] ∧ s.core.rel = [] ∧ s.core.pend = none ∧
  s.curTask = some k ∧ k.node = node ∧ descMembs k.desc = ms

/-- The same of a member of no group and no node of a graph. -/
def CanRetire (s : State) (k : Task) : Prop := CanRetireAs s k [] none

/-- The task's queue asks for no completion record. -/
def NoRecord (s : State) (k : Task) : Prop := (s.dget k.die (offTQCTL k.queue)).getLsbD 62 = false

/-- The core is free, and only the task's entry left the list. -/
def Retired (s t : State) (k : Task) : Prop :=
  t.core.phase = .idle ∧ t.core.task = none ∧ t.tasks = s.tasks.filter (fun u => u.id != k.id)

/-- A graph's task retires; its launch becomes l'. -/
def RetiresInGraph (s t : State) (k : Task) (id die : Nat) (l' : Launch) : Prop :=
  exec .taskRetirement s = .next t ∧ Retired s t k ∧ NoStore s t ∧
  t.launches.filter (fun p => p.2.id == id) = [(die, l')]

/-- Saffron about to run under the context of a message: spec/11 R304. -/
def requestMaster (s : State) (m : Msg) (ms : List Msg) : State :=
  let die := keyDie s.here
  let u := s.setMq { s.mq die (112 + keyCluster s.here) with ring := ms }
  { u with core := { u.core with
      tcw := dispatchTcw m.ctx (natBits (s.ctxCfg die m.ctx) 34 32) (natBits (s.ctxCfg die m.ctx) 1 1)
      ptroot := s.ctxRoot die m.ctx, accid := natBits (s.ctxCfg die m.ctx) 15 8, quota := s.ctxQuota die m.ctx
      acq := s.wseq } }

end Sys2Proof.Claims

/-- A free core takes the head it picks: at its first dispatch the task begins with the scalar state of the rules (`sq`, `lq` and `gq`
zero, the model's choice: log 2), and with its context's words. A saved task resumes at its point with what its spill region and the die
hold. A membership is rebound, and no other byte of memory changes. -/
def Sys2Proof.Claims.TasksDispatch : Prop :=
  ∀ (s : State) (k : Task), Picks s k →
    (k.held = none → descMembs k.desc = [] →
      ∃ t, exec .taskDispatch s = .next t ∧ NoStore s t ∧ OnCore s t k ∧ Fresh t.core.live (descArgs k.desc) ∧
        t.core.pc = descEntry k.desc) ∧
    (∀ h pa, k.held = some h → descMembs k.desc = [] →
      let mask := liveMask (BitVec.ofNat 512 (spillWord s pa 4096 64))
      let rows := maskRows mask
      let quarters := maskQuarters mask
      SpillAt s k (spillSize mask) pa →
      ∃ t, exec .taskDispatch s = .next t ∧ NoStore s t ∧ OnCore s t k ∧
        Resumed t.core.live (fun i => w64 (spillWord s pa (8 * i) 8)) h ∧ t.core.pc = h.pc ∧ t.core.once = h.once ∧
        (∀ j r, rows[j]? = some r → rowGet t.core r = BitVec.ofNat 10240 (spillWord s pa (4160 + 1280 * j) 1280)) ∧
        ∀ j q i, quarters[j]? = some q → i < 524288 →
          bget t.core (q * 524288 + i) = memGet s.mem (pa (4160 + 1280 * rows.length + 524288 * j + i))) ∧
    (∀ mb g m, k.held = none → descMembs k.desc = [(mb, g, m)] → EntriesApart s k g m → s.Inv →
      ∃ t, exec .taskDispatch s = .next t ∧ OnCore s t k ∧ Fresh t.core.live (descArgs k.desc) ∧
        t.core.pc = descEntry k.desc ∧ StoresAt (s.memAt g m) 8 s t ∧
        Holds t (s.memAt g m) (leBytes 8 (2 ^ 63 + s.device % 2 ^ 12 + keyDie s.here * 2 ^ 12 + keyIdx s.here * 2 ^ 15)))

/-- A task that has ended retires, with a completion record where its queue asks for one and the ring has room. A member of a group
whose home is here departs; the home elsewhere is told. A task of a graph counts towards its node, which signals its successors as
the last of an activation retires. -/
def Sys2Proof.Claims.TasksRetire : Prop :=
  ∀ (s : State) (k : Task),
    (CanRetire s k → NoRecord s k → ∃ t, exec .taskRetirement s = .next t ∧ NoStore s t ∧ Retired s t k) ∧
    (∀ mb g m, CanRetireAs s k [(mb, g, m)] none → NoRecord s k → EntriesApart s k g m → s.Inv → s.gValid g = true →
      (s.gHome g = s.device → s.memState g m = 0 → (∀ h ∈ s.homes, h.g ≠ g) →
        ∃ t, exec .taskRetirement s = .next t ∧ Retired s t k ∧ StoresAt (s.memAt g m) 16 s t ∧
          t.memWhere g m = s.memWhere g m % 2 ^ 63 ∧ t.memState g m = 1 ∧ t.memSeq g m = s.memSeq g m) ∧
      (s.gHome g ≠ s.device →
        ∃ t c, exec .taskRetirement s = .next t ∧ Retired s t k ∧ StoresAt (s.memAt g m) 8 s t ∧
          t.memWhere g m = s.memWhere g m % 2 ^ 63 ∧ t.agMail = s.agMail ++ [(g, m, c)] ∧ c.leave = true)) ∧
    (∀ id i act die l n, CanRetireAs s k [] (some (id, i, act)) → NoRecord s k →
      s.launches.filter (fun p => p.2.id == id) = [(die, l)] → l.ended = false →
      l.left.filter (fun q => q.1 == i && q.2.1 == act) = [(i, act, n)] →
      (1 < n → ∃ t l', RetiresInGraph s t k id die l' ∧ l'.arr = l.arr ∧
        l'.left = l.left.map fun q => if q.1 = i ∧ q.2.1 = act then (i, act, n - 1) else q) ∧
      (∀ g, n ≤ 1 → s.gNode die l i = .ok g → ∃ t l', RetiresInGraph s t k id die l' ∧
        l'.left = l.left.filter (fun q => !(q.1 == i && q.2.1 == act)) ∧
        ∀ j, l'.arrivals j = l.arrivals j + if j = 0xFFFF then 0 else g.succ.count j)) ∧
    (CanRetire s k → s.Inv → (s.dget k.die (offTQCTL k.queue)).getLsbD 62 = true →
      let b := (s.dget k.die offCRBASE).toNat
      let p := (s.dget k.die offCRPTR).toNat
      let tail := p / 2 ^ 32
      (tail + 2 ^ 32 - p % 2 ^ 32) % 2 ^ 32 ≠ 2 ^ natBits b 4 0 →
      let at' := natBits b 51 12 * 4096 + 16 * (tail % 2 ^ natBits b 4 0)
      ∃ t, exec .taskRetirement s = .next t ∧ Retired s t k ∧ StoresAt at' 16 s t ∧
        Holds t at' (completionRecord k (keyIdx s.here)) ∧
        t.dget k.die offCRPTR = w64 ((tail + 1) % 2 ^ 32 * 2 ^ 32 + p % 2 ^ 32))

/-- Tasks are dispatched, at first and after a save, and retire. -/
def Obligations.TasksRunAndRetire : Prop := TasksDispatch ∧ TasksRetire

/-- Requests, saves, balances: a READY head displaces the running task that the rules choose; a finished save leaves its task READY
or WAITING; a charge lowers a balance and a refill raises it up to CAP, a hold asking for the running tasks of its context;
EN 1 makes READY what waits for it; a stopped core restarts idle, and its task is not on it any more (the model's choice, log 58). -/
def Obligations.SchedulerEvents : Prop :=
  ∀ (s : State),
    (∀ q k c, s.requester (keyDie s.here) q = some (k, c) →
      ∃ t, exec (.preemptionRequest q) s = .next t ∧ NoStore s t ∧ t.tasks = s.tasks ∧
        t.coreOf c = { s.coreOf c with
          req := some { cross := (s.coreOf c).taskCtx != descCtx k.desc, task := k.id, tick := s.tick } } ∧
        ∀ j, j ≠ c → t.coreOf j = s.coreOf j) ∧
    (∀ k, s.core.phase = .saving → s.curTask = some k → s.NoReplay →
      let f : State := { s.saved k with core := { s.core with phase := .idle, task := none, req := none, iss := {} } }
      f.pick s.here = none →
      (∀ j, keyDie j = keyDie s.here → j < s.here → f.coreFree j = true → f.pick j = none) →
      ∃ t, exec .saveCompletion s = .next t ∧ NoStore s t ∧ t.core.phase = .idle ∧ t.core.task = none ∧
        (∃ u ∈ t.tasks, u.id = k.id) ∧
        ∀ u ∈ t.tasks, u.id = k.id →
          u.state = (if s.core.saveTo ≠ 2 ∨ k.wait = .none then .ready else .waiting) ∧
          u.yielded = decide (s.core.saveTo = 1)) ∧
    (∀ (b : Bal), s.bals.find? (fun x => x.die == keyDie s.here && x.ctx == b.ctx && x.b == b.b) = some b → s.NoReplay →
      (∀ units : Nat, ∃ t, exec (.damperCharge b.ctx b.b units) s = .next t ∧ NoStore s t ∧
        { b with bal := b.bal - units } ∈ t.bals ∧
        (b.holds = false → b.en = true → b.bal ≤ units → s.core.runsTask = true → s.core.taskCtx = b.ctx →
          ∃ r, t.core.req = some r ∧ r.cross = true)) ∧
      (∃ t, exec (.damperRefill b.ctx b.b) s = .next t ∧ NoStore s t ∧ { b with bal := min b.cap (b.bal + b.rate) } ∈ t.bals)) ∧
    (∀ q, q < 64 → ∃ t, exec (.queueEnable q) s = .next t ∧ NoStore s t ∧
      (t.dget (keyDie s.here) (offTQCTL q)).getLsbD 63 = true ∧
      (∀ u ∈ t.tasks, u.die = keyDie s.here → u.queue = q → u.act = true → u.state ≠ .queued) ∧
      t.tasks.length = s.tasks.length) ∧
    (s.core.phase = .stopped → s.owesToken = false →
      ∃ t, exec .coreRestart s = .next t ∧
        t = { s with core := { s.core with phase := .idle, task := none, req := none, iss := {}, agw := none } })

/-- A message appended to a queue with room is its last, and wakes the tasks that wait for one; where the on-chip ring has no room
it goes into the Flue ring in memory (whose layout is the model's choice, log 20). The Flue keeps the order and leaves
none behind while the ring has room. Saffron takes the oldest request: a misaligned one is recorded in SRQF, a well-formed one
with a seed begins with its entry, arguments, END and seed. -/
def Obligations.QueuesAndRequests : Prop :=
  ∀ (s : State),
    (∀ (q ctx : Nat) (msg : Word), s.qEnabled (keyDie s.here) q = true → s.qRoom (keyDie s.here) q ctx (s.ctxQuota (keyDie s.here) ctx) = true →
      ∃ t, exec (.queueMessageAppend q ctx msg) s = .next t ∧
        (let m := s.mq (keyDie s.here) q
         let m' := t.mq (keyDie s.here) q
         let pa := s.flueAt (keyDie s.here) q
         m'.ring ++ m'.flue = m.ring ++ m.flue ++ [{ ctx := ctx, val := msg }] ∧
         (m.ring.length < 64 ∧ m.flue = [] → NoStore s t) ∧
         (¬(m.ring.length < 64 ∧ m.flue = []) → memLoc (locate pa) = true → s.Inv →
           StoresAt pa 8 s t ∧ Holds t pa (leBytes 8 msg.toNat))) ∧
        ∀ u ∈ t.tasks, u.wait ≠ .queue (keyDie s.here) q) ∧
    (∀ q, ∃ t, exec (.flueMove q) s = .next t ∧ NoStore s t ∧
      (let m := s.mq (keyDie s.here) q
       let m' := t.mq (keyDie s.here) q
       m'.ring ++ m'.flue = m.ring ++ m.flue ∧ (m'.flue = [] ∨ 64 ≤ m'.ring.length))) ∧
    (s.onSaffron = true → s.core.phase = .idle → s.qEnabled (keyDie s.here) (112 + keyCluster s.here) = true → ∀ m ms,
      (s.mq (keyDie s.here) (112 + keyCluster s.here)).ring = m :: ms →
      (s.mq (keyDie s.here) (112 + keyCluster s.here)).flue = [] → m.ctx < 2 ^ 16 →
      (m.val.toNat % 64 ≠ 0 → ∃ t, exec .saffronRequestTake s = .next t ∧ NoStore s t ∧ t.core.phase = .idle ∧
        t.core.srqf.getLsbD 63 = true ∧ (s.core.srqf.getLsbD 63 = false → t.core.srqf.toNat % 2 ^ 48 = m.val.toNat % 2 ^ 48)) ∧
      (∀ bs, m.val.toNat % 64 = 0 →
        (requestMaster s m ms).vread (requestMaster s m ms).acc (.lslot true) m.val 64 (2 ^ 46) = .ok bs →
        requestOk (leNat bs) = true → natBits (leNat bs) 191 128 ≠ 0 →
        ∃ t, exec .saffronRequestTake s = .next t ∧ NoStore s t ∧ t.core.phase = .run ∧
          t.core.pc = w64 (natBits (leNat bs) 63 0) ∧ t.core.sr = w64 (natBits (leNat bs) 191 128) ∧
          t.core.live.x = ((Vector.replicate 56 0).set 2 (w64 (natBits (leNat bs) 127 64))).set 1 0x00007FFFFFFFFFFC ∧
          t.core.dup = t.core.live ∧ t.core.tcw = (requestMaster s m ms).core.tcw))

namespace Sys2Proof.Claims

/-! ## The rendezvous of cooperative starts (spec/09 R244, R245) -/

/-- What two members of a rendezvous share is equal: opcode, MCOOP, MK, MFMT and MMODE; for a shared B, MN, MB.PITCH and MSB; for a
shared A, MM and MSA; MOL where the shared operand escapes or is sparse (spec/09 R245). -/
def Shares (a b : Join) : Prop :=
  let same := fun er : Fin 14 => a.img[er] = b.img[er]
  let ty := hType a.op
  a.op = b.op ∧ same 13 ∧ same 4 ∧ same 5 ∧ same 10 ∧
  (if hSHA a.img then same 2 ∧ same 6 ∧ ((hEsc ty a.fa || hSPA a.img) = true → same 11)
   else same 3 ∧ hPITCH a.img = hPITCH b.img ∧ same 7 ∧ (hEsc ty a.fb = true → same 11))

/-- The rendezvous of the core in focus is complete: every core of MASK waits there, all with one mask and in agreement, and no
other agent holds a bank of theirs. -/
structure Meets (s : State) (j : Join) (ks : List Nat) : Prop where
  here  : s.core.joinAt = some j ∧ j.go = false ∧ j.late s.tick = false
  ws    : ks = (s.waitersAt s.here j.id).map (·.1)
  masks : ∀ w ∈ s.waitersAt s.here j.id, w.2.mask = j.mask ∧ Shares j w.2
  all   : ∀ i, i < 8 → j.mask.testBit i = true → s.here / 8 * 8 + i ∈ ks
  banks : ∀ w ∈ s.waitersAt s.here j.id, s.bankHeld s.here &&& w.2.banks = 0
  clear : ∀ k ∈ ks, s.joinClear k = true

/-- Some member disagrees: with the mask, or, when all are present, in what they share. -/
structure Disagree (s : State) (j : Join) (ks : List Nat) : Prop where
  here : s.core.joinAt = some j ∧ j.go = false ∧ j.late s.tick = false
  ws   : ks = (s.waitersAt s.here j.id).map (·.1)
  bad  : (∃ w ∈ s.waitersAt s.here j.id, w.2.mask ≠ j.mask) ∨
    ((∀ i, i < 8 → j.mask.testBit i = true → s.here / 8 * 8 + i ∈ ks) ∧
      ∃ w ∈ s.waitersAt s.here j.id, ¬Shares j w.2)

end Sys2Proof.Claims

/-- A complete rendezvous, each member with its shadow set as it stands now, lets every member go, and then every member's bundle issues, in
one step. Members that disagree all raise MSHAPE with detail 5 at their bundle, and none issues. A member that has waited longer than JTO
counts no more: it raises MSHAPE with detail 7, before the next event (that a repeat and a re-issue raise 5 and 7 too is the model's reading,
log 114), and the others keep waiting. -/
def Obligations.Rendezvous : Prop :=
  ∀ (s : State) (j : Join) (ks : List Nat),
    let m := s.joinsNow
    (∀ k j0 t b ops tk i op w, (s.coreOf k).joinAt = some j0 → j0.go = false → (s.focus k).plan = .go t b ops tk →
      t.joinOp ops = some (i, op, w) → i.again = false →
      ∃ j1, s.joinNow k = { s.coreOf k with joinAt := some j1 } ∧ j1.tick = j0.tick ∧ j1.op = op ∧ j1.go = false ∧
        j1.img = startSet (t.at i) w) ∧
    (Meets m j ks →
      ∃ u v, (∀ k ∈ ks, u.coreOf k = { m.coreOf k with
          joinAt := (m.coreOf k).joinAt.map fun j : Join => { j with go := true } }) ∧
        (∀ k, k ∉ ks → u.coreOf k = m.coreOf k) ∧ NoStore s u ∧
        issueEach ks u = .next v ∧ exec .mjoinRendezvous s = .next (v.focus s.here)) ∧
    (Disagree m j ks → (∀ k ∈ ks, (s.focus k).CanTrap) →
      ∃ t, exec .mjoinRendezvous s = .next t ∧ NoStore s t ∧ t.here = s.here ∧
        ∀ k ∈ ks, (t.coreOf k).phase = .handler ∧ (t.coreOf k).joinAt = none ∧
          (t.coreOf k).tcause.setWidth 8 = 0x09#8 ∧ (t.coreOf k).tcause.toNat / 2 ^ 32 = 5 ∧
          (t.coreOf k).tbund = (if (s.coreOf k).iss.live then (s.coreOf k).iss.pcb else (s.coreOf k).pc)) ∧
    (s.core.joinAt = some j → j.go = false → s.CanTrap →
      let jto := natBits j.img[13].toNat 39 32
      jto ≠ 0 → j.tick + jto * 1024 < s.tick →
      s.joinLate = true ∧ (∀ w ∈ s.waitersAt s.here j.id, w.1 ≠ s.here) ∧
      ∃ t, exec .mjoinWaitLimitExpiry s = .next t ∧ t.parked = s.parked ∧ t.core.joinAt = none ∧
        TrapTaken s t 0x09 7 7 (if s.core.iss.live then s.core.iss.pcb else s.core.pc) 0 s.core.ckpt)

namespace Sys2Proof.Claims

/-! ## Agreements at their home and at their members (spec/11 R285 to R293) -/

/-- The comparison of a combine with its threshold: spec/11 R285. -/
def reaches (tc : Fin 4) (c t : Int) : Bool :=
  if tc = 1 then decide (t ≤ c) else if tc = 2 then decide (c ≤ t) else if tc = 3 then decide (c = t) else decide (c ≠ 0)

/-- c of a combine over contributed values: spec/11 R285. -/
def combined (cmb : Cmb) (tc : Fin 4) (t : Int) (vs : List Int) : Int :=
  match cmb with
  | .all => if vs.all (reaches tc · t) then 1 else 0
  | .any => if vs.any (reaches tc · t) then 1 else 0
  | .sum => max (-(2 ^ 31)) (min (2 ^ 31 - 1) vs.sum)
  | .min => vs.min?.getD 0
  | .max => vs.max?.getD 0

/-- cond of a combine. -/
def combinedCond (cmb : Cmb) (tc : Fin 4) (t : Int) (vs : List Int) : Bool :=
  if cmb = .all ∨ cmb = .any then decide (combined cmb tc t vs ≠ 0) else reaches tc (combined cmb tc t vs) t

/-- The record of a sequence number at its home. -/
def homeOf (s : State) (g n : Nat) : Option AgHome := s.homes.find? fun h => h.g == g && h.seq == n

/-- The address of a record that agst sel 2 names to a member: 0 where the member's device is neither this one nor one that is sent a copy
(spec/15 R336). -/
def reportTo (u : State) (h : AgHome) (m : Nat) (rpt : Word) : Word :=
  let dev := natBits (u.memWhere h.g m) 11 0
  if dev = u.device ∨ dev ∈ h.copies.map (·.1) then rpt else 0

/-- A sequence number stands decided from the state `u`: code, whether members are missing, the contributions counted and to whom it
goes. -/
def Decided (u t : State) (h : AgHome) (code : Nat) (missing : Bool) (contribs : List (Nat × Int × BitVec 32)) : Prop :=
  ∃ h' o, homeOf t h.g h.seq = some h' ∧ h'.decided = some o ∧ h'.contr = h.contr ∧
    h'.todo = h.todo ++ h.contr.map (fun q => (q.1, { o with report := reportTo u h' q.1 o.report })) ∧
    o.decided = code ∧ o.own = code ∧ o.seq = h.seq % 2 ^ 32 ∧
    o.missing = missing ∧ o.ncontr = contribs.length ∧
    (code ≠ 0 → o.c = 0 ∧ o.cond = false) ∧
    (code = 0 → ∀ site cmb tc v, h.key = some (site, cmb, tc, v) →
      o.c = combined cmb tc v (contribs.map fun q => q.2.1) ∧ o.cond = combinedCond cmb tc v (contribs.map fun q => q.2.1))

/-- Bytes stand at physical addresses, and no other byte of memory changes. -/
def Wrote (ps : List Nat) (bs : List Byte) (s t : State) : Prop :=
  OnlyAt ps s t ∧ (ps.Nodup → ∀ i p : Nat, ps[i]? = some p → some (memGet t.mem p) = bs[i]?)

/-- A master of a context writes n bytes at a virtual address, all in memory proper. -/
def Places (s : State) (a : Acc) (by' : By) (va : Word) (tag n : Nat) (ps : List Nat) : Prop :=
  s.Inv ∧ s.vaddrs a .wr by' va tag n 0 = .ok ps ∧ ∀ p ∈ ps, memLoc (locate p) = true

/-- A late contribution is answered `o'`: the contributions of the decision and their number stay, and the member's MEMi says "late"
in the report record, where one stands (spec/11 R288, R293). -/
def LateAnswer (u t : State) (h : AgHome) (o : AgOut) (m : Nat) (site : BitVec 32) (o' : AgOut) : Prop :=
  (∃ h', homeOf t h.g h.seq = some h' ∧ h'.contr = h.contr ∧ h'.todo = h.todo ++ [(m, o')] ∧ h'.late = h.late ++ [(m, site)]) ∧
  ((h.wrote = false ∨ o.report = 0) → NoStore u t) ∧
  (∀ a ps, h.wrote = true → o.report ≠ 0 → u.rptAcc h.g = some a →
    Places u a .copy (o.report + w64 (64 + 8 * m)) (2 ^ 61) 8 ps → Wrote ps (leBytes 8 (site.toNat + 4 * 2 ^ 32)) u t)

/-- gq that an outcome gives: spec/11 R286. -/
def outGq (o : AgOut) : Word := if o.own = 0 ∨ (o.own = 1 ∧ o.decided = 0) then i64 o.c else 0
/-- The even predicate that an outcome gives. -/
def outEven (o : AgOut) : Bool := decide (o.own = 0 ∨ (o.own = 1 ∧ o.decided = 0)) && o.cond
/-- MISMATCH, LOST and TIMEOUT, as own outcome or as the decided one of LATE, fail the trapping form: spec/11 R291. -/
def failing (n : Nat) : Prop := n = 2 ∨ n = 3 ∨ n = 4
def outFails (o : AgOut) : Prop := failing o.own ∨ (o.own = 1 ∧ failing o.decided)

/-- A member of a group homed here, present and bound to a device. -/
def memberOn (s : State) (dev g m : Nat) : Prop :=
  s.gValid g = true ∧ s.gHome g = s.device ∧ m < s.gNmem g ∧ s.memState g m = 0 ∧ (s.memWhere g m).testBit 63 = true ∧
    natBits (s.memWhere g m) 11 0 = dev

end Sys2Proof.Claims

/-- At the home, a contribution is recorded once, advances its member's SEQ, and decides its sequence number; one of a member that is lost
or departed is answered LOST (its status is the model's choice, log 121) and opens nothing, and a late one LATE, or alone MISMATCH where its
key differs, or with the LOST or MISMATCH that was decided, its MEMi saying "late"; else the decision is LOST below the effective quorum,
MISMATCH where its site or combine differs, AGREED over all contributions once every present member has contributed; else it stays open.
When the late limit expires, a strict group decides TIMEOUT and another decides AGREED, with members missing, if the present contributors
reach the quorum. Invalidating a group decides every open sequence number LOST, as the group stood when its entry read VALID 0, answers LOST
what is still under way, keeps the decided records out of the way of later sequence numbers until they are delivered (the model's choice,
log 71), and forgets the group's counts; what is open since the group was re-formed stays. -/
def Obligations.AgreementsDecide : Prop :=
  ∀ (s : State) (g : Nat),
    (∀ (m : Nat) (c : Contrib), s.gHome g = s.device → s.gValid g = true →
      s.agMail.find? (fun p => p.1 == g && p.2.1 == m) = some (g, m, c) →
      (∀ h ∈ s.homes, h.g = g → s.limitPast h = false) → (g, s.tick) ∉ s.goneAt →
      let u := s.setMemSeq g m (c.seq + 1)
      let late := fun (h : AgHome) (o : AgOut) (own : Nat) (t : State) =>
        LateAnswer u t h o m c.site { o with own := own, late := some c.site, states := u.gone g, report := reportTo u h m o.report }
      (u.memState g m ≠ 0 → ∃ t, exec (.agreementContributionArrival g m c) s = .next t ∧
        t.agMail = s.agMail.erase (g, m, c) ∧
        (∀ h o, homeOf s g c.seq = some h → h.decided = some o →
          late h o 3 t ∧ ∃ h', homeOf t g c.seq = some h' ∧ h'.decided = some o) ∧
        ((∀ h, homeOf s g c.seq = some h → h.decided = none) →
          NoStore u t ∧ (homeOf s g c.seq = none → homeOf t g c.seq = none) ∧
          ∃ h ∈ t.homes, h.g = g ∧ (m, { lostOut c.seq with states := u.gone g }) ∈ h.todo)) ∧
      (∀ h o, u.memState g m = 0 → homeOf s g c.seq = some h → h.decided = some o →
        ∃ t, exec (.agreementContributionArrival g m c) s = .next t ∧ t.agMail = s.agMail.erase (g, m, c) ∧
          late h o (if o.decided = 2 ∨ o.decided = 3 then o.decided
            else if h.key = some (c.site, c.cmb, c.tc, c.t) then 1 else 2) t ∧
          ∃ h', homeOf t g c.seq = some h' ∧ h'.decided = some o) ∧
      (∀ h0 : AgHome, u.memState g m = 0 →
        (homeOf s g c.seq).getD (AgHome.fresh g c.seq s.tick c.key) = h0 → h0.decided = none → h0.expired = false →
        h0.key ≠ none →
        let h := { h0 with contr := h0.contr ++ [(m, c.v, c.site)] }
        ∃ t, exec (.agreementContributionArrival g m c) s = .next t ∧ t.agMail = s.agMail.erase (g, m, c) ∧
          (if (u.presents g).length < u.qe g then Decided u t h 3 false h.contr
          else if h.key ≠ some (c.site, c.cmb, c.tc, c.t) then Decided u t h 2 false h.contr
          else if ∀ k ∈ u.presents g, k ∈ h.contr.map (·.1) then Decided u t h 0 false h.contr
          else homeOf t g c.seq = some h ∧ NoStore u t))) ∧
    (∀ (n : Nat) (h : AgHome), homeOf s g n = some h → s.limitPast h = true → s.gRpt g = 0 →
      s.qe g ≤ (s.presents g).length → (∃ k ∈ s.presents g, k ∉ h.contr.map (·.1)) →
      let contribs := h.contr.filter fun p => (s.presents g).contains p.1
      ∃ t, exec (.lateLimitExpiry g n) s = .next t ∧ NoStore s t ∧
        (if s.gStrict g = true then Decided s t h 4 false h.contr
        else if s.qe g ≤ contribs.length then Decided s t h 0 true contribs
        else homeOf t g n = some { h with expired := true })) ∧
    (∀ v : State, v = { s with mem := s.memBack (((s.invSeen.find? fun p => p.1 == g).map (·.2)).getD s.wseq) } → v.gRpt g = 0 →
      (∃ n, (g, n) ∈ s.invSeen) →
      ∃ t, exec (.groupInvalidate g) s = .next t ∧ NoStore s t ∧
        (∀ h ∈ s.homes, h.g = g → h.seq < 2 ^ 32 → h ∈ t.homes) ∧ (∀ h ∈ s.homes, h.g ≠ g → h ∈ t.homes) ∧
        (∀ h ∈ s.homes, h.g = g → h.decided = none → 2 ^ 32 ≤ h.seq → (∀ h2 ∈ s.homes, h2.g = g → h2.seq = h.seq → h2 = h) →
          ∃ h' ∈ t.homes, h'.g = g ∧ h'.seq = h.seq ∧ h'.contr = h.contr ∧
            ∃ o, h'.decided = some o ∧ o.own = 3 ∧ o.decided = 3 ∧ o.seq = h.seq % 2 ^ 32 ∧
              h'.todo = h.todo ++ h.contr.map (fun q => (q.1, o))) ∧
        t.agMail = s.agMail ∧ t.mseq = s.mseq ∧ ∀ p ∈ t.invSeen, p.1 ≠ g) ∧
    (s.gValid g = false → (∀ p ∈ s.invSeen, p.1 ≠ g) → State.gRpt { s with mem := s.memBack s.wseq } g = 0 →
      ∃ t, exec (.groupInvalidate g) s = .next t ∧ NoStore s t ∧
        (∀ h ∈ s.homes, h.g = g → h.decided = none → h.seq < 2 ^ 32 → (∀ h2 ∈ s.homes, h2.g = g → h2.seq = h.seq → h2 = h) →
          ∃ h' ∈ t.homes, h'.g = g ∧ h'.contr = h.contr ∧
            ∃ o, h'.decided = some o ∧ o.own = 3 ∧ o.decided = 3 ∧ o.seq = h.seq ∧
              h'.todo = h.todo ++ h.contr.map (fun q => (q.1, o))) ∧
        (∀ (m : Nat) (c : Contrib), (g, m, c) ∈ s.agMail → ∃ h ∈ t.homes, h.g = g ∧ (m, lostOut c.seq) ∈ h.todo) ∧
        (∀ h ∈ t.homes, h.g = g → h.decided ≠ none ∧ 2 ^ 32 ≤ h.seq) ∧ (∀ h ∈ s.homes, h.g ≠ g → h ∈ t.homes) ∧
        (∀ p ∈ t.agMail, p.1 ≠ g) ∧ (∀ p ∈ t.mseq, p.1.1 ≠ g) ∧ g ∉ t.absent)

/-- At a member, the outcome of another device's home reaches the core that waits for it: gq and the pair take it, the once record keeps it,
the task's status shows it, once the device has its copy of the report or has found that it can hold none (log 53); a trapping form that
fails raises AGFAIL instead, with its results in the trap record. A member device writes its copy of a report. A heartbeat that is due is
sent, and one that arrives on a path that is up is noted; a device without one for HBMISS times HBINT is lost, and with it every member
bound to it. -/
def Obligations.AgreementsReachMembers : Prop :=
  ∀ (s : State),
    (∀ (w : AgWait) (o : AgOut), s.core.agw = some w → s.gHome w.g ≠ s.device → s.pathUp = true → w.seq = o.seq → w.on = true → w.mb < 4 →
      (∀ h ∈ s.homes, h.g ≠ w.g) → o.states = [] → o.late = none → (o.report = 0 ∨ s.copyOfRpt w.g o.seq = some true) →
      s.NoReplay → s.onSaffron = false → s.core.phase = .run → s.core.runAhead = false → s.core.heldTrap = none →
      ((w.trapping = false ∨ ¬outFails o) → o.own < 8 → o.decided < 8 →
        ∃ t, exec (.agreementOutcomeDelivery w.g w.m o) s = .next t ∧ NoStore s t ∧ t.core.agw = none ∧
          t.core.live.gq = outGq o ∧
          (∀ e d : Fin 16, w.gqPhys = some (e, d) → e ≠ d →
            t.core.live.p.getLsbD e = outEven o ∧ t.core.live.p.getLsbD d = !outEven o ∧
            ∀ k, k ≠ e.val → k ≠ d.val → t.core.live.p.getLsbD k = s.core.live.p.getLsbD k) ∧
          (w.gqPhys = none → t.core.live.p = s.core.live.p) ∧
          (let r := t.once 1
          r.done = true ∧ r.wait = false ∧ r.val = outGq o ∧ r.aux = o.status) ∧
          t.core.pc = s.core.pc ∧ t.core.phase = .run ∧
          ∀ k ∈ t.tasks, s.core.task = some k.id → ∃ a, k.ag[w.mb]? = some a ∧ a.sel0 = o.status ∧ a.sel2 = o.report) ∧
      (w.trapping = true → outFails o → o.own < 8 → o.decided < 8 → s.CanTrap →
        ∃ t, exec (.agreementOutcomeDelivery w.g w.m o) s = .next t ∧
          TrapTaken s t 0x1000A (o.own + o.decided * 16) 2 w.pcb 0 s.core.ckpt ∧
          t.core.tres0 = outGq o ∧ t.core.tres1 = o.status)) ∧
    (∀ (g n ctx : Nat) (a : Acc) (data : List Byte) (ps : List Nat), s.gRpt g ≠ 0 → s.pathUp = true →
      s.rptAccIn g ctx = some a → Places s a .copy (s.rptAddr g n) (2 ^ 61) data.length ps →
      ∃ t, exec (.reportCopyWrite g n ctx data) s = .next t ∧ Wrote ps data s t ∧ t.copyOfRpt g n = some true) ∧
    (∀ (g n ctx : Nat) (data : List Byte), s.pathUp = true → (s.rptAccIn g ctx = none ∨ s.gRpt g = 0) →
      ∃ t, exec (.reportCopyWrite g n ctx data) s = .next t ∧ NoStore s t ∧ t = { s with rptGot := t.rptGot } ∧
        t.copyOfRpt g n = some false) ∧
    (s.beatTick + s.hbInt ≤ s.tick →
      ∃ t, exec .heartbeatSend s = .next t ∧ NoStore s t ∧ t = { s with beatTick := s.tick }) ∧
    (∀ dev, s.pathUp = true →
      ∃ t, exec (.heartbeatArrival dev) s = .next t ∧ NoStore s t ∧ t = { s with beats := t.beats } ∧
        assocGet 0 t.beats dev = s.tick) ∧
    (∀ dev, dev ≠ s.device → dev ∉ s.lost → assocGet 0 s.beats dev + s.hbMiss * s.hbInt ≤ s.tick →
      ((∀ g, g < 256 → ∀ m, ¬memberOn s dev g m) →
        ∃ t, exec (.deviceLoss dev) s = .next t ∧ NoStore s t ∧ t = { s with lost := dev :: s.lost }) ∧
      (∀ g m, g < 256 → (∀ h ∈ s.homes, h.g ≠ g) → (∀ k, memberOn s dev g k ↔ k = m) →
        let u := s.setMemState g m 2
        (∀ v ∈ [s, u], ∀ k, k < 256 → k ≠ g → ∀ j, ¬memberOn v dev k j) →
        ∃ t, exec (.deviceLoss dev) s = .next t ∧ t = { u with lost := dev :: s.lost, goneAt := t.goneAt } ∧ (g, s.tick) ∈ t.goneAt))

namespace Sys2Proof.Claims

/-! ## The graph walker (spec/19 R361 to R365, spec/21 R410) -/

/-- A node of a launch in progress on the die in focus, of a kind. -/
def AtNode (s : State) (l : Launch) (i kind : Nat) (n : GNode) : Prop :=
  s.launchOf (keyDie s.here) l.h = some l ∧ s.gNode (keyDie s.here) l i = .ok n ∧ n.kind = kind

/-- An activation: node i has used its arrivals, and each successor in `js` has one more. -/
def Activated (s t : State) (l : Launch) (i used : Nat) (js : List Nat) (iter : Nat) : Prop :=
  ∃ l', t.launchOf (keyDie s.here) l.h = some l' ∧ l'.actsOf i = l.actsOf i + 1 ∧ l'.iterOf i = iter ∧
    ∀ j, l'.arrivals j = (if j = i then l.arrivals j - used else l.arrivals j) + (if j = 0xFFFF then 0 else js.count j)

/-- The walker stores bytes at an offset of the header, in memory proper. -/
def HeaderPlaces (s : State) (l : Launch) (off n : Nat) (ps : List Nat) : Prop :=
  Places s (s.wAcc (keyDie s.here) l.ctx) (.lslot true) (l.gaddr + w64 off) (2 ^ 36) n ps

/-- No other launch has ended on the die, and its notification queue has room. -/
def Alone (s : State) (l : Launch) : Prop :=
  (∀ p ∈ s.launches, p.1 = keyDie s.here → p.2.ended = false) ∧
  (∀ p ∈ s.launches, p.2.id = l.id ∨ (p.1 = keyDie s.here ∧ p.2.h = l.h) → p = (keyDie s.here, l)) ∧
  (s.notes.filter (·.die == keyDie s.here)).length < 64

/-- The host is notified: FAULT, RUNS and the handle, with the die's vector; the handle is free. -/
def Notified (s t : State) (l : Launch) (fault : Bool) (runs : Nat) : Prop :=
  t.notes = s.notes ++ [{ die := keyDie s.here, word := w64 (2 ^ 63 + (if fault then 2 ^ 62 else 0) + runs * 256 + l.h % 256) }] ∧
  t.msix = s.msix ++ [keyDie s.here] ∧ t.launchOf (keyDie s.here) l.h = none

end Sys2Proof.Claims

/-- A launch of an invalid handle counts in LREJ; one whose graph still runs counts in DROPS; else LARG stands in the header and
node 0 has one arrival. Before BAR0 is available there is no launch: the model's reading of R420 (log 105). -/
def Sys2Proof.Claims.GraphsLaunch : Prop :=
  ∀ (s : State) (w : Word),
    let die := keyDie s.here
    let h := w.toNat % 256
    let e := natBits (s.dget die offGTBASE).toNat 51 12 * 4096 + 16 * h
    let gaddr := w64 (rdNat s.mem e 8)
    let cfg := rdNat s.mem (e + 8) 8
    (s.bar0Up = false → ∃ t, exec (.graphLaunch w) s = .next t ∧ t = s) ∧
    (s.bar0Up = true → (natBits cfg 63 63 = 0 ∨ natBits cfg 62 16 ≠ 0 ∨ s.ctxOk die (natBits cfg 15 0) = false) →
      ∃ t, exec (.graphLaunch w) s = .next t ∧ NoStore s t ∧ t.launches = s.launches ∧
        (t.dget die offLREJ).toNat = min (2 ^ 64 - 1) ((s.dget die offLREJ).toNat + 1)) ∧
    (s.bar0Up = true → natBits cfg 63 63 = 1 → natBits cfg 62 16 = 0 → s.ctxOk die (natBits cfg 15 0) = true →
      (∀ l hd ps, s.launches.find? (fun p => p.1 == die && p.2.h == h) = some (die, l) → s.gHead die l = some hd →
        HeaderPlaces s l 0x2C 4 ps →
        ∃ t, exec (.graphLaunch w) s = .next t ∧ t.launches = s.launches ∧ Wrote ps (leBytes 4 (hd.drops + 1)) s t) ∧
      (∀ l hd ps, s.launches.find? (fun p => p.1 == die && p.2.h == h) = none → l.gaddr = gaddr → l.ctx = natBits cfg 15 0 →
        s.gHead die l = some hd → hd.ok = true → HeaderPlaces s l 0x08 8 ps →
        ∃ t l', exec (.graphLaunch w) s = .next t ∧ Wrote ps (leBytes 8 (natBits w.toNat 63 16)) s t ∧
          t.launchOf die h = some l' ∧ l'.gaddr = gaddr ∧ l'.ctx = natBits cfg 15 0 ∧
          ∀ j, l'.arrivals j = if j = 0 then 1 else 0))

/-- A node whose arrivals reach NPRED activates: JOIN signals every successor; COND and WHILE read their word and signal one side,
WHILE counting its iterations; END counts the run, stores RUNS and ends the launch with a notification. A WHILE past its limit
faults the launch with cause 3. -/
def Sys2Proof.Claims.GraphNodesActivate : Prop :=
  ∀ (s : State) (l : Launch) (i : Nat) (n : GNode), n.npred ≤ l.arrivals i →
    (AtNode s l i 4 n → ∃ t, exec (.joinActivation l.h i) s = .next t ∧ NoStore s t ∧
      Activated s t l i n.npred n.succ (l.iterOf i)) ∧
    (∀ w, AtNode s l i 2 n → s.gWord (keyDie s.here) l n = some w →
      ∃ t, exec (.condActivation l.h i) s = .next t ∧ NoStore s t ∧
        Activated s t l i n.npred (if w ≠ 0 then n.succ.take 2 else n.succ.drop 2) (l.iterOf i)) ∧
    (∀ w, AtNode s l i 3 n → s.gWord (keyDie s.here) l n = some w →
      (w = 0 → ∃ t, exec (.whileActivation l.h i) s = .next t ∧ NoStore s t ∧ Activated s t l i 1 (n.succ.drop 2) 0) ∧
      (w ≠ 0 → (n.count = 0 ∨ l.iterOf i + 1 ≤ n.count) →
        ∃ t, exec (.whileActivation l.h i) s = .next t ∧ NoStore s t ∧
          Activated s t l i 1 (n.succ.take 2) (l.iterOf i + 1)) ∧
      (w ≠ 0 → n.count ≠ 0 → n.count < l.iterOf i + 1 → Alone s l → ∀ ps hd, HeaderPlaces s l 0x18 8 ps →
        let word := leBytes 8 (2 ^ 63 + 3 * 2 ^ 48 + i)
        State.gHead (s.wStore (keyDie s.here) l.ctx (l.gaddr + 0x18) word) (keyDie s.here) l = some hd → hd.compl = 0 →
        hd.runs < 2 ^ 32 →
        ∃ t, exec (.whileActivation l.h i) s = .next t ∧ Wrote ps word s t ∧ Notified s t l true hd.runs)) ∧
    (∀ hd ps, AtNode s l i 5 n → Alone s l → s.gHead (keyDie s.here) l = some hd → HeaderPlaces s l 0x28 4 ps →
      let runs := (hd.runs + 1) % 2 ^ 32
      let u := s.wStore (keyDie s.here) l.ctx (l.gaddr + 0x28) (leBytes 4 runs)
      (hd.compl = 0 → ∃ t, exec (.endActivation l.h i) s = .next t ∧ Wrote ps (leBytes 4 runs) s t ∧
        Notified s t l false runs) ∧
      (∀ qs, hd.compl ≠ 0 → Places u (u.wAcc (keyDie s.here) l.ctx) (.lslot true) hd.compl (2 ^ 36) 8 qs →
        ∃ t, exec (.endActivation l.h i) s = .next t ∧ Wrote ps (leBytes 4 runs) s u ∧ Wrote qs (leBytes 8 runs) u t ∧
          Notified s t l false runs))

/-- At the first arrival of a TASKSET activation its descriptors enter the queue in order, as QUEUED; at its activation those tasks
become READY, unless the queue holds them, and the node's arrivals are used. A set that cannot
be read or is refused faults the launch, with FTAG for a refused descriptor; the tasks accepted before run on, READY from the fault (the
model's choice, log 77). -/
def Sys2Proof.Claims.TasksetsEnqueueAndActivate : Prop :=
  ∀ (s : State) (l : Launch) (i : Nat) (n : GNode), AtNode s l i 1 n →
    let qd := natBits n.qsel 8 6
    let q := natBits n.qsel 5 0
    (∀ ds, 0 < l.arrivals i → (∀ x ∈ l.todo, x.1 ≠ i) → l.iterOf i < l.needed i n.npred → l.actsOf i ≤ l.iterOf i →
      s.readSet (keyDie s.here) l n = .ok ds → s.queueCount qd q + ds.length ≤ natBits (s.dget qd (offTQCTL q)).toNat 12 0 →
      s.dieCount qd + ds.length ≤ 4096 →
      ∃ t ts l', exec (.tasksetFirstArrival l.h i) s = .next t ∧ NoStore s t ∧ t.tasks = s.tasks ++ ts ∧
        ts.map (·.desc) = ds ∧
        (∀ k ∈ ts, k.die = qd ∧ k.queue = q ∧ k.state = .queued ∧ k.node = some (l.id, i, l.iterOf i)) ∧
        t.launchOf (keyDie s.here) l.h = some l' ∧ l'.iterOf i = l.iterOf i + 1 ∧ l'.arr = l.arr ∧
        (i, l.iterOf i, n.count) ∈ l'.left) ∧
    (n.npred ≤ l.arrivals i → l.actsOf i < l.iterOf i →
      let mine := some (l.id, i, l.actsOf i)
      ∃ t, exec (.tasksetActivation l.h i) s = .next t ∧ NoStore s t ∧
        Activated s t l i n.npred [] (l.iterOf i) ∧ t.tasks.length = s.tasks.length ∧
        (∀ k ∈ t.tasks, k.node = mine → k.act = true ∨ k.state ≠ .queued) ∧
        (∀ k ∈ t.tasks, k.node = mine → s.queueEn k.die k.queue = true → k.state ≠ .queued) ∧
        (∀ k ∈ s.tasks, k.node ≠ mine → (∀ j ∈ s.tasks, j.id = k.id → j = k) → k ∈ t.tasks)) ∧
    (∀ c tag ds, 0 < l.arrivals i → (∀ x ∈ l.todo, x.1 ≠ i) → l.iterOf i < l.needed i n.npred →
      s.readSet (keyDie s.here) l n = .error (c, tag, ds) →
      s.queueCount qd q + ds.length ≤ natBits (s.dget qd (offTQCTL q)).toNat 12 0 → s.dieCount qd + ds.length ≤ 4096 →
      Alone s l → ∀ ps hd, HeaderPlaces s l 0x18 8 ps →
      let word := leBytes 8 (2 ^ 63 + c * 2 ^ 48 + i)
      let u := s.wStore (keyDie s.here) l.ctx (l.gaddr + 0x18) word
      let faults := fun t : State => exec (.tasksetFirstArrival l.h i) s = .next t ∧ Notified s t l true hd.runs ∧
        t.tasks.length = s.tasks.length + ds.length ∧
        (∀ d ∈ ds, ∃ k ∈ t.tasks, k.desc = d ∧ k.die = qd ∧ k.queue = q ∧ k.node = some (l.id, i, l.iterOf i)) ∧
        (∀ k ∈ t.tasks, (∃ a b, k.node = some (l.id, a, b)) → s.queueEn k.die k.queue = true → k.state ≠ .queued)
      hd.compl = 0 → hd.runs < 2 ^ 32 →
      (tag = none → u.gHead (keyDie s.here) l = some hd → ∃ t, faults t ∧ Wrote ps word s t) ∧
      (∀ w qs, tag = some w → HeaderPlaces u l 0x20 8 qs →
        (u.wStore (keyDie s.here) l.ctx (l.gaddr + 0x20) (leBytes 8 w.toNat)).gHead (keyDie s.here) l = some hd →
        ∃ t, faults t ∧ Wrote ps word s u ∧ Wrote qs (leBytes 8 w.toNat) u t))

/-- A launch is refused, dropped or started; each node acts as its kind says when its arrivals reach NPRED; a TASKSET enqueues its
descriptors at the first arrival of an activation and makes its tasks READY at the activation. -/
def Obligations.GraphWalker : Prop := GraphsLaunch ∧ GraphNodesActivate ∧ TasksetsEnqueueAndActivate

namespace Sys2Proof.Claims

/-! ## Arrivals from other devices (spec/21 R414, R415) -/

/-- The words of receive segment n. -/
def segLo (s : State) (n : Nat) : Nat := (s.dget 0 (0x4100 + 16 * n)).toNat
def segHi (s : State) (n : Nat) : Nat := (s.dget 0 (0x4100 + 16 * n + 8)).toNat

/-- The address an offset of the receive window names, under a kind-0 segment. -/
def segVa (s : State) (off : BitVec 36) : Word :=
  va48 (segLo s (off.toNat / 2 ^ 32)) + w64 (off.toNat % 2 ^ 32)

/-- The master of a segment's arrivals. -/
def segAcc (s : State) (n : Nat) : Acc := s.rxAcc (natBits (segHi s n) 63 48)

/-! ## Bellows (spec/11 R310 to R316) -/

/-- The program of the die in focus that runs next, at a step, with nothing left to write of earlier ones. -/
structure AtStep (s : State) (r : BRun) (h : BHead) (t : BStep) (op : Nat) : Prop where
  whole : r.rest = []
  next : s.bruns.find? (fun p => p.1 == keyDie s.here && s.bKind p.2 == op && s.bReady p.2) = some (keyDie s.here, r)
  now  : s.bNow r = .ok (h, t)
  kind : t.op = op

/-- The program stands as `r'`, but for the addresses that this step has written; no other changes. -/
def Runs (s t : State) (r r' : BRun) : Prop :=
  ∃ as, t.bruns = s.bruns.map fun p => if p.2.id == r.id then (p.1, { r' with wrote := as ++ r.wrote }) else p

/-- A step has written bytes: they stand at their places, or they are on their way there, to be seen in part (spec/12 R330; which is open). -/
def Lands (s t : State) (r r' : BRun) (ps : List Nat) (bs : List Byte) : Prop :=
  (Wrote ps bs s t ∧ Runs s t r r') ∨
  (NoStore s t ∧ Runs s t r { r' with rest := [{ at0 := s.ctr, step := r.step, ws := ps.zip bs }] })

/-- Some of the writes that were on their way have been made; the others still are. -/
def Lets (s t : State) (ws left : List (Nat × Byte)) (q : Rest) : Prop :=
  (ws ++ left).Perm q.ws ∧ Wrote (ws.map (·.1)) (ws.map (·.2)) s t

/-- Where a step's buffers lie: spec/11 R311. -/
def stepVa (r : BRun) (h : BHead) (t : BStep) (base : Word) : Word :=
  let it : Nat := (r.blc[t.lc]).2.1
  base + (if t.am = 1 then w64 (t.len * it)
    else if t.am = 2 then w64 (t.len * (((h.rank : Int) - it + t.co) % h.nr).toNat) else 0)

/-- peer(k): spec/11 R312. -/
def peerOf (h : BHead) (t : BStep) (k : Int) : Nat := (((h.rank : Int) + k * t.stride) % h.nr).toNat

/-- HOPOVF and HOP after a message or an overflow at a hop: the OR and the least. -/
def hopAfter (r : BRun) (ovf : Bool) (hop : Nat) : Bool × Nat :=
  (r.hopovf || ovf, if ovf then (if r.hopovf then min r.hop hop else hop) else r.hop)

/-- Words of w bytes. -/
def wordsOf (w : Nat) (bs : List Byte) : List Nat := (List.range (bs.length / w)).map fun i => leNat ((bs.drop (w * i)).take w)

/-- An f32 code of an infinity or a NaN. -/
def nonFinite (v : Nat) : Bool := v / 2 ^ 23 % 256 == 255

/-- Where the program stands after a message has left the staging or its arrivals. -/
def taken (s : State) (r : BRun) (m : BMsg) : BRun :=
  if s.staging.contains (keyDie r.key, m) then r else { r with inbox := r.inbox.erase m }

/-- What RRS sums: spec/11 R314. -/
def reduced (t : BStep) (msg loc : List Byte) : List Nat :=
  let lo := if t.rty = 0 then (wordsOf 2 loc).map (· * 2 ^ 16) else wordsOf 4 loc
  ((wordsOf 4 msg).zip lo).map fun p => redOp (if t.rty = 2 then 3 else 2) t.rop p.1 p.2

/-- What an RRS with FIN writes: the sums, under RTY 0 as bf16, rounded to nearest even with overflow to infinity (spec/11 R314). -/
def finished (t : BStep) (out : List Nat) : List Nat :=
  if t.rty = 0 then out.map fun v => (fmtBf16.roundFV { mode := .rne, sat := .ovfi } (fmtF32.val v)).1 else out

/-- Whether a sum of finite values overflowed. -/
def overflowed (t : BStep) (msg loc : List Byte) : Bool :=
  let lo := if t.rty = 0 then (wordsOf 2 loc).map (· * 2 ^ 16) else wordsOf 4 loc
  (((wordsOf 4 msg).zip lo).zip (reduced t msg loc)).any fun p =>
    t.rty != 2 && t.rop == 0 && !nonFinite p.1.1 && !nonFinite p.1.2 && nonFinite p.2

/-- The completion record: spec/11 R316. -/
def endRecord (r : BRun) (status : Int) (cause peer : Nat) : List Byte :=
  leBytes 8 (i64 status).toNat ++ leBytes 2 cause ++ leBytes 2 (if cause = 0 then 0 else r.step) ++ leBytes 4 peer ++
    leBytes 4 ((if r.hopovf then 1 else 0) + (if r.nonfinite then 2 else 0)) ++ leBytes 4 r.hop ++ List.replicate 40 0

/-- A message's HOPOVF and HOP join the program's, which goes to its next step. -/
def stepped (r : BRun) (hop : Bool × Nat) : BRun := { r with step := r.step + 1, hopovf := hop.1, hop := hop.2 }

/-- A message of a program to a rank under a step's tag, with its HOPOVF and HOP and a chunk's count of hops. -/
def sentBy (h : BHead) (b : BStep) (r : BRun) (hops : Nat) (data : List Byte) : BMsg :=
  { src := h.rank, dst := peerOf h b b.k, tag := b.tag, data := data, hopovf := r.hopovf, hop := r.hop, hops := hops }

/-- A receive step of a program completes: the message in `m` has left, its bytes stand at ADDR. -/
def receives (s : State) (r : BRun) (t : BStep) (m : BMsg) : BRun :=
  let r' := stepped (taken s r m) (hopAfter r m.hopovf m.hop)
  { r' with nonfinite := r.nonfinite || (decide (t.rty ≤ 1) && (wordsOf 4 m.data).any nonFinite) }

end Sys2Proof.Claims

/-- A frame at an enabled frame ring is dropped, and counts in DROPC, where the ring is full; else its payload and its entry are stored, at
once or in parts, and then the advanced TAIL. Bytes that arrive at an enabled memory segment stand at BASE plus the offset; a remote read returns the
bytes there; the landing post that comes with the last of them is made at its flag. At a segment that is disabled or of the other
kind nothing is stored, and the sender learns −3 (the model's reading for a frame and for the other kind, log 104: R415 names −3 for the
payload alone), as of a frame whose payload is too long; at a fenced die nothing changes. A message of
a Bellows program goes to the one of its rank that runs, or else to the staging, while there is room for it. -/
def Obligations.FabricArrivals : Prop :=
  ∀ (s : State),
    (s.fenced (keyDie s.here) = true →
      (∀ n data, ∃ t, exec (.frameArrival n data) s = .next t ∧ t = s) ∧
      (∀ off rx, ∃ t, exec (.rxSegmentArrival off rx) s = .next t ∧ t = s) ∧
      (∀ off len, ∃ t, exec (.rxRemoteRead off len) s = .next t ∧ t = { s with hostRd := [] }) ∧
      (∀ id m, ∃ t, exec (.bellowsMessageArrival id m) s = .next t ∧ t = s)) ∧
    (s.fenced (keyDie s.here) = false → ∀ (n : Nat) (data : List Byte) (t0 : Tr), n < 16 → natBits (segLo s n) 63 62 = 3 → 8 ≤ data.length →
      data.length - 8 ≤ 2 ^ natBits (segHi s n) 4 0 →
      s.access (segAcc s n) .rw (.lslot true) (va48 (segLo s n)) (2 ^ 50) = .ok t0 → s.Inv → (∀ f ∈ s.frames, f.pa ≠ t0.pa) →
      let c := s.sctx t0.pa
      let pay := data.drop 8
      let at' := va48 (natBits (segHi s n) 47 6 * 64) + w64 (2 ^ natBits (segHi s n) 4 0 * (c.tail % 2 ^ c.frl))
      ((c.tail + 2 ^ 32 - c.head) % 2 ^ 32 = 2 ^ c.frl →
        ∃ t, exec (.frameArrival n data) s = .next t ∧ StoresAt (t0.pa + 0x40) 8 s t ∧
          Holds t (t0.pa + 0x40) (leBytes 8 (c.w40 + if natBits c.w40 63 48 = 0xFFFF then 0 else 2 ^ 48))) ∧
      (∀ ps es, (c.tail + 2 ^ 32 - c.head) % 2 ^ 32 ≠ 2 ^ c.frl →
        Places s (segAcc s n) .copy at' (2 ^ 49) pay.length ps →
        Places s (segAcc s n) .copy (c.frb + w64 (16 * (c.tail % 2 ^ c.frl))) (2 ^ 48) 16 es →
        let entry := data.take 4 ++ leBytes 4 pay.length ++ leBytes 6 at'.toNat ++ leBytes 2 0
        let tail := (c.tail + 1) % 2 ^ 32
        ∃ t, exec (.frameArrival n data) s = .next t ∧
          ((∃ u v, Wrote ps pay s u ∧ Wrote es entry u v ∧ StoresAt (t0.pa + 0x1C) 4 v t ∧ Holds t (t0.pa + 0x1C) (leBytes 4 tail)) ∨
          (NoStore s t ∧ ∃ f, t.frames = s.frames ++ [f] ∧ f.die = keyDie s.here ∧ f.pa = t0.pa ∧ f.tail = tail ∧
            f.rest.ws = ps.zip pay ++ es.zip entry)))) ∧
    (∀ f, s.here % 128 = 127 → s.core.rel = [] → (∀ p ∈ s.bruns, p.2.rest = []) → s.frames = [f] → f.die = keyDie s.here → s.Inv →
      (∀ w ∈ f.rest.ws, memLoc (locate w.1) = true) → (f.rest.ws.map (·.1)).Nodup →
      ∃ t u ws left, exec (.weakStoreReachesHome 0) s = .next t ∧ Lets s u ws left f.rest ∧
        (left ≠ [] → NoStore u t ∧ t.frames = [{ f with rest := { f.rest with ws := left } }]) ∧
        (left = [] → t.frames = [] ∧ StoresAt (f.pa + 0x1C) 4 u t ∧ Holds t (f.pa + 0x1C) (leBytes 4 f.tail))) ∧
    (s.fenced (keyDie s.here) = false → ∀ (n : Nat) (data : List Byte), n < 16 →
      (natBits (segLo s n) 63 62 ≠ 3 ∨ 2 ^ natBits (segHi s n) 4 0 < data.length - 8) →
      ∃ t, exec (.frameArrival n data) s = .next t ∧ t = { s with rxStat := -3 }) ∧
    (s.fenced (keyDie s.here) = false → ∀ (off : BitVec 36),
      let n := off.toNat / 2 ^ 32
      (natBits (segLo s n) 63 62 = 2 →
        (∀ data ps, Places s (segAcc s n) .copy (segVa s off) (2 ^ 48) data.length ps →
          (∃ t, exec (.rxSegmentArrival off { data := data }) s = .next t ∧ Wrote ps data s t) ∧
          ∀ (p : RxPost),
            let u := s.putAt ps data
            let q : Post := { key := p.key, flag := p.flag % 32, amt := p.amt % 2 ^ 16, set := p.set }
            u.engPostRefused (segAcc u n) q = none →
            ∃ t, exec (.rxSegmentArrival off { data := data, post := some p }) s = .next t ∧ Wrote ps data s t ∧ Posted u t q) ∧
        (∀ len ps, s.vaddrs (segAcc s n) .rd .copy (segVa s off) (2 ^ 48) len 0 = .ok ps →
          (∀ p ∈ ps, memLoc (locate p) = true) →
          ∃ t, exec (.rxRemoteRead off len) s = .next t ∧ NoStore s t ∧
            t = { s with hostRd := ps.map (memGet s.mem), rxStat := 0 })) ∧
      (natBits (segLo s n) 63 62 ≠ 2 →
        (∀ rx, ∃ t, exec (.rxSegmentArrival off rx) s = .next t ∧ t = { s with rxStat := -3 }) ∧
        ∀ len, ∃ t, exec (.rxRemoteRead off len) s = .next t ∧ t = { s with hostRd := [], rxStat := -3 })) ∧
    (s.fenced (keyDie s.here) = false → ∀ (id : Nat) (m : BMsg),
      let mine := fun p : Nat × BRun => p.1 == keyDie s.here && p.2.id == id
      (m.ack = true → ∃ t, exec (.bellowsMessageArrival id m) s = .next t ∧ NoStore s t ∧
        t = { s with bruns := s.bruns.map fun p => if mine p then (p.1, { p.2 with sent := p.2.sent.erase m.src }) else p }) ∧
      (m.ack = false → s.bRoom (keyDie s.here) m = false → ∃ t, exec (.bellowsMessageArrival id m) s = .next t ∧ t = s) ∧
      (m.ack = false → s.bRoom (keyDie s.here) m = true →
        let known := ∃ p ∈ s.bruns, mine p = true ∧ ∃ h, s.bHead p.2 = .ok h ∧ h.rank = m.dst
        ∃ t, exec (.bellowsMessageArrival id m) s = .next t ∧ NoStore s t ∧
          (known → t = { s with
            bruns := s.bruns.map fun p => if mine p then (p.1, { p.2 with inbox := p.2.inbox ++ [m] }) else p }) ∧
          (¬known → t = { s with staging := s.staging ++ [(keyDie s.here, m)] })))

/-- Each Bellows step has its effect, in order: SEND and RRS stage what they send at their peer's die, or send it to another device whose
acknowledgement HALT awaits; RECV, RRS with FIN and COPY write their bytes, at once or in parts; WAIT and POST read and post, LOOP and ENDL
count, and the end of a program, at HALT or at a failure, writes its record and the token of its `bgo`. The moment at which a program reads
a step's bytes, and that each step is one event but for what it writes, is the model's choice (log 16). -/
def Obligations.BellowsSteps : Prop :=
  ∀ (s : State) (r : BRun) (h : BHead) (b : BStep),
    (∀ bs d, AtStep s r h b 1 → s.bRead r (stepVa r h b b.addr) b.len = .ok bs → s.bPath r h (peerOf h b b.k) = .ok (.die d) →
      ∃ t, exec .bellowsSend s = .next t ∧ NoStore s t ∧ Runs s t r { r with step := r.step + 1 } ∧
        t.staging = s.staging ++
          [(d, sentBy h b r 0 (if b.rty = 0 then (wordsOf 2 bs).flatMap (fun v => leBytes 4 (v * 2 ^ 16)) else bs))]) ∧
    (∀ bs, AtStep s r h b 1 → s.bRead r (stepVa r h b b.addr) b.len = .ok bs → s.bPath r h (peerOf h b b.k) = .ok .far →
      ∃ t, exec .bellowsSend s = .next t ∧ NoStore s t ∧ t.staging = s.staging ∧
        Runs s t r { r with step := r.step + 1, sent := peerOf h b b.k :: r.sent }) ∧
    (∀ m ps, AtStep s r h b 2 → s.bFind r (peerOf h b b.k) h.rank b.tag = some m →
      m.data.length = (if b.rty = 0 then 2 * b.len else b.len) →
      Places s r.acc .copy (stepVa r h b b.addr) (2 ^ 37) m.data.length ps →
      ∃ t, exec .bellowsRecv s = .next t ∧ Lands s t r (receives s r b m) ps m.data ∧
        t.staging = s.staging.erase (keyDie r.key, m)) ∧
    (∀ m loc, AtStep s r h b 3 → s.bFind r (peerOf h b (-b.k)) h.rank b.tag = some m →
      m.data.length = (if b.rty = 0 then 2 * b.len else b.len) → s.bRead r (stepVa r h b b.addr) b.len = .ok loc →
      let out := reduced b m.data loc
      let r1 := stepped (taken s r m) (hopAfter r m.hopovf m.hop)
      let r2 := stepped (taken s r m) (hopAfter r1 (overflowed b m.data loc) (m.hops + 1))
      let rest := s.staging.erase (keyDie r.key, m)
      (∀ d, b.fin = false → State.bPath { s with staging := rest } r2 h (peerOf h b b.k) = .ok (.die d) →
        ∃ t, exec .bellowsRrs s = .next t ∧ NoStore s t ∧ Runs s t r r2 ∧
          t.staging = rest ++ [(d, sentBy h b r2 (m.hops + 1) (out.flatMap (leBytes 4)))]) ∧
      (b.fin = false → State.bPath { s with staging := rest } r2 h (peerOf h b b.k) = .ok .far →
        ∃ t, exec .bellowsRrs s = .next t ∧ NoStore s t ∧ t.staging = rest ∧
          Runs s t r { r2 with sent := peerOf h b b.k :: r2.sent }) ∧
      (∀ ps, b.fin = true →
        let w := if b.rty = 0 then 2 else 4
        let fin := finished b out
        let nf := b.rty != 2 && fin.any fun v => nonFinite (if b.rty = 0 then v * 2 ^ 16 else v)
        Places s r.acc .copy (stepVa r h b b.addr2) (2 ^ 37) (w * out.length) ps →
        ∃ t, exec .bellowsRrs s = .next t ∧ Lands s t r { r2 with nonfinite := r.nonfinite || nf } ps (fin.flatMap (leBytes w)) ∧
          t.staging = rest)) ∧
    (∀ bs ps, AtStep s r h b 4 → s.bRead r (stepVa r h b b.addr) b.len = .ok bs →
      Places s r.acc .copy (stepVa r h b b.addr2) (2 ^ 37) bs.length ps →
      ∃ t, exec .bellowsCopy s = .next t ∧ Lands s t r { r with step := r.step + 1 } ps bs) ∧
    (∀ q, s.here % 128 = 127 → s.core.rel = [] → s.bruns = [(keyDie s.here, r)] → r.rest = [q] → s.frames = [] → s.Inv →
      (∀ w ∈ q.ws, memLoc (locate w.1) = true) → (q.ws.map (·.1)).Nodup →
      ∃ t ws left r', exec (.weakStoreReachesHome 0) s = .next t ∧ Lets s t ws left q ∧ t.bruns = [(keyDie s.here, r')] ∧
        r'.rest = (if left = [] then [] else [{ q with ws := left }]) ∧ r'.step = r.step ∧ r'.id = r.id) ∧
    (∀ bs, AtStep s r h b 5 → s.vread r.acc (.lslot true) (stepVa r h b b.addr) 8 (2 ^ 37) = .ok bs → b.len ≤ leNat bs →
      ∃ t, exec .bellowsWait s = .next t ∧ NoStore s t ∧ Runs s t r { r with step := r.step + 1 }) ∧
    (AtStep s r h b 6 →
      let n := b.tag.toNat
      let p : Post := { key := natBits n 14 12 * 128 + natBits n 11 5, flag := natBits n 4 0, amt := b.len % 2 ^ 16,
                        set := natBits n 15 15 == 1 }
      s.engPostRefused r.acc p = none →
      ∃ t, exec .bellowsPost s = .next t ∧ NoStore s t ∧ Posted s t p ∧ Runs s t r { r with step := r.step + 1 }) ∧
    (AtStep s r h b 7 →
      let r1 := { r with blc := r.blc.set b.lc (b.len, 0, r.step + 1) }
      (b.len ≠ 0 → ∃ t, exec .bellowsLoop s = .next t ∧ NoStore s t ∧ Runs s t r { r1 with step := r.step + 1 }) ∧
      (∀ k e, b.len = 0 → r.step < k → k < h.nstep → s.bStepAt r k = .ok e → e.op = 8 → e.lc = b.lc →
        (∀ j, r.step < j → j < k → ∃ x, s.bStepAt r j = .ok x ∧ ¬(x.op = 8 ∧ x.lc = b.lc)) →
        ∃ t, exec .bellowsLoop s = .next t ∧ NoStore s t ∧ Runs s t r { r1 with step := k + 1 })) ∧
    (∀ c it start, AtStep s r h b 8 → r.blc[b.lc] = (c, it, start) → c ≠ 0 →
      ∃ t, exec .bellowsEndl s = .next t ∧ NoStore s t ∧
        Runs s t r { r with blc := r.blc.set b.lc (c - 1, it + 1, start), step := if c = 1 then r.step + 1 else start }) ∧
    (∀ (status : Int) (cause peer : Nat) (y : Copy) (x : Fin 56) (ps : List Nat), r.rest = [] →
      s.bruns.find? (fun p => p.1 == keyDie s.here && s.bKind p.2 == 9 && s.bReady p.2) = some (keyDie s.here, r) →
      ((s.bNow r = .ok (h, b) ∧ b.op = 9 ∧ r.sent = [] ∧ status = 0 ∧ cause = 0 ∧ peer = 0) ∨
        (s.bNow r = .ok (h, b) ∧ b.op = 9 ∧ r.sent.head? = some peer ∧ (∃ e, s.bPath r h peer = .error e) ∧
          status = -4 ∧ cause = 1) ∨
        (s.bNow r = .error { cause := cause, status := status, peer := peer } ∧ s.bHead r = .ok h)) →
      Places s r.acc .copy h.rec' (2 ^ 37) 64 ps → y.id = r.copy → OwnsCopy (s.focus r.key) y x →
      (∀ k ∈ s.keys, k ≠ r.key → (s.coreOf k).owner ≠ y.task) →
      ∃ t, exec .bellowsHalt s = .next t ∧ Wrote ps (endRecord r status cause peer) s t ∧
        t.bruns = s.bruns.filter (fun p => p.2.id != r.id) ∧
        (∀ z ∈ (t.coreOf r.key).copies, z.id = y.id → z.state = .ended ∧ z.tokDone = true) ∧
        (t.coreOf r.key).live.x = (s.coreOf r.key).live.x.set x (tokenWord status))

namespace Sys2Proof.Claims

/-! ## System software and the package (spec/18 R346 to R359, spec/21 R411 to R424) -/

/-- RW registers of a die with no behaviour of their own, and the bits that a write reaches. -/
def plainRegisters : List (Nat × Word) :=
  [(offCTXBASE, 0xFFFFFFFFFFFFF000), (offACCBASE, 0xFFFFFFFFFFFFF000), (offAGE, 0xFFFFFFFF), (offGTBASE, 0x000FFFFFFFFFF000),
   (offGRPBASE, 0x000FFFFFFFFFC000), (offLREJ, 0xFFFFFFFFFFFFFFFF), (offTRAPVEC, 0x8000FFFFFFFFFFFC),
   (offREPBASE, 0x000FFFFFFFFFF01F), (offREPPTR, 0xFFFFFFFFFFFFFFFF), (offFABBASE, 0xFFFFFFFFFFFFF000),
   (offHBCTL, 0xFFFFFFFFFF)]

/-- A member of a group homed here, present and bound to a die of this device. -/
def memberAt (s : State) (die g m : Nat) : Prop := memberOn s s.device g m ∧ natBits (s.memWhere g m) 14 12 = die

/-- A die is fenced: its port closed, its reductions ended with −4; PART stays, and so does memory. -/
structure Fenced (s t : State) (die : Nat) : Prop where
  port  : (t.dget die offPARTCTL).toNat / 2 ^ 8 % 4 = 3
  part  : t.partOf die = s.partOf die
  done  : t.fencing.getLsbD die = false
  cores : ∀ k, t.coreOf k = { s.coreOf k with copies := (s.coreOf k).copies.map (cutReduce die) }
  bytes : NoStore s t

/-- No agent has an access open that a die's port could have accepted. -/
def PortIdle (s : State) : Prop :=
  (∀ k, (s.coreOf k).rel = [] ∧ (s.coreOf k).outst = [] ∧ (s.coreOf k).hops = [] ∧ ∀ x ∈ (s.coreOf k).copies, x.rest = none) ∧
  (∀ p ∈ s.bruns, p.2.rest = []) ∧ s.frames = []

/-- No present member of a group homed here stands on the die. -/
def NoMember (s : State) (die : Nat) : Prop := ∀ g, g < 256 → ∀ m, ¬memberAt s die g m

end Sys2Proof.Claims

/-- An invalidation starts unless one runs, and is complete once no access made under a matching translation is open. A restart with GO of a
valid log whose task is off its core runs the copy again from the failed row, once its banks are free, and one whose conditions fail changes
nothing; a plain register takes the bits that are RW, PWRCAP only caps from 2,000 to 6,500. HOSTACC and the mailbox of BAR0 are written at
addresses of the model's own (log 9), a command is taken with GO unless one runs, and before stage 4 of the bring-up no write of BAR0 has an
effect (the model's reading of R420, log 105). A window write to a register page reaches both register sets, and one that needs an idle core
is lost on a busy one. -/
def Obligations.ControlWrites : Prop :=
  ∀ (s : State) (w : Word),
    let die := keyDie s.here
    let inv := s.dget die offTLBINV
    (inv.getLsbD 0 = false → ∃ t, exec (.tlbInvalidate w) s = .next t ∧ NoStore s t ∧
      t = s.dset die offTLBINV ((inv &&& 0xFC) ||| (w &&& 0xFFFFFFFFFFFFFF03))) ∧
    (inv.getLsbD 0 = true → ∃ t, exec (.tlbInvalidate w) s = .next t ∧ t = s) ∧
    (inv.getLsbD 0 = true → (∀ k ∈ s.keys, (s.coreOf k).tlbOpen inv = false) →
      (∀ p ∈ s.bruns, p.2.rest ≠ [] → p.2.acc.ctx ≠ natBits inv.toNat 63 48) → (∀ f ∈ s.frames, f.ctx ≠ natBits inv.toNat 63 48) →
      ∃ t, exec .tlbInvalidateCompletion s = .next t ∧ NoStore s t ∧ t.dget die offTLBINV = inv &&& ~~~1 ∧
        t.core = s.core ∧ t.tasks = s.tasks) ∧
    (let core := natBits w.toNat 6 0
     let slot := natBits w.toNat 7 7
     let key := die * 128 + core
     let info := s.dget die (offEFLOG core slot + 0x58)
     (w.getLsbD 63 = false → ∃ t, exec (.engineRestart w) s = .next t ∧ NoStore s t ∧ t = { s with dreg := t.dreg } ∧
       t.dget die (offEFLOG core slot + 0x58) = info) ∧
     (w.getLsbD 63 = true → (s.restarting die = true ∨ info.getLsbD 63 = false ∨
         natBits info.toNat 55 48 ∉ [0x08, 0x09, 0x0A, 0x0B, 0x0D] ∨
         ∀ y ∈ (s.coreOf key).copies, ¬(y.slot = slot ∧ y.state = .ended ∧ y.logged = true)) →
       ∃ t, exec (.engineRestart w) s = .next t ∧ t = s) ∧
     (∀ x, w.getLsbD 63 = true → s.restarting die = false → info.getLsbD 63 = true → natBits info.toNat 55 48 ∈ [0x08, 0x09, 0x0A, 0x0B, 0x0D] →
       core < 72 → (s.coreOf key).copies.find? (fun y => y.slot == slot && y.state == .ended && y.logged) = some x →
       (∀ y ∈ (s.coreOf key).copies, y.slot = slot → y.state ≠ .running) →
       (∃ k ∈ s.tasks, k.id + 1 = x.task ∧ k.state = .saved) →
       ∃ t y, exec (.engineRestart w) s = .next t ∧ NoStore s t ∧ y ∈ (t.coreOf key).copies ∧ y.id = x.id ∧
         y.state = (if s.bankHeld key &&& x.banks = 0 then .running else .armed) ∧ y.img = x.img ∧ y.tok = x.tok ∧ y.tokDone = false ∧
         y.land = (if x.img[5].getLsbD 31 then some true else none) ∧
         y.row0 = natBits (s.dget die (offEFLOG core slot + 0x48)).toNat 31 0 + 1 ∧
         (t.dget die (offEFLOG core slot + 0x58)).getLsbD 63 = false)) ∧
    (∀ p ∈ plainRegisters, ∃ t, exec (.registerWrite p.1 w) s = .next t ∧ NoStore s t ∧
      t = s.dset die p.1 ((s.dget die p.1 &&& ~~~p.2) ||| (w &&& p.2))) ∧
    (let n := natBits ((s.dget die offPWRCAP &&& ~~~0xFFFF) ||| (w &&& 0xFFFF)).toNat 15 0
     ∃ t, exec (.registerWrite offPWRCAP w) s = .next t ∧ NoStore s t ∧
       t = if 2000 ≤ n ∧ n ≤ 6500 then s.dset die offPWRCAP (w64 n) else s) ∧
    (s.bar0Up = false → ∀ off, off < bar0 → ∃ t, exec (.registerWrite (bar0 + off) w) s = .next t ∧ t = s) ∧
    (s.bar0Up = true → ∃ t, exec (.registerWrite (bar0 + 0x1008) w) s = .next t ∧ NoStore s t ∧
      t = { s with hostacc := w.setWidth 8 }) ∧
    (s.mbBusy = true → w.getLsbD 63 = true → ∃ t, exec (.registerWrite (bar0 + 0x2000) w) s = .next t ∧ t = s) ∧
    (s.bar0Up = true → s.mbBusy = false → w.getLsbD 63 = true →
      ∃ t, exec (.registerWrite (bar0 + 0x2000) w) s = .next t ∧ NoStore s t ∧
        t = { s with mbcmd := w64 (w.toNat % 256 + 2 ^ 62), mbjob := some (w.toNat % 256, s.mbarg) }) ∧
    (∀ (pa : BitVec 52) (k : Nat) (r : Fin 56) (data : List Byte), data.length = 8 → r.val ≠ 0 →
      (∀ i, i < 8 → locate (pa.toNat + i) = .win (.regs k false (8 * r.val + i))) → s.pendingTok k r.val = false →
      ∃ t, exec (.registerPageWindowWrite pa data) s = .next t ∧ NoStore s t ∧
        (t.coreOf k).live.x = (s.coreOf k).live.x.set r (w64 (leNat data)) ∧
        (t.coreOf k).dup.x = (s.coreOf k).dup.x.set r (w64 (leNat data)) ∧ ∀ j, j ≠ k → t.coreOf j = s.coreOf j) ∧
    (∀ (pa : BitVec 52) (data : List Byte), s.idleRange pa.toNat = true →
      ∃ t, exec (.registerPageWindowWrite pa data) s = .next t ∧ t = s)

/-- A fence closes the die's port, completes the stores it had accepted (the rule lets them fail as well: the model's choice, log 98),
leaves nothing of a copy, a Bellows program or a frame in it and ends its reductions, and so does a failed hub link, a hot die and lost
coolant, of which the last two stop the cores and send vector 9; an opened die's cores run again, and a die whose link has failed stays
shut, an attempt to open it without effect (the model's reading, log 67), until it has retrained, which BOOTSTAT reports in its bits 62:16
(the model's choice, log 69), while whether a hot one opens is open (log 99). Links go down and, once stage 5 of the bring-up is done, up
alone; the clock moves by 25 MHz between 350 and 700; a corrected error counts in SECNT. -/
def Obligations.PackageEvents : Prop :=
  ∀ (s : State),
    let die := keyDie s.here
    die < 8 →
    (NoMember s die → PortIdle s → ∃ t, exec .dieFence s = .next t ∧ Fenced s t die ∧ t.hot = s.hot ∧ t.msix = s.msix) ∧
    (∃ t, exec .dieFence s = .next t ∧
      (∀ k, ∀ x ∈ (t.coreOf k).copies, ∀ r, x.rest = some r → ∀ w ∈ r.ws, portCross die k w.1 = false) ∧
      (∀ p ∈ t.bruns, ∀ q ∈ p.2.rest, ∀ w ∈ q.ws, portCross die p.2.key w.1 = false) ∧ ∀ f ∈ t.frames, f.die ≠ die) ∧
    (∀ pa data a, s.core.rel = [.store pa data a] → PortIdle { s with core := { s.core with rel := [] } } →
      NoMember (s.homeWrite pa data) die → portCross die s.here pa = true → s.Inv →
      (∀ i, i < data.length → memLoc (locate (pa + i)) = true) →
      ∃ t, exec .dieFence s = .next t ∧ StoresAt pa data.length s t ∧ Holds t pa data ∧ t.core.rel = [] ∧
        (t.dget die offPARTCTL).toNat / 2 ^ 8 % 4 = 3) ∧
    (NoMember s die → PortIdle s → ∃ t, exec .hubLinkFailure s = .next t ∧ Fenced s t die ∧ t.hubDown.getLsbD die = true ∧
      ∀ d, d ≠ die → t.hubDown.getLsbD d = s.hubDown.getLsbD d) ∧
    (NoMember s die → PortIdle s → ∃ t, exec .thermalFence s = .next t ∧ Fenced s t die ∧ t.hot.getLsbD die = true ∧
      (∀ d, d ≠ die → t.hot.getLsbD d = s.hot.getLsbD d) ∧ t.msix = s.msix ++ [9]) ∧
    ((∀ d, NoMember s d) → PortIdle s → ∃ t, exec .coolantLoss s = .next t ∧ NoStore s t ∧ t.hot = 0xFF ∧ t.fencing = 0 ∧
      (∀ d, d < 8 → t.fenced d = true) ∧ t.msix = s.msix ++ [9]) ∧
    (s.mayOpen die = false → ∃ t, exec .dieOpen s = .next t ∧ t = s) ∧
    (s.hubDown.getLsbD die = true → s.mayOpen die = false) ∧
    (s.hubDown.getLsbD die = false → s.hot.getLsbD die = false → s.mayOpen die = true) ∧
    (s.mayOpen die = true → ∃ t, exec .dieOpen s = .next t ∧ NoStore s t ∧ t.fenced die = false ∧
      (t.dget die offPARTCTL).getLsbD 8 = false ∧ t.partOf die = s.partOf die ∧ t.hot.getLsbD die = false ∧
      t = { s with dreg := t.dreg, hot := t.hot, fencing := t.fencing }) ∧
    (∃ t, exec .hubLinkRetrain s = .next t ∧ NoStore s t ∧ t = { s with hubDown := t.hubDown, bootstat := t.bootstat } ∧
      (∀ i, (i < 16 ∨ i = 63) → t.bootstat.getLsbD i = s.bootstat.getLsbD i) ∧
      ∀ d, t.hubDown.getLsbD d = (s.hubDown.getLsbD d && decide (d ≠ die))) ∧
    (∀ k, let j := 2 * die + k % 2
      (∃ t, exec (.chimneyLinkDown k) s = .next t ∧ NoStore s t ∧ t = { s with links := t.links } ∧
        ∀ i, i < 16 → t.links.getLsbD i = (s.links.getLsbD i && decide (i ≠ j))) ∧
      (s.portsUp = true → ∃ t, exec (.chimneyLinkUp k) s = .next t ∧ NoStore s t ∧ t = { s with links := t.links } ∧
        ∀ i, i < 16 → t.links.getLsbD i = (s.links.getLsbD i || decide (i = j))) ∧
      (s.portsUp = false → ∃ t, exec (.chimneyLinkUp k) s = .next t ∧ t = s)) ∧
    (∃ t, exec (.clockStep true) s = .next t ∧ NoStore s t ∧
      t = { s with mhz := if s.mhz + 25 ≤ 700 then s.mhz + 25 else s.mhz }) ∧
    (∃ t, exec (.clockStep false) s = .next t ∧ NoStore s t ∧
      t = { s with mhz := if 350 ≤ s.mhz - 25 then s.mhz - 25 else s.mhz }) ∧
    (∃ t, exec .softErrorCorrected s = .next t ∧ NoStore s t ∧ t = { s with dreg := t.dreg } ∧
      (t.dget die offSECNT).toNat =
        (s.dget die offSECNT).toNat / 2 ^ 32 * 2 ^ 32 + min (2 ^ 32 - 1) ((s.dget die offSECNT).toNat % 2 ^ 32 + 1))

namespace Sys2Proof.Claims

/-! ## The host and bring-up (spec/21 R408 to R422) -/

/-- Physical addresses of n bytes of HDM and of BAR2. -/
def hdmAddrs (off n : Nat) : List Nat := (List.range n).map fun i => (off + i) / (48 * 2 ^ 30) * (64 * 2 ^ 30) + (off + i) % (48 * 2 ^ 30)
def bar2Addrs (pa : BitVec 52) (n : Nat) : List Nat := (List.range n).map fun i => pa.toNat + i

/-- What a read of an 8-byte register of BAR0 returns, NOTIFYd apart: LAUNCHd, which is write-only, GO and an offset that has no register
read as zero (spec/00 R5, spec/21 R409, R419, R420). -/
def bar0Word (s : State) (off : Nat) : Word :=
  if off = 0x1000 then s.bootstat
  else if off = 0x1008 then s.hostacc.setWidth 64
  else if off = 0x2000 then w64 (s.mbcmd.toNat % 2 ^ 63)
  else if off = 0x2008 then s.mbarg
  else if off = 0x2010 then s.mbstat
  else 0

/-- An access of the host to bytes in memory proper, which the access table grants or refuses. -/
def HostAccess (s : State) (i : List Nat → Option (List Byte) → Instr) (ps : List Nat) : Prop :=
  ((∀ p ∈ ps, memLoc (locate p) = true) → s.Inv →
    (∀ bs, bs.length = ps.length → s.hostRefused .wr ps = false → ∃ t, exec (i ps (some bs)) s = .next t ∧ Wrote ps bs s t) ∧
    (s.hostRefused .rd ps = false → ∃ t, exec (i ps none) s = .next t ∧ NoStore s t ∧
      t = { s with hostRd := ps.map (memGet s.mem) })) ∧
  (∀ bs, bs.length = ps.length → s.hostRefused .wr ps = true → ∃ t, exec (i ps (some bs)) s = .next t ∧ t = s)

/-- A mailbox command ends: MBSTAT, BUSY clear, vector 8. -/
def CommandEnds (s t : State) (status : Word) : Prop :=
  t.mbstat = status ∧ t.mbBusy = false ∧ t.mbjob = none ∧ t.mbcmd.setWidth 8 = s.mbcmd.setWidth 8 ∧ t.msix = s.msix ++ [8]

/-- The manifest of the running command, at MBARG as GO found it, has one entry, in memory proper. -/
def OneEntry (s : State) : Prop :=
  let a := s.mbJob.2.toNat
  s.bspOk .rd a 8 = true ∧ leNat (s.bspRead a 8) = 1 ∧
  (∀ i, i < 40 → memLoc (locate (a + 8 + i)) = true) ∧ s.Inv

end Sys2Proof.Claims

/-- Once the bring-up's stage 4 is done, the host reads and writes HDM and BAR2 under HOSTACC, and a refused write is not performed (which
accesses each target's table refuses rests on logs 12 and 65); it reads and writes the registers of BAR0 (at addresses of the model's own,
log 9), and a read of NOTIFY takes the oldest entry of its die, or 0. Before that no access of the host has an effect (log 105). A host load
that is not completed in time raises LDF with detail 9, and a host write that waits for its release is marked, by its place in the buffer; a
copy whose host side is late ends with −4. -/
def Obligations.HostAccesses : Prop :=
  ∀ (s : State),
    (s.bar0Up = true →
      (∀ off n, off + n ≤ 384 * 2 ^ 30 → HostAccess s (fun ps d => .hostMemoryAccess off ps.length d) (hdmAddrs off n)) ∧
      (∀ pa n, pa.toNat / 2 ^ 48 = 0xF → HostAccess s (fun ps d => .hostWindowAccess pa ps.length d) (bar2Addrs pa n)) ∧
      (∀ off, off % 8 = 0 → off < 2 ^ 24 → ¬(0x100 ≤ off ∧ off < 0x140) →
        ∃ t, exec (.hostWindowAccess (BitVec.ofNat 52 off) 8 none) s = .next t ∧ NoStore s t ∧
          t = { s with hostRd := leBytes 8 (bar0Word s off).toNat }) ∧
      (∀ off w, off % 8 = 0 → off < 2 ^ 24 →
        exec (.hostWindowAccess (BitVec.ofNat 52 off) 8 (some (leBytes 8 w))) s = exec (.registerWrite (bar0 + off) (w64 w)) s)) ∧
    (s.bar0Up = false → ∀ off pa n d i,
      (i = .hostMemoryAccess off n d ∨ i = .hostWindowAccess pa n d ∨ i = .notifyRead) → ∃ t, exec i s = .next t ∧ t = s) ∧
    (s.bar0Up = true → let die := keyDie s.here
     (s.notes.find? (fun n => n.die == die) = none → ∃ t, exec .notifyRead s = .next t ∧ NoStore s t ∧
       t = { s with hostRd := leBytes 8 0 }) ∧
     (∀ n, s.notes.find? (fun n => n.die == die) = some n → (∀ p ∈ s.launches, p.1 = die → p.2.ended = false) →
       ∃ t, exec .notifyRead s = .next t ∧ NoStore s t ∧
         t = { s with hostRd := leBytes 8 n.word.toNat, notes := s.notes.erase n })) ∧
    (∀ (i : Nat) (o : Outst), s.core.outst[i]? = some o → o.host = true → (∀ x ∈ s.core.outst, x.fault = none) →
      State.CanTrap { s with core := { s.core with outst := [] } } →
      ∃ t, exec (.hostCompletionTimeout i) s = .next t ∧ TrapTaken s t 0x05 9 4 o.pcb o.val s.core.ckpt) ∧
    (∀ (i : Nat) ea pa d cl a, s.core.whb[i]? = some (.store ea pa d cl a) → isHostPa pa = true →
      ∃ t, exec (.hostCompletionTimeout (s.core.outst.length + i)) s = .next t ∧ NoStore s t ∧
        t = { s with core := { s.core with hostLate := i :: s.core.hostLate } }) ∧
    (∀ (i : Nat) (x : Copy) (r : Fin 56), s.core.copies[i]? = some x → OwnsCopy s x r → x.state = .running → x.early = none →
      x.op ≠ .pfd → s.cHosted x = true →
      ∃ t, exec (.hostCompletionTimeout (s.core.outst.length + s.core.whb.length + i)) s = .next t ∧ Ended t x.id ∧
        t.core.live.x = s.core.live.x.set r (tokenWord (-4)))

/-- ATTEST and, once stage 4 of the bring-up is done, SPDM answer a report; an unknown command ends with −1; CKPT writes RESULT 1 for an
entry of another writer, and for its own copies SRC to DST and writes 0, or −4 where the host left an access open. A command runs with OPC
and MBARG as GO found them. Bring-up passes its stages in order, each with what it leaves (which word of its data gives what is the model's
choice, logs 68 and 94); a failure stops it at its stage, and so does firmware with a bad signature or a security version below the fuse
counter at stage 1. A module reset gives the state of reset, but for the device number and the model's own counter of free values. -/
def Obligations.MailboxAndBringUp : Prop :=
  ∀ (s : State),
    (s.mbBusy = true → s.mbOpc = 1 → ∃ t nonce, exec .attest s = .next t ∧ NoStore s t ∧ CommandEnds s t 0 ∧
      t.hostRd = s.reportBytes nonce) ∧
    (∀ nonce, (s.bar0Up = true → ∃ t, exec (.spdmRequest nonce) s = .next t ∧ NoStore s t ∧ t = { s with hostRd := s.reportBytes nonce }) ∧
      (s.bar0Up = false → ∃ t, exec (.spdmRequest nonce) s = .next t ∧ t = s)) ∧
    (s.mbBusy = true → s.mbOpc ≠ 1 → s.mbOpc ≠ 2 →
      ∃ t, exec .mailboxInvalidCommand s = .next t ∧ NoStore s t ∧ CommandEnds s t (-1)) ∧
    (s.mbBusy = true → s.mbOpc = 2 → OneEntry s →
      let e := s.mbJob.2.toNat + 8
      let src := rdNat s.mem e 8
      let len := rdNat s.mem (e + 8) 8
      let dst := rdNat s.mem (e + 16) 8
      (rdNat s.mem (e + 28) 4 ≠ s.device →
        ∃ t, exec .ckpt s = .next t ∧ StoresAt (e + 32) 8 s t ∧ Holds t (e + 32) (leBytes 8 1) ∧ CommandEnds s t 0) ∧
      (rdNat s.mem (e + 28) 4 = s.device → (∀ i, i < len → memLoc (locate (src + i)) = true) →
        (∀ i, i < len → memLoc (locate (dst + i)) = true) →
        ∃ t r, exec .ckpt s = .next t ∧ (r = 0 ∨ r = -4) ∧ Holds t (e + 32) (leBytes 8 (i64 r).toNat) ∧
          (r = 0 → CommandEnds s t 0) ∧ (r = -4 → t.mbstat.getLsbD 63 = true ∧ CommandEnds s t t.mbstat) ∧
          (r = 0 → ∀ i, i < len → (dst + i < e + 32 ∨ e + 40 ≤ dst + i) → memGet t.mem (dst + i) = memGet s.mem (src + i)) ∧
          ∀ a, (a < e + 32 ∨ e + 40 ≤ a) → (a < dst ∨ dst + len ≤ a) → memGet t.mem a = memGet s.mem a)) ∧
    (∀ (err : Byte) (data : List Word),
      let n := natBits s.bootstat.toNat 15 8 + 1
      ((s.bootstat.getLsbD 63 = true ∨ natBits s.bootstat.toNat 7 0 ≠ 0 ∨ 6 < n) →
        ∃ t, exec (.bringUpStage err data) s = .next t ∧ t = s) ∧
      (s.bootstat.getLsbD 63 = false → natBits s.bootstat.toNat 7 0 = 0 → n ≤ 6 →
        (err ≠ 0 → ∃ t, exec (.bringUpStage err data) s = .next t ∧ NoStore s t ∧
          t = { s with bootstat := w64 (n * 256 + err.toNat) }) ∧
        (err = 0 → n = 1 → ∃ t e, exec (.bringUpStage err data) s = .next t ∧ e < 256 ∧ t = { s with bootstat := w64 (256 + e) } ∧
          (e = 0 ↔ Config.ecdsaOk = true ∧ Config.lmsOk = true ∧ Config.fuseCounter ≤ Config.firmwareVersion)) ∧
        (err = 0 → n ≠ 1 → ∃ t, exec (.bringUpStage err data) s = .next t ∧ NoStore s t ∧
          t.bootstat = w64 (n * 256 + if n = 6 then 2 ^ 63 else 0) ∧
          (n = 6 → t = { s with bootstat := t.bootstat }) ∧
          (n = 2 → t = { s with bootstat := t.bootstat, hubDown := 0 }) ∧
          (n = 3 → ∀ i w, i < 576 → data[i]? = some w →
            (t.coreOf (i / 72 * 128 + i % 72)).semap = (w &&& 0x77).setWidth 18) ∧
          (n = 4 → t = { s with bootstat := t.bootstat, hostacc := 0 }) ∧
          (n = 5 → ∀ a b c, (data = [a, b] ∨ data = [a, b, c]) → t.links = b.setWidth 16 ∧
            t.device = (if data.length = 3 then c.toNat % 4096 else s.device) ∧
            ∀ d, d < 8 → t.dget d offFABBASE = a &&& 0xFFFFFFFFFFFFF000)))) ∧
    (∃ t, exec .moduleReset s = .next t ∧ t = { State.reset with ctr := s.ctr, device := s.device })

namespace Sys2Proof.Claims

/-! ## A step (spec/04 R104) -/

/-- The bundle at the program counter is `b`, of syllables `ws`, and its slots issue at `u`: nothing shuts issue, nothing in flight
is due, and a K bundle has made its checkpoint, with nothing refused and no pre-emption asked for. -/
structure Enters (s : State) (ws : List Syl) (b : Bundle) (u : State) : Prop where
  free    : s.issueShut = false ∧ s.core.iss.live = false ∧ s.settle = s ∧ s.core.fillWait = false ∧ s.core.pend = none
  replay  : u.NoReplay
  fetched : s.fetch s.core.pc = .ok ws
  decoded : u.decoded ws = .ok b
  mode    : u.privTrap b = none
  point   : b.hdr.k = true → u.preemptNow b = none
  start   : if (hdrOf (ws.headD 0)).k = true ∧ s.onSaffron = false then
      s.Quiet ∧ (s.begin ws).pushesFit = true ∧
      (let r := (s.begin ws).checkpoint s.core.pc
      refusedTrap s.core.seq s.core.pc r.2 = none ∧
      u = { r.1 with core := { r.1.core with
        iss := { r.1.core.iss with ck := true }, acnt := if (hdrOf (ws.headD 0)).a then 0 else r.1.core.acnt } })
    else u = s.begin ws

/-- The task in focus may run on any core of its AFF, as one that has issued since it resumed. -/
def Unpinned (s : State) : Prop := ∀ k ∈ s.tasks, s.core.task = some k.id → k.pin = none

/-- The state in which an operation that a bundle issues reads its operands. -/
def atOp (u : State) (i : IOp) : State :=
  { u with core := { u.core with iss := { u.core.iss with slot := i.slot, again := i.again, thr := i.thr, piece := 0 } } }

/-- What follows the slots of a bundle that neither repeats, rotates nor transfers, before what is due lands: its effects at its
end, an agreement's outcome first, its counts, and the next bundle's address. -/
structure Passed (v t : State) : Prop where
  pc    : t.core.pc = v.core.iss.next
  live  : t.core.live = (v.core.iss.eob.filter fun w => !w.now).foldl endEffect
    ((v.core.iss.eob.filter EobWrite.now).foldl endEffect v.core.live)
  ctl   : t.core.pbound = v.core.endControls.pbound ∧ t.core.livemask = v.core.endControls.livemask
  done  : t.core.iss = {}
  land  : t.core.land = v.core.land ∧ t.core.outst = v.core.outst ∧ t.core.hops = v.core.hops
  whb   : t.core.whb = v.core.whb
  count : t.core.seq = v.core.seq + 1 ∧ t.core.cyc = v.core.cyc + 1
  rest  : t.tasks = v.tasks ∧ t.parked = v.parked ∧ t.here = v.here ∧ t.dreg = v.dreg
  bytes : NoStore v t

end Sys2Proof.Claims

/-- A step runs the next event at its agent, a fence under way, a group to be decided LOST, a task past its PBOUND, a member past its limit at a
rendezvous or an armed copy that may start first (the model's
agenda and the order of these are its choice, logs 1 and 71), and stops, by name, only where no
such agent exists. Issuing a bundle whose syllables hold one operation, whose guard holds and which nothing holds or traps, is exec
of that operation in its slot, then the end of the bundle and what is due; a bundle without an operation goes there at once. -/
def Obligations.StepRunsTheDecodedInstruction : Prop :=
  (∀ (s : State) (e : Ev) (r : List Ev), s.forced = none → s.agenda = e :: r →
    (agentExists e.who = true →
      step s = exec e.ev (State.focus { s with ctr := s.ctr + 1, agenda := r } e.who)) ∧
    (agentExists e.who = false → step s = .fault (.noAgent e.who))) ∧
  (∀ (s : State), s.fencing ≠ 0 →
    step s = exec .dieFence (State.focus { s with ctr := s.ctr + 1 } (s.fencingDie * 128 + 127))) ∧
  (∀ (s : State) (g : Nat), s.fencing = 0 → s.invalidated = some g → agentExists s.here = true →
    step s = exec (.groupInvalidate g) { s with ctr := s.ctr + 1 }) ∧
  (∀ (s : State) (k : Nat), s.fencing = 0 → s.invalidated = none → s.keys.find? (fun k => (s.focus k).pastBound) = some k →
    agentExists k = true → step s = exec .forcedRollback (State.focus { s with ctr := s.ctr + 1 } k)) ∧
  (∀ (s : State) (k : Nat), s.fencing = 0 → s.invalidated = none → (∀ j ∈ s.keys, (s.focus j).pastBound = false) →
    s.keys.find? (fun k => (s.focus k).joinLate) = some k →
    agentExists k = true → step s = exec .mjoinWaitLimitExpiry (State.focus { s with ctr := s.ctr + 1 } k)) ∧
  (∀ (s : State) (k : Nat) (x : Copy), s.fencing = 0 → s.invalidated = none → (∀ j ∈ s.keys, (s.focus j).pastBound = false) →
    (∀ j ∈ s.keys, (s.focus j).joinLate = false) →
    s.keys.findSome? (fun k => (s.focus k).armNext.map (k, ·)) = some (k, x) →
    agentExists k = true → step s = exec (.armedCopyFire x.id) (State.focus { s with ctr := s.ctr + 1 } k)) ∧
  (∀ (s : State), s.forced = none → s.agenda = [] →
    let u := { s with ctr := s.ctr + 1 }
    (∀ e, u.chosen = some e → agentExists e.who = true → step s = exec e.ev (u.focus e.who)) ∧
    (u.chosen = none → ∃ t, step s = .next t ∧ s.tick < t.tick ∧ t.tasks = s.tasks ∧
      (s.homes = [] → (∀ d, natBits (s.dget d offREPCTL).toNat 1 0 = 0) → NoStore s t))) ∧
  (∀ (i : Instr) (s : State), i.slotOp = true → runSlot i s = exec i s) ∧
  (∀ (s u : State) (ws : List Syl) (b : Bundle), Enters s ws b u → b.hdr.rc = 0 → b.hdr.w = false →
    (∀ i : IOp, u.planSlots b = .go u b [i] false → i.on = true → i.op.slotOp = true →
      i.op.mStart.all (fun p => !hIsJoin p.1) = true →
      ∃ v t, exec i.op (atOp u i) = .next v ∧ exec .bundleIssue s = .next t ∧
        (v.core.iss.live = false → t = v) ∧
        (v.core.iss.live = true → v.core.iss.leave = none → v.core.iss.ending = 0 → v.core.cyc = u.core.cyc → Unpinned v →
          ∃ w, Passed v w ∧ t = w.landDue.hLandDue)) ∧
    (u.planSlots b = .go u b [] false → Unpinned u → ∃ w, Passed u w ∧ exec .bundleIssue s = .next w.landDue.hLandDue))

namespace Sys2Proof.Claims

/-- The words that the manual gives at reset: spec/18 R347, R350, R356, spec/19 R368, R373, spec/20 R384, R403, spec/21 R409, R417,
R419, R423. -/
structure ResetWords (s : State) : Prop where
  fenced : ∀ d, d < 8 → s.fenced d = true ∧ s.partOf d = 0
  semap  : ∀ k, (s.coreOf k).semap = 0
  turns  : ∀ d v, assocGet 63 s.rp (d * 8 + v) = 63
  beats  : s.hbInt = 100000 ∧ s.hbMiss = 4
  power  : s.dget 0 offPWRCAP = 6500
  host   : s.hostacc = 0 ∧ s.mbcmd = 0
  zero   : ∀ d, ∀ o ∈ [offTLBINV, offTRAPVEC, offREPCTL, offCRBASE, offCRPTR], s.dget d o = 0

end Sys2Proof.Claims

/-- Words written out from the encoding tables decode to the instructions they stand for, one of each slot class: a prefix, an
addition, a long immediate, a compare, a load, a wait, a vector addition, an engine register and a copy start. Codes that no table
assigns are refused. -/
def Obligations.TableWordsDecode : Prop :=
  decSlot .p 0x00589800 0 = .ok (.pfx .sto .ovfi .qd 3) ∧
  decSlot .s 0x0080A30E 0 = .ok (.add 5 (.x 6) (.reg (.x 7))) ∧
  decSlot .s 0x4C812001 0x12345678 = .ok (.li 9 (.long 0x12345678)) ∧
  decSlot .s 0x11008084 0 = .ok (.cmplt 1 (.x 1) (.reg (.x 2))) ∧
  decSlot .l 0x0200620A 0 = .ok (.ldN64 3 (.x 4) (.reg (.x 5))) ∧
  decSlot .y 0x00801005 0 = .ok (.wait 2 (.short 5)) ∧
  decSlot .v0 0x40800C02 0x00400040 = .ok (.vadd { ty := .s32, mask := 0, d := 3, a := .row 1, b := .idx 2, c := 0 }) ∧
  decSlot .m 0x00804600 0 = .ok (.mset 3 (.x 2)) ∧
  decSlot .c0 0x0400E000 0 = .ok (.cgo 7 none) ∧
  decSlot .s 0x3F800000 0 = .error .illop ∧ decSlot .l 0x00000000 0 = .error .illop

/-- Every well-formed operation of a slot has an encoding, and whatever slot, stop bit and guard its words are written with, they
decode to it, with that stop bit and guard. -/
def Obligations.EncodedOperationsDecode : Prop :=
  ∀ (i : Instr), i.wf = true → i.slotOp = true →
    (∃ sl, (encSlot sl i).isSome = true) ∧
    ∀ (sl : Slot) (stop : Bool) (guard : Fin 16) (ws : List Syl), encode sl stop guard i = some ws →
      ∃ m r, ws = m :: r ∧ r.length ≤ 1 ∧ decSlot sl m (r.headD 0) = .ok i ∧ m.getLsbD 31 = stop ∧
        (sl ≠ .p → fX m = r.length ∧ fPG m = guard.val)

/-- Every step keeps the memory in its one canonical form. -/
def Obligations.StepsKeepTheMemoryForm : Prop :=
  ∀ (s t : State), s.Inv → step s = .next t → t.Inv

/-- After reset the dies are fenced, every core's SEMAP is 0, the registers stand at the words the field maps give, and memory has its
form. -/
def Obligations.ResetState : Prop := ResetWords State.reset ∧ State.reset.Inv ∧ State.reset.AgentsExist

/-- No instruction and no event stops the machine: exec always answers a next state, and a step of a machine whose agents exist
does too. -/
def Obligations.NothingStops : Prop :=
  (∀ (i : Instr) (s : State), ∃ t, exec i s = .next t) ∧ (∀ (s : State), s.AgentsExist → s.Goes)
end

