-- ==== Sys2Proof/Laws/State.lean ====
section
/-!
SUPPORT. What the plain updates of the state leave alone, field by field: exposing a result, a result to come, an entry of the
withholding buffer, a control register, a byte of memory, the free-value counter.
-/
namespace Sys2Proof.Laws
open Machine

/-! ### expose -/

@[simp] theorem expose_here (s : State) (n : Nat) (ws : List LWrite) : (s.expose n ws).here = s.here := rfl
@[simp] theorem expose_parked (s : State) (n : Nat) (ws : List LWrite) : (s.expose n ws).parked = s.parked := rfl
@[simp] theorem expose_ctr (s : State) (n : Nat) (ws : List LWrite) : (s.expose n ws).ctr = s.ctr := rfl
@[simp] theorem expose_agenda (s : State) (n : Nat) (ws : List LWrite) : (s.expose n ws).agenda = s.agenda := rfl
@[simp] theorem expose_tick (s : State) (n : Nat) (ws : List LWrite) : (s.expose n ws).tick = s.tick := rfl
@[simp] theorem expose_mhz (s : State) (n : Nat) (ws : List LWrite) : (s.expose n ws).mhz = s.mhz := rfl
@[simp] theorem expose_device (s : State) (n : Nat) (ws : List LWrite) : (s.expose n ws).device = s.device := rfl
@[simp] theorem expose_mem (s : State) (n : Nat) (ws : List LWrite) : (s.expose n ws).mem = s.mem := rfl
@[simp] theorem expose_hist (s : State) (n : Nat) (ws : List LWrite) : (s.expose n ws).hist = s.hist := rfl
@[simp] theorem expose_wseq (s : State) (n : Nat) (ws : List LWrite) : (s.expose n ws).wseq = s.wseq := rfl
@[simp] theorem expose_dreg (s : State) (n : Nat) (ws : List LWrite) : (s.expose n ws).dreg = s.dreg := rfl
@[simp] theorem expose_tlb (s : State) (n : Nat) (ws : List LWrite) : (s.expose n ws).tlb = s.tlb := rfl
@[simp] theorem expose_barAt (s : State) (n : Nat) (ws : List LWrite) : (s.expose n ws).barAt = s.barAt := rfl
@[simp] theorem expose_tasks (s : State) (n : Nat) (ws : List LWrite) : (s.expose n ws).tasks = s.tasks := rfl
@[simp] theorem expose_nextId (s : State) (n : Nat) (ws : List LWrite) : (s.expose n ws).nextId = s.nextId := rfl
@[simp] theorem expose_launches (s : State) (n : Nat) (ws : List LWrite) : (s.expose n ws).launches = s.launches := rfl
@[simp] theorem expose_mqs (s : State) (n : Nat) (ws : List LWrite) : (s.expose n ws).mqs = s.mqs := rfl
@[simp] theorem expose_rp (s : State) (n : Nat) (ws : List LWrite) : (s.expose n ws).rp = s.rp := rfl
@[simp] theorem expose_bals (s : State) (n : Nat) (ws : List LWrite) : (s.expose n ws).bals = s.bals := rfl
@[simp] theorem expose_homes (s : State) (n : Nat) (ws : List LWrite) : (s.expose n ws).homes = s.homes := rfl
@[simp] theorem expose_agMail (s : State) (n : Nat) (ws : List LWrite) : (s.expose n ws).agMail = s.agMail := rfl
@[simp] theorem expose_mseq (s : State) (n : Nat) (ws : List LWrite) : (s.expose n ws).mseq = s.mseq := rfl
@[simp] theorem expose_absent (s : State) (n : Nat) (ws : List LWrite) : (s.expose n ws).absent = s.absent := rfl
@[simp] theorem expose_goneAt (s : State) (n : Nat) (ws : List LWrite) : (s.expose n ws).goneAt = s.goneAt := rfl
@[simp] theorem expose_invSeen (s : State) (n : Nat) (ws : List LWrite) : (s.expose n ws).invSeen = s.invSeen := rfl
@[simp] theorem expose_rptGot (s : State) (n : Nat) (ws : List LWrite) : (s.expose n ws).rptGot = s.rptGot := rfl
@[simp] theorem expose_grpCtx (s : State) (n : Nat) (ws : List LWrite) : (s.expose n ws).grpCtx = s.grpCtx := rfl
@[simp] theorem expose_beats (s : State) (n : Nat) (ws : List LWrite) : (s.expose n ws).beats = s.beats := rfl
@[simp] theorem expose_lost (s : State) (n : Nat) (ws : List LWrite) : (s.expose n ws).lost = s.lost := rfl
@[simp] theorem expose_beatTick (s : State) (n : Nat) (ws : List LWrite) : (s.expose n ws).beatTick = s.beatTick := rfl
@[simp] theorem expose_links (s : State) (n : Nat) (ws : List LWrite) : (s.expose n ws).links = s.links := rfl
@[simp] theorem expose_fencing (s : State) (n : Nat) (ws : List LWrite) : (s.expose n ws).fencing = s.fencing := rfl
@[simp] theorem expose_hubDown (s : State) (n : Nat) (ws : List LWrite) : (s.expose n ws).hubDown = s.hubDown := rfl
@[simp] theorem expose_bruns (s : State) (n : Nat) (ws : List LWrite) : (s.expose n ws).bruns = s.bruns := rfl
@[simp] theorem expose_staging (s : State) (n : Nat) (ws : List LWrite) : (s.expose n ws).staging = s.staging := rfl
@[simp] theorem expose_frames (s : State) (n : Nat) (ws : List LWrite) : (s.expose n ws).frames = s.frames := rfl
@[simp] theorem expose_stageCap (s : State) (n : Nat) (ws : List LWrite) : (s.expose n ws).stageCap = s.stageCap := rfl
@[simp] theorem expose_notes (s : State) (n : Nat) (ws : List LWrite) : (s.expose n ws).notes = s.notes := rfl
@[simp] theorem expose_msix (s : State) (n : Nat) (ws : List LWrite) : (s.expose n ws).msix = s.msix := rfl
@[simp] theorem expose_hostRd (s : State) (n : Nat) (ws : List LWrite) : (s.expose n ws).hostRd = s.hostRd := rfl
@[simp] theorem expose_rxStat (s : State) (n : Nat) (ws : List LWrite) : (s.expose n ws).rxStat = s.rxStat := rfl
@[simp] theorem expose_hostacc (s : State) (n : Nat) (ws : List LWrite) : (s.expose n ws).hostacc = s.hostacc := rfl
@[simp] theorem expose_mbcmd (s : State) (n : Nat) (ws : List LWrite) : (s.expose n ws).mbcmd = s.mbcmd := rfl
@[simp] theorem expose_mbarg (s : State) (n : Nat) (ws : List LWrite) : (s.expose n ws).mbarg = s.mbarg := rfl
@[simp] theorem expose_mbjob (s : State) (n : Nat) (ws : List LWrite) : (s.expose n ws).mbjob = s.mbjob := rfl
@[simp] theorem expose_mbstat (s : State) (n : Nat) (ws : List LWrite) : (s.expose n ws).mbstat = s.mbstat := rfl
@[simp] theorem expose_bootstat (s : State) (n : Nat) (ws : List LWrite) : (s.expose n ws).bootstat = s.bootstat := rfl
@[simp] theorem expose_hot (s : State) (n : Nat) (ws : List LWrite) : (s.expose n ws).hot = s.hot := rfl

@[simp] theorem expose_core_phase (s : State) (n : Nat) (ws : List LWrite) : (s.expose n ws).core.phase = s.core.phase := rfl
@[simp] theorem expose_core_live (s : State) (n : Nat) (ws : List LWrite) : (s.expose n ws).core.live = s.core.live := rfl
@[simp] theorem expose_core_dup (s : State) (n : Nat) (ws : List LWrite) : (s.expose n ws).core.dup = s.core.dup := rfl
@[simp] theorem expose_core_pc (s : State) (n : Nat) (ws : List LWrite) : (s.expose n ws).core.pc = s.core.pc := rfl
@[simp] theorem expose_core_flags (s : State) (n : Nat) (ws : List LWrite) : (s.expose n ws).core.flags = s.core.flags := rfl
@[simp] theorem expose_core_fseq (s : State) (n : Nat) (ws : List LWrite) : (s.expose n ws).core.fseq = s.core.fseq := rfl
@[simp] theorem expose_core_rows (s : State) (n : Nat) (ws : List LWrite) : (s.expose n ws).core.rows = s.core.rows := rfl
@[simp] theorem expose_core_rowOld (s : State) (n : Nat) (ws : List LWrite) : (s.expose n ws).core.rowOld = s.core.rowOld := rfl
@[simp] theorem expose_core_ember (s : State) (n : Nat) (ws : List LWrite) : (s.expose n ws).core.ember = s.core.ember := rfl
@[simp] theorem expose_core_bstore (s : State) (n : Nat) (ws : List LWrite) : (s.expose n ws).core.bstore = s.core.bstore := rfl
@[simp] theorem expose_core_epoch (s : State) (n : Nat) (ws : List LWrite) : (s.expose n ws).core.epoch = s.core.epoch := rfl
@[simp] theorem expose_core_cyc (s : State) (n : Nat) (ws : List LWrite) : (s.expose n ws).core.cyc = s.core.cyc := rfl
@[simp] theorem expose_core_seq (s : State) (n : Nat) (ws : List LWrite) : (s.expose n ws).core.seq = s.core.seq := rfl
@[simp] theorem expose_core_hops (s : State) (n : Nat) (ws : List LWrite) : (s.expose n ws).core.hops = s.core.hops := rfl
@[simp] theorem expose_core_copies (s : State) (n : Nat) (ws : List LWrite) : (s.expose n ws).core.copies = s.core.copies := rfl
@[simp] theorem expose_core_nid (s : State) (n : Nat) (ws : List LWrite) : (s.expose n ws).core.nid = s.core.nid := rfl
@[simp] theorem expose_core_cposts (s : State) (n : Nat) (ws : List LWrite) : (s.expose n ws).core.cposts = s.core.cposts := rfl
@[simp] theorem expose_core_whb (s : State) (n : Nat) (ws : List LWrite) : (s.expose n ws).core.whb = s.core.whb := rfl
@[simp] theorem expose_core_rel (s : State) (n : Nat) (ws : List LWrite) : (s.expose n ws).core.rel = s.core.rel := rfl
@[simp] theorem expose_core_hostLate (s : State) (n : Nat) (ws : List LWrite) : (s.expose n ws).core.hostLate = s.core.hostLate := rfl
@[simp] theorem expose_core_once (s : State) (n : Nat) (ws : List LWrite) : (s.expose n ws).core.once = s.core.once := rfl
@[simp] theorem expose_core_once2 (s : State) (n : Nat) (ws : List LWrite) : (s.expose n ws).core.once2 = s.core.once2 := rfl
@[simp] theorem expose_core_sticky (s : State) (n : Nat) (ws : List LWrite) : (s.expose n ws).core.sticky = s.core.sticky := rfl
@[simp] theorem expose_core_agw (s : State) (n : Nat) (ws : List LWrite) : (s.expose n ws).core.agw = s.core.agw := rfl
@[simp] theorem expose_core_runAhead (s : State) (n : Nat) (ws : List LWrite) : (s.expose n ws).core.runAhead = s.core.runAhead := rfl
@[simp] theorem expose_core_heldTrap (s : State) (n : Nat) (ws : List LWrite) : (s.expose n ws).core.heldTrap = s.core.heldTrap := rfl
@[simp] theorem expose_core_pend (s : State) (n : Nat) (ws : List LWrite) : (s.expose n ws).core.pend = s.core.pend := rfl
@[simp] theorem expose_core_fence (s : State) (n : Nat) (ws : List LWrite) : (s.expose n ws).core.fence = s.core.fence := rfl
@[simp] theorem expose_core_drain (s : State) (n : Nat) (ws : List LWrite) : (s.expose n ws).core.drain = s.core.drain := rfl
@[simp] theorem expose_core_iss (s : State) (n : Nat) (ws : List LWrite) : (s.expose n ws).core.iss = s.core.iss := rfl
@[simp] theorem expose_core_joinAt (s : State) (n : Nat) (ws : List LWrite) : (s.expose n ws).core.joinAt = s.core.joinAt := rfl
@[simp] theorem expose_core_ifseq (s : State) (n : Nat) (ws : List LWrite) : (s.expose n ws).core.ifseq = s.core.ifseq := rfl
@[simp] theorem expose_core_acq (s : State) (n : Nat) (ws : List LWrite) : (s.expose n ws).core.acq = s.core.acq := rfl
@[simp] theorem expose_core_lastWr (s : State) (n : Nat) (ws : List LWrite) : (s.expose n ws).core.lastWr = s.core.lastWr := rfl
@[simp] theorem expose_core_tacq (s : State) (n : Nat) (ws : List LWrite) : (s.expose n ws).core.tacq = s.core.tacq := rfl
@[simp] theorem expose_core_tcw (s : State) (n : Nat) (ws : List LWrite) : (s.expose n ws).core.tcw = s.core.tcw := rfl
@[simp] theorem expose_core_pbound (s : State) (n : Nat) (ws : List LWrite) : (s.expose n ws).core.pbound = s.core.pbound := rfl
@[simp] theorem expose_core_acnt (s : State) (n : Nat) (ws : List LWrite) : (s.expose n ws).core.acnt = s.core.acnt := rfl
@[simp] theorem expose_core_livemask (s : State) (n : Nat) (ws : List LWrite) : (s.expose n ws).core.livemask = s.core.livemask := rfl
@[simp] theorem expose_core_ptroot (s : State) (n : Nat) (ws : List LWrite) : (s.expose n ws).core.ptroot = s.core.ptroot := rfl
@[simp] theorem expose_core_accid (s : State) (n : Nat) (ws : List LWrite) : (s.expose n ws).core.accid = s.core.accid := rfl
@[simp] theorem expose_core_quota (s : State) (n : Nat) (ws : List LWrite) : (s.expose n ws).core.quota = s.core.quota := rfl
@[simp] theorem expose_core_hroot (s : State) (n : Nat) (ws : List LWrite) : (s.expose n ws).core.hroot = s.core.hroot := rfl
@[simp] theorem expose_core_hquota (s : State) (n : Nat) (ws : List LWrite) : (s.expose n ws).core.hquota = s.core.hquota := rfl
@[simp] theorem expose_core_trtcw (s : State) (n : Nat) (ws : List LWrite) : (s.expose n ws).core.trtcw = s.core.trtcw := rfl
@[simp] theorem expose_core_trpc (s : State) (n : Nat) (ws : List LWrite) : (s.expose n ws).core.trpc = s.core.trpc := rfl
@[simp] theorem expose_core_semap (s : State) (n : Nat) (ws : List LWrite) : (s.expose n ws).core.semap = s.core.semap := rfl
@[simp] theorem expose_core_tcause (s : State) (n : Nat) (ws : List LWrite) : (s.expose n ws).core.tcause = s.core.tcause := rfl
@[simp] theorem expose_core_tbund (s : State) (n : Nat) (ws : List LWrite) : (s.expose n ws).core.tbund = s.core.tbund := rfl
@[simp] theorem expose_core_taddr (s : State) (n : Nat) (ws : List LWrite) : (s.expose n ws).core.taddr = s.core.taddr := rfl
@[simp] theorem expose_core_tckpt (s : State) (n : Nat) (ws : List LWrite) : (s.expose n ws).core.tckpt = s.core.tckpt := rfl
@[simp] theorem expose_core_tres0 (s : State) (n : Nat) (ws : List LWrite) : (s.expose n ws).core.tres0 = s.core.tres0 := rfl
@[simp] theorem expose_core_tres1 (s : State) (n : Nat) (ws : List LWrite) : (s.expose n ws).core.tres1 = s.core.tres1 := rfl
@[simp] theorem expose_core_tres2 (s : State) (n : Nat) (ws : List LWrite) : (s.expose n ws).core.tres2 = s.core.tres2 := rfl
@[simp] theorem expose_core_tstart (s : State) (n : Nat) (ws : List LWrite) : (s.expose n ws).core.tstart = s.core.tstart := rfl
@[simp] theorem expose_core_ttick (s : State) (n : Nat) (ws : List LWrite) : (s.expose n ws).core.ttick = s.core.ttick := rfl
@[simp] theorem expose_core_task (s : State) (n : Nat) (ws : List LWrite) : (s.expose n ws).core.task = s.core.task := rfl
@[simp] theorem expose_core_prio (s : State) (n : Nat) (ws : List LWrite) : (s.expose n ws).core.prio = s.core.prio := rfl
@[simp] theorem expose_core_req (s : State) (n : Nat) (ws : List LWrite) : (s.expose n ws).core.req = s.core.req := rfl
@[simp] theorem expose_core_saveTo (s : State) (n : Nat) (ws : List LWrite) : (s.expose n ws).core.saveTo = s.core.saveTo := rfl
@[simp] theorem expose_core_saveWhy (s : State) (n : Nat) (ws : List LWrite) : (s.expose n ws).core.saveWhy = s.core.saveWhy := rfl
@[simp] theorem expose_core_ckpt (s : State) (n : Nat) (ws : List LWrite) : (s.expose n ws).core.ckpt = s.core.ckpt := rfl
@[simp] theorem expose_core_ckKeep (s : State) (n : Nat) (ws : List LWrite) : (s.expose n ws).core.ckKeep = s.core.ckKeep := rfl
@[simp] theorem expose_core_soft (s : State) (n : Nat) (ws : List LWrite) : (s.expose n ws).core.soft = s.core.soft := rfl
@[simp] theorem expose_core_icnt (s : State) (n : Nat) (ws : List LWrite) : (s.expose n ws).core.icnt = s.core.icnt := rfl
@[simp] theorem expose_core_icntCk (s : State) (n : Nat) (ws : List LWrite) : (s.expose n ws).core.icntCk = s.core.icntCk := rfl
@[simp] theorem expose_core_trk (s : State) (n : Nat) (ws : List LWrite) : (s.expose n ws).core.trk = s.core.trk := rfl
@[simp] theorem expose_core_sr (s : State) (n : Nat) (ws : List LWrite) : (s.expose n ws).core.sr = s.core.sr := rfl
@[simp] theorem expose_core_sreq (s : State) (n : Nat) (ws : List LWrite) : (s.expose n ws).core.sreq = s.core.sreq := rfl
@[simp] theorem expose_core_srqf (s : State) (n : Nat) (ws : List LWrite) : (s.expose n ws).core.srqf = s.core.srqf := rfl

/-! ### result -/

@[simp] theorem result_here (s : State) (o : Outst) : (s.result o).here = s.here := rfl
@[simp] theorem result_parked (s : State) (o : Outst) : (s.result o).parked = s.parked := rfl
@[simp] theorem result_ctr (s : State) (o : Outst) : (s.result o).ctr = s.ctr := rfl
@[simp] theorem result_agenda (s : State) (o : Outst) : (s.result o).agenda = s.agenda := rfl
@[simp] theorem result_tick (s : State) (o : Outst) : (s.result o).tick = s.tick := rfl
@[simp] theorem result_mhz (s : State) (o : Outst) : (s.result o).mhz = s.mhz := rfl
@[simp] theorem result_device (s : State) (o : Outst) : (s.result o).device = s.device := rfl
@[simp] theorem result_mem (s : State) (o : Outst) : (s.result o).mem = s.mem := rfl
@[simp] theorem result_hist (s : State) (o : Outst) : (s.result o).hist = s.hist := rfl
@[simp] theorem result_wseq (s : State) (o : Outst) : (s.result o).wseq = s.wseq := rfl
@[simp] theorem result_dreg (s : State) (o : Outst) : (s.result o).dreg = s.dreg := rfl
@[simp] theorem result_tlb (s : State) (o : Outst) : (s.result o).tlb = s.tlb := rfl
@[simp] theorem result_barAt (s : State) (o : Outst) : (s.result o).barAt = s.barAt := rfl
@[simp] theorem result_tasks (s : State) (o : Outst) : (s.result o).tasks = s.tasks := rfl
@[simp] theorem result_nextId (s : State) (o : Outst) : (s.result o).nextId = s.nextId := rfl
@[simp] theorem result_launches (s : State) (o : Outst) : (s.result o).launches = s.launches := rfl
@[simp] theorem result_mqs (s : State) (o : Outst) : (s.result o).mqs = s.mqs := rfl
@[simp] theorem result_rp (s : State) (o : Outst) : (s.result o).rp = s.rp := rfl
@[simp] theorem result_bals (s : State) (o : Outst) : (s.result o).bals = s.bals := rfl
@[simp] theorem result_homes (s : State) (o : Outst) : (s.result o).homes = s.homes := rfl
@[simp] theorem result_agMail (s : State) (o : Outst) : (s.result o).agMail = s.agMail := rfl
@[simp] theorem result_mseq (s : State) (o : Outst) : (s.result o).mseq = s.mseq := rfl
@[simp] theorem result_absent (s : State) (o : Outst) : (s.result o).absent = s.absent := rfl
@[simp] theorem result_goneAt (s : State) (o : Outst) : (s.result o).goneAt = s.goneAt := rfl
@[simp] theorem result_invSeen (s : State) (o : Outst) : (s.result o).invSeen = s.invSeen := rfl
@[simp] theorem result_rptGot (s : State) (o : Outst) : (s.result o).rptGot = s.rptGot := rfl
@[simp] theorem result_grpCtx (s : State) (o : Outst) : (s.result o).grpCtx = s.grpCtx := rfl
@[simp] theorem result_beats (s : State) (o : Outst) : (s.result o).beats = s.beats := rfl
@[simp] theorem result_lost (s : State) (o : Outst) : (s.result o).lost = s.lost := rfl
@[simp] theorem result_beatTick (s : State) (o : Outst) : (s.result o).beatTick = s.beatTick := rfl
@[simp] theorem result_links (s : State) (o : Outst) : (s.result o).links = s.links := rfl
@[simp] theorem result_fencing (s : State) (o : Outst) : (s.result o).fencing = s.fencing := rfl
@[simp] theorem result_hubDown (s : State) (o : Outst) : (s.result o).hubDown = s.hubDown := rfl
@[simp] theorem result_bruns (s : State) (o : Outst) : (s.result o).bruns = s.bruns := rfl
@[simp] theorem result_staging (s : State) (o : Outst) : (s.result o).staging = s.staging := rfl
@[simp] theorem result_frames (s : State) (o : Outst) : (s.result o).frames = s.frames := rfl
@[simp] theorem result_stageCap (s : State) (o : Outst) : (s.result o).stageCap = s.stageCap := rfl
@[simp] theorem result_notes (s : State) (o : Outst) : (s.result o).notes = s.notes := rfl
@[simp] theorem result_msix (s : State) (o : Outst) : (s.result o).msix = s.msix := rfl
@[simp] theorem result_hostRd (s : State) (o : Outst) : (s.result o).hostRd = s.hostRd := rfl
@[simp] theorem result_rxStat (s : State) (o : Outst) : (s.result o).rxStat = s.rxStat := rfl
@[simp] theorem result_hostacc (s : State) (o : Outst) : (s.result o).hostacc = s.hostacc := rfl
@[simp] theorem result_mbcmd (s : State) (o : Outst) : (s.result o).mbcmd = s.mbcmd := rfl
@[simp] theorem result_mbarg (s : State) (o : Outst) : (s.result o).mbarg = s.mbarg := rfl
@[simp] theorem result_mbjob (s : State) (o : Outst) : (s.result o).mbjob = s.mbjob := rfl
@[simp] theorem result_mbstat (s : State) (o : Outst) : (s.result o).mbstat = s.mbstat := rfl
@[simp] theorem result_bootstat (s : State) (o : Outst) : (s.result o).bootstat = s.bootstat := rfl
@[simp] theorem result_hot (s : State) (o : Outst) : (s.result o).hot = s.hot := rfl

@[simp] theorem result_core_phase (s : State) (o : Outst) : (s.result o).core.phase = s.core.phase := rfl
@[simp] theorem result_core_live (s : State) (o : Outst) : (s.result o).core.live = s.core.live := rfl
@[simp] theorem result_core_dup (s : State) (o : Outst) : (s.result o).core.dup = s.core.dup := rfl
@[simp] theorem result_core_pc (s : State) (o : Outst) : (s.result o).core.pc = s.core.pc := rfl
@[simp] theorem result_core_flags (s : State) (o : Outst) : (s.result o).core.flags = s.core.flags := rfl
@[simp] theorem result_core_fseq (s : State) (o : Outst) : (s.result o).core.fseq = s.core.fseq := rfl
@[simp] theorem result_core_rows (s : State) (o : Outst) : (s.result o).core.rows = s.core.rows := rfl
@[simp] theorem result_core_rowOld (s : State) (o : Outst) : (s.result o).core.rowOld = s.core.rowOld := rfl
@[simp] theorem result_core_ember (s : State) (o : Outst) : (s.result o).core.ember = s.core.ember := rfl
@[simp] theorem result_core_bstore (s : State) (o : Outst) : (s.result o).core.bstore = s.core.bstore := rfl
@[simp] theorem result_core_epoch (s : State) (o : Outst) : (s.result o).core.epoch = s.core.epoch := rfl
@[simp] theorem result_core_cyc (s : State) (o : Outst) : (s.result o).core.cyc = s.core.cyc := rfl
@[simp] theorem result_core_seq (s : State) (o : Outst) : (s.result o).core.seq = s.core.seq := rfl
@[simp] theorem result_core_land (s : State) (o : Outst) : (s.result o).core.land = s.core.land := rfl
@[simp] theorem result_core_hops (s : State) (o : Outst) : (s.result o).core.hops = s.core.hops := rfl
@[simp] theorem result_core_copies (s : State) (o : Outst) : (s.result o).core.copies = s.core.copies := rfl
@[simp] theorem result_core_nid (s : State) (o : Outst) : (s.result o).core.nid = s.core.nid := rfl
@[simp] theorem result_core_cposts (s : State) (o : Outst) : (s.result o).core.cposts = s.core.cposts := rfl
@[simp] theorem result_core_whb (s : State) (o : Outst) : (s.result o).core.whb = s.core.whb := rfl
@[simp] theorem result_core_rel (s : State) (o : Outst) : (s.result o).core.rel = s.core.rel := rfl
@[simp] theorem result_core_hostLate (s : State) (o : Outst) : (s.result o).core.hostLate = s.core.hostLate := rfl
@[simp] theorem result_core_once (s : State) (o : Outst) : (s.result o).core.once = s.core.once := rfl
@[simp] theorem result_core_once2 (s : State) (o : Outst) : (s.result o).core.once2 = s.core.once2 := rfl
@[simp] theorem result_core_sticky (s : State) (o : Outst) : (s.result o).core.sticky = s.core.sticky := rfl
@[simp] theorem result_core_agw (s : State) (o : Outst) : (s.result o).core.agw = s.core.agw := rfl
@[simp] theorem result_core_runAhead (s : State) (o : Outst) : (s.result o).core.runAhead = s.core.runAhead := rfl
@[simp] theorem result_core_heldTrap (s : State) (o : Outst) : (s.result o).core.heldTrap = s.core.heldTrap := rfl
@[simp] theorem result_core_pend (s : State) (o : Outst) : (s.result o).core.pend = s.core.pend := rfl
@[simp] theorem result_core_fence (s : State) (o : Outst) : (s.result o).core.fence = s.core.fence := rfl
@[simp] theorem result_core_drain (s : State) (o : Outst) : (s.result o).core.drain = s.core.drain := rfl
@[simp] theorem result_core_iss (s : State) (o : Outst) : (s.result o).core.iss = s.core.iss := rfl
@[simp] theorem result_core_joinAt (s : State) (o : Outst) : (s.result o).core.joinAt = s.core.joinAt := rfl
@[simp] theorem result_core_ifseq (s : State) (o : Outst) : (s.result o).core.ifseq = s.core.ifseq := rfl
@[simp] theorem result_core_acq (s : State) (o : Outst) : (s.result o).core.acq = s.core.acq := rfl
@[simp] theorem result_core_lastWr (s : State) (o : Outst) : (s.result o).core.lastWr = s.core.lastWr := rfl
@[simp] theorem result_core_tacq (s : State) (o : Outst) : (s.result o).core.tacq = s.core.tacq := rfl
@[simp] theorem result_core_tcw (s : State) (o : Outst) : (s.result o).core.tcw = s.core.tcw := rfl
@[simp] theorem result_core_pbound (s : State) (o : Outst) : (s.result o).core.pbound = s.core.pbound := rfl
@[simp] theorem result_core_acnt (s : State) (o : Outst) : (s.result o).core.acnt = s.core.acnt := rfl
@[simp] theorem result_core_livemask (s : State) (o : Outst) : (s.result o).core.livemask = s.core.livemask := rfl
@[simp] theorem result_core_ptroot (s : State) (o : Outst) : (s.result o).core.ptroot = s.core.ptroot := rfl
@[simp] theorem result_core_accid (s : State) (o : Outst) : (s.result o).core.accid = s.core.accid := rfl
@[simp] theorem result_core_quota (s : State) (o : Outst) : (s.result o).core.quota = s.core.quota := rfl
@[simp] theorem result_core_hroot (s : State) (o : Outst) : (s.result o).core.hroot = s.core.hroot := rfl
@[simp] theorem result_core_hquota (s : State) (o : Outst) : (s.result o).core.hquota = s.core.hquota := rfl
@[simp] theorem result_core_trtcw (s : State) (o : Outst) : (s.result o).core.trtcw = s.core.trtcw := rfl
@[simp] theorem result_core_trpc (s : State) (o : Outst) : (s.result o).core.trpc = s.core.trpc := rfl
@[simp] theorem result_core_semap (s : State) (o : Outst) : (s.result o).core.semap = s.core.semap := rfl
@[simp] theorem result_core_tcause (s : State) (o : Outst) : (s.result o).core.tcause = s.core.tcause := rfl
@[simp] theorem result_core_tbund (s : State) (o : Outst) : (s.result o).core.tbund = s.core.tbund := rfl
@[simp] theorem result_core_taddr (s : State) (o : Outst) : (s.result o).core.taddr = s.core.taddr := rfl
@[simp] theorem result_core_tckpt (s : State) (o : Outst) : (s.result o).core.tckpt = s.core.tckpt := rfl
@[simp] theorem result_core_tres0 (s : State) (o : Outst) : (s.result o).core.tres0 = s.core.tres0 := rfl
@[simp] theorem result_core_tres1 (s : State) (o : Outst) : (s.result o).core.tres1 = s.core.tres1 := rfl
@[simp] theorem result_core_tres2 (s : State) (o : Outst) : (s.result o).core.tres2 = s.core.tres2 := rfl
@[simp] theorem result_core_tstart (s : State) (o : Outst) : (s.result o).core.tstart = s.core.tstart := rfl
@[simp] theorem result_core_ttick (s : State) (o : Outst) : (s.result o).core.ttick = s.core.ttick := rfl
@[simp] theorem result_core_task (s : State) (o : Outst) : (s.result o).core.task = s.core.task := rfl
@[simp] theorem result_core_prio (s : State) (o : Outst) : (s.result o).core.prio = s.core.prio := rfl
@[simp] theorem result_core_req (s : State) (o : Outst) : (s.result o).core.req = s.core.req := rfl
@[simp] theorem result_core_saveTo (s : State) (o : Outst) : (s.result o).core.saveTo = s.core.saveTo := rfl
@[simp] theorem result_core_saveWhy (s : State) (o : Outst) : (s.result o).core.saveWhy = s.core.saveWhy := rfl
@[simp] theorem result_core_ckpt (s : State) (o : Outst) : (s.result o).core.ckpt = s.core.ckpt := rfl
@[simp] theorem result_core_ckKeep (s : State) (o : Outst) : (s.result o).core.ckKeep = s.core.ckKeep := rfl
@[simp] theorem result_core_soft (s : State) (o : Outst) : (s.result o).core.soft = s.core.soft := rfl
@[simp] theorem result_core_icnt (s : State) (o : Outst) : (s.result o).core.icnt = s.core.icnt := rfl
@[simp] theorem result_core_icntCk (s : State) (o : Outst) : (s.result o).core.icntCk = s.core.icntCk := rfl
@[simp] theorem result_core_trk (s : State) (o : Outst) : (s.result o).core.trk = s.core.trk := rfl
@[simp] theorem result_core_sr (s : State) (o : Outst) : (s.result o).core.sr = s.core.sr := rfl
@[simp] theorem result_core_sreq (s : State) (o : Outst) : (s.result o).core.sreq = s.core.sreq := rfl
@[simp] theorem result_core_srqf (s : State) (o : Outst) : (s.result o).core.srqf = s.core.srqf := rfl

/-! ### withhold -/

@[simp] theorem withhold_here (s : State) (e : WEntry) : (s.withhold e).here = s.here := rfl
@[simp] theorem withhold_parked (s : State) (e : WEntry) : (s.withhold e).parked = s.parked := rfl
@[simp] theorem withhold_ctr (s : State) (e : WEntry) : (s.withhold e).ctr = s.ctr := rfl
@[simp] theorem withhold_agenda (s : State) (e : WEntry) : (s.withhold e).agenda = s.agenda := rfl
@[simp] theorem withhold_tick (s : State) (e : WEntry) : (s.withhold e).tick = s.tick := rfl
@[simp] theorem withhold_mhz (s : State) (e : WEntry) : (s.withhold e).mhz = s.mhz := rfl
@[simp] theorem withhold_device (s : State) (e : WEntry) : (s.withhold e).device = s.device := rfl
@[simp] theorem withhold_mem (s : State) (e : WEntry) : (s.withhold e).mem = s.mem := rfl
@[simp] theorem withhold_hist (s : State) (e : WEntry) : (s.withhold e).hist = s.hist := rfl
@[simp] theorem withhold_wseq (s : State) (e : WEntry) : (s.withhold e).wseq = s.wseq := rfl
@[simp] theorem withhold_dreg (s : State) (e : WEntry) : (s.withhold e).dreg = s.dreg := rfl
@[simp] theorem withhold_tlb (s : State) (e : WEntry) : (s.withhold e).tlb = s.tlb := rfl
@[simp] theorem withhold_barAt (s : State) (e : WEntry) : (s.withhold e).barAt = s.barAt := rfl
@[simp] theorem withhold_tasks (s : State) (e : WEntry) : (s.withhold e).tasks = s.tasks := rfl
@[simp] theorem withhold_nextId (s : State) (e : WEntry) : (s.withhold e).nextId = s.nextId := rfl
@[simp] theorem withhold_launches (s : State) (e : WEntry) : (s.withhold e).launches = s.launches := rfl
@[simp] theorem withhold_mqs (s : State) (e : WEntry) : (s.withhold e).mqs = s.mqs := rfl
@[simp] theorem withhold_rp (s : State) (e : WEntry) : (s.withhold e).rp = s.rp := rfl
@[simp] theorem withhold_bals (s : State) (e : WEntry) : (s.withhold e).bals = s.bals := rfl
@[simp] theorem withhold_homes (s : State) (e : WEntry) : (s.withhold e).homes = s.homes := rfl
@[simp] theorem withhold_agMail (s : State) (e : WEntry) : (s.withhold e).agMail = s.agMail := rfl
@[simp] theorem withhold_mseq (s : State) (e : WEntry) : (s.withhold e).mseq = s.mseq := rfl
@[simp] theorem withhold_absent (s : State) (e : WEntry) : (s.withhold e).absent = s.absent := rfl
@[simp] theorem withhold_goneAt (s : State) (e : WEntry) : (s.withhold e).goneAt = s.goneAt := rfl
@[simp] theorem withhold_invSeen (s : State) (e : WEntry) : (s.withhold e).invSeen = s.invSeen := rfl
@[simp] theorem withhold_rptGot (s : State) (e : WEntry) : (s.withhold e).rptGot = s.rptGot := rfl
@[simp] theorem withhold_grpCtx (s : State) (e : WEntry) : (s.withhold e).grpCtx = s.grpCtx := rfl
@[simp] theorem withhold_beats (s : State) (e : WEntry) : (s.withhold e).beats = s.beats := rfl
@[simp] theorem withhold_lost (s : State) (e : WEntry) : (s.withhold e).lost = s.lost := rfl
@[simp] theorem withhold_beatTick (s : State) (e : WEntry) : (s.withhold e).beatTick = s.beatTick := rfl
@[simp] theorem withhold_links (s : State) (e : WEntry) : (s.withhold e).links = s.links := rfl
@[simp] theorem withhold_fencing (s : State) (e : WEntry) : (s.withhold e).fencing = s.fencing := rfl
@[simp] theorem withhold_hubDown (s : State) (e : WEntry) : (s.withhold e).hubDown = s.hubDown := rfl
@[simp] theorem withhold_bruns (s : State) (e : WEntry) : (s.withhold e).bruns = s.bruns := rfl
@[simp] theorem withhold_staging (s : State) (e : WEntry) : (s.withhold e).staging = s.staging := rfl
@[simp] theorem withhold_frames (s : State) (e : WEntry) : (s.withhold e).frames = s.frames := rfl
@[simp] theorem withhold_stageCap (s : State) (e : WEntry) : (s.withhold e).stageCap = s.stageCap := rfl
@[simp] theorem withhold_notes (s : State) (e : WEntry) : (s.withhold e).notes = s.notes := rfl
@[simp] theorem withhold_msix (s : State) (e : WEntry) : (s.withhold e).msix = s.msix := rfl
@[simp] theorem withhold_hostRd (s : State) (e : WEntry) : (s.withhold e).hostRd = s.hostRd := rfl
@[simp] theorem withhold_rxStat (s : State) (e : WEntry) : (s.withhold e).rxStat = s.rxStat := rfl
@[simp] theorem withhold_hostacc (s : State) (e : WEntry) : (s.withhold e).hostacc = s.hostacc := rfl
@[simp] theorem withhold_mbcmd (s : State) (e : WEntry) : (s.withhold e).mbcmd = s.mbcmd := rfl
@[simp] theorem withhold_mbarg (s : State) (e : WEntry) : (s.withhold e).mbarg = s.mbarg := rfl
@[simp] theorem withhold_mbjob (s : State) (e : WEntry) : (s.withhold e).mbjob = s.mbjob := rfl
@[simp] theorem withhold_mbstat (s : State) (e : WEntry) : (s.withhold e).mbstat = s.mbstat := rfl
@[simp] theorem withhold_bootstat (s : State) (e : WEntry) : (s.withhold e).bootstat = s.bootstat := rfl
@[simp] theorem withhold_hot (s : State) (e : WEntry) : (s.withhold e).hot = s.hot := rfl

@[simp] theorem withhold_core_phase (s : State) (e : WEntry) : (s.withhold e).core.phase = s.core.phase := rfl
@[simp] theorem withhold_core_live (s : State) (e : WEntry) : (s.withhold e).core.live = s.core.live := rfl
@[simp] theorem withhold_core_dup (s : State) (e : WEntry) : (s.withhold e).core.dup = s.core.dup := rfl
@[simp] theorem withhold_core_pc (s : State) (e : WEntry) : (s.withhold e).core.pc = s.core.pc := rfl
@[simp] theorem withhold_core_flags (s : State) (e : WEntry) : (s.withhold e).core.flags = s.core.flags := rfl
@[simp] theorem withhold_core_fseq (s : State) (e : WEntry) : (s.withhold e).core.fseq = s.core.fseq := rfl
@[simp] theorem withhold_core_rows (s : State) (e : WEntry) : (s.withhold e).core.rows = s.core.rows := rfl
@[simp] theorem withhold_core_rowOld (s : State) (e : WEntry) : (s.withhold e).core.rowOld = s.core.rowOld := rfl
@[simp] theorem withhold_core_ember (s : State) (e : WEntry) : (s.withhold e).core.ember = s.core.ember := rfl
@[simp] theorem withhold_core_bstore (s : State) (e : WEntry) : (s.withhold e).core.bstore = s.core.bstore := rfl
@[simp] theorem withhold_core_epoch (s : State) (e : WEntry) : (s.withhold e).core.epoch = s.core.epoch := rfl
@[simp] theorem withhold_core_cyc (s : State) (e : WEntry) : (s.withhold e).core.cyc = s.core.cyc := rfl
@[simp] theorem withhold_core_seq (s : State) (e : WEntry) : (s.withhold e).core.seq = s.core.seq := rfl
@[simp] theorem withhold_core_land (s : State) (e : WEntry) : (s.withhold e).core.land = s.core.land := rfl
@[simp] theorem withhold_core_outst (s : State) (e : WEntry) : (s.withhold e).core.outst = s.core.outst := rfl
@[simp] theorem withhold_core_hops (s : State) (e : WEntry) : (s.withhold e).core.hops = s.core.hops := rfl
@[simp] theorem withhold_core_copies (s : State) (e : WEntry) : (s.withhold e).core.copies = s.core.copies := rfl
@[simp] theorem withhold_core_nid (s : State) (e : WEntry) : (s.withhold e).core.nid = s.core.nid := rfl
@[simp] theorem withhold_core_cposts (s : State) (e : WEntry) : (s.withhold e).core.cposts = s.core.cposts := rfl
@[simp] theorem withhold_core_rel (s : State) (e : WEntry) : (s.withhold e).core.rel = s.core.rel := rfl
@[simp] theorem withhold_core_hostLate (s : State) (e : WEntry) : (s.withhold e).core.hostLate = s.core.hostLate := rfl
@[simp] theorem withhold_core_once (s : State) (e : WEntry) : (s.withhold e).core.once = s.core.once := rfl
@[simp] theorem withhold_core_once2 (s : State) (e : WEntry) : (s.withhold e).core.once2 = s.core.once2 := rfl
@[simp] theorem withhold_core_sticky (s : State) (e : WEntry) : (s.withhold e).core.sticky = s.core.sticky := rfl
@[simp] theorem withhold_core_agw (s : State) (e : WEntry) : (s.withhold e).core.agw = s.core.agw := rfl
@[simp] theorem withhold_core_runAhead (s : State) (e : WEntry) : (s.withhold e).core.runAhead = s.core.runAhead := rfl
@[simp] theorem withhold_core_heldTrap (s : State) (e : WEntry) : (s.withhold e).core.heldTrap = s.core.heldTrap := rfl
@[simp] theorem withhold_core_pend (s : State) (e : WEntry) : (s.withhold e).core.pend = s.core.pend := rfl
@[simp] theorem withhold_core_fence (s : State) (e : WEntry) : (s.withhold e).core.fence = s.core.fence := rfl
@[simp] theorem withhold_core_drain (s : State) (e : WEntry) : (s.withhold e).core.drain = s.core.drain := rfl
@[simp] theorem withhold_core_iss (s : State) (e : WEntry) : (s.withhold e).core.iss = s.core.iss := rfl
@[simp] theorem withhold_core_joinAt (s : State) (e : WEntry) : (s.withhold e).core.joinAt = s.core.joinAt := rfl
@[simp] theorem withhold_core_ifseq (s : State) (e : WEntry) : (s.withhold e).core.ifseq = s.core.ifseq := rfl
@[simp] theorem withhold_core_acq (s : State) (e : WEntry) : (s.withhold e).core.acq = s.core.acq := rfl
@[simp] theorem withhold_core_lastWr (s : State) (e : WEntry) : (s.withhold e).core.lastWr = s.core.lastWr := rfl
@[simp] theorem withhold_core_tacq (s : State) (e : WEntry) : (s.withhold e).core.tacq = s.core.tacq := rfl
@[simp] theorem withhold_core_tcw (s : State) (e : WEntry) : (s.withhold e).core.tcw = s.core.tcw := rfl
@[simp] theorem withhold_core_pbound (s : State) (e : WEntry) : (s.withhold e).core.pbound = s.core.pbound := rfl
@[simp] theorem withhold_core_acnt (s : State) (e : WEntry) : (s.withhold e).core.acnt = s.core.acnt := rfl
@[simp] theorem withhold_core_livemask (s : State) (e : WEntry) : (s.withhold e).core.livemask = s.core.livemask := rfl
@[simp] theorem withhold_core_ptroot (s : State) (e : WEntry) : (s.withhold e).core.ptroot = s.core.ptroot := rfl
@[simp] theorem withhold_core_accid (s : State) (e : WEntry) : (s.withhold e).core.accid = s.core.accid := rfl
@[simp] theorem withhold_core_quota (s : State) (e : WEntry) : (s.withhold e).core.quota = s.core.quota := rfl
@[simp] theorem withhold_core_hroot (s : State) (e : WEntry) : (s.withhold e).core.hroot = s.core.hroot := rfl
@[simp] theorem withhold_core_hquota (s : State) (e : WEntry) : (s.withhold e).core.hquota = s.core.hquota := rfl
@[simp] theorem withhold_core_trtcw (s : State) (e : WEntry) : (s.withhold e).core.trtcw = s.core.trtcw := rfl
@[simp] theorem withhold_core_trpc (s : State) (e : WEntry) : (s.withhold e).core.trpc = s.core.trpc := rfl
@[simp] theorem withhold_core_semap (s : State) (e : WEntry) : (s.withhold e).core.semap = s.core.semap := rfl
@[simp] theorem withhold_core_tcause (s : State) (e : WEntry) : (s.withhold e).core.tcause = s.core.tcause := rfl
@[simp] theorem withhold_core_tbund (s : State) (e : WEntry) : (s.withhold e).core.tbund = s.core.tbund := rfl
@[simp] theorem withhold_core_taddr (s : State) (e : WEntry) : (s.withhold e).core.taddr = s.core.taddr := rfl
@[simp] theorem withhold_core_tckpt (s : State) (e : WEntry) : (s.withhold e).core.tckpt = s.core.tckpt := rfl
@[simp] theorem withhold_core_tres0 (s : State) (e : WEntry) : (s.withhold e).core.tres0 = s.core.tres0 := rfl
@[simp] theorem withhold_core_tres1 (s : State) (e : WEntry) : (s.withhold e).core.tres1 = s.core.tres1 := rfl
@[simp] theorem withhold_core_tres2 (s : State) (e : WEntry) : (s.withhold e).core.tres2 = s.core.tres2 := rfl
@[simp] theorem withhold_core_tstart (s : State) (e : WEntry) : (s.withhold e).core.tstart = s.core.tstart := rfl
@[simp] theorem withhold_core_ttick (s : State) (e : WEntry) : (s.withhold e).core.ttick = s.core.ttick := rfl
@[simp] theorem withhold_core_task (s : State) (e : WEntry) : (s.withhold e).core.task = s.core.task := rfl
@[simp] theorem withhold_core_prio (s : State) (e : WEntry) : (s.withhold e).core.prio = s.core.prio := rfl
@[simp] theorem withhold_core_req (s : State) (e : WEntry) : (s.withhold e).core.req = s.core.req := rfl
@[simp] theorem withhold_core_saveTo (s : State) (e : WEntry) : (s.withhold e).core.saveTo = s.core.saveTo := rfl
@[simp] theorem withhold_core_saveWhy (s : State) (e : WEntry) : (s.withhold e).core.saveWhy = s.core.saveWhy := rfl
@[simp] theorem withhold_core_ckpt (s : State) (e : WEntry) : (s.withhold e).core.ckpt = s.core.ckpt := rfl
@[simp] theorem withhold_core_ckKeep (s : State) (e : WEntry) : (s.withhold e).core.ckKeep = s.core.ckKeep := rfl
@[simp] theorem withhold_core_soft (s : State) (e : WEntry) : (s.withhold e).core.soft = s.core.soft := rfl
@[simp] theorem withhold_core_icnt (s : State) (e : WEntry) : (s.withhold e).core.icnt = s.core.icnt := rfl
@[simp] theorem withhold_core_icntCk (s : State) (e : WEntry) : (s.withhold e).core.icntCk = s.core.icntCk := rfl
@[simp] theorem withhold_core_trk (s : State) (e : WEntry) : (s.withhold e).core.trk = s.core.trk := rfl
@[simp] theorem withhold_core_sr (s : State) (e : WEntry) : (s.withhold e).core.sr = s.core.sr := rfl
@[simp] theorem withhold_core_sreq (s : State) (e : WEntry) : (s.withhold e).core.sreq = s.core.sreq := rfl
@[simp] theorem withhold_core_srqf (s : State) (e : WEntry) : (s.withhold e).core.srqf = s.core.srqf := rfl

/-! ### dset -/

@[simp] theorem dset_here (s : State) (d o : Nat) (v : Word) : (s.dset d o v).here = s.here := rfl
@[simp] theorem dset_core (s : State) (d o : Nat) (v : Word) : (s.dset d o v).core = s.core := rfl
@[simp] theorem dset_parked (s : State) (d o : Nat) (v : Word) : (s.dset d o v).parked = s.parked := rfl
@[simp] theorem dset_ctr (s : State) (d o : Nat) (v : Word) : (s.dset d o v).ctr = s.ctr := rfl
@[simp] theorem dset_agenda (s : State) (d o : Nat) (v : Word) : (s.dset d o v).agenda = s.agenda := rfl
@[simp] theorem dset_tick (s : State) (d o : Nat) (v : Word) : (s.dset d o v).tick = s.tick := rfl
@[simp] theorem dset_mhz (s : State) (d o : Nat) (v : Word) : (s.dset d o v).mhz = s.mhz := rfl
@[simp] theorem dset_device (s : State) (d o : Nat) (v : Word) : (s.dset d o v).device = s.device := rfl
@[simp] theorem dset_mem (s : State) (d o : Nat) (v : Word) : (s.dset d o v).mem = s.mem := rfl
@[simp] theorem dset_hist (s : State) (d o : Nat) (v : Word) : (s.dset d o v).hist = s.hist := rfl
@[simp] theorem dset_wseq (s : State) (d o : Nat) (v : Word) : (s.dset d o v).wseq = s.wseq := rfl
@[simp] theorem dset_tlb (s : State) (d o : Nat) (v : Word) : (s.dset d o v).tlb = s.tlb := rfl
@[simp] theorem dset_barAt (s : State) (d o : Nat) (v : Word) : (s.dset d o v).barAt = s.barAt := rfl
@[simp] theorem dset_tasks (s : State) (d o : Nat) (v : Word) : (s.dset d o v).tasks = s.tasks := rfl
@[simp] theorem dset_nextId (s : State) (d o : Nat) (v : Word) : (s.dset d o v).nextId = s.nextId := rfl
@[simp] theorem dset_launches (s : State) (d o : Nat) (v : Word) : (s.dset d o v).launches = s.launches := rfl
@[simp] theorem dset_mqs (s : State) (d o : Nat) (v : Word) : (s.dset d o v).mqs = s.mqs := rfl
@[simp] theorem dset_rp (s : State) (d o : Nat) (v : Word) : (s.dset d o v).rp = s.rp := rfl
@[simp] theorem dset_bals (s : State) (d o : Nat) (v : Word) : (s.dset d o v).bals = s.bals := rfl
@[simp] theorem dset_homes (s : State) (d o : Nat) (v : Word) : (s.dset d o v).homes = s.homes := rfl
@[simp] theorem dset_agMail (s : State) (d o : Nat) (v : Word) : (s.dset d o v).agMail = s.agMail := rfl
@[simp] theorem dset_mseq (s : State) (d o : Nat) (v : Word) : (s.dset d o v).mseq = s.mseq := rfl
@[simp] theorem dset_absent (s : State) (d o : Nat) (v : Word) : (s.dset d o v).absent = s.absent := rfl
@[simp] theorem dset_goneAt (s : State) (d o : Nat) (v : Word) : (s.dset d o v).goneAt = s.goneAt := rfl
@[simp] theorem dset_invSeen (s : State) (d o : Nat) (v : Word) : (s.dset d o v).invSeen = s.invSeen := rfl
@[simp] theorem dset_rptGot (s : State) (d o : Nat) (v : Word) : (s.dset d o v).rptGot = s.rptGot := rfl
@[simp] theorem dset_grpCtx (s : State) (d o : Nat) (v : Word) : (s.dset d o v).grpCtx = s.grpCtx := rfl
@[simp] theorem dset_beats (s : State) (d o : Nat) (v : Word) : (s.dset d o v).beats = s.beats := rfl
@[simp] theorem dset_lost (s : State) (d o : Nat) (v : Word) : (s.dset d o v).lost = s.lost := rfl
@[simp] theorem dset_beatTick (s : State) (d o : Nat) (v : Word) : (s.dset d o v).beatTick = s.beatTick := rfl
@[simp] theorem dset_links (s : State) (d o : Nat) (v : Word) : (s.dset d o v).links = s.links := rfl
@[simp] theorem dset_fencing (s : State) (d o : Nat) (v : Word) : (s.dset d o v).fencing = s.fencing := rfl
@[simp] theorem dset_hubDown (s : State) (d o : Nat) (v : Word) : (s.dset d o v).hubDown = s.hubDown := rfl
@[simp] theorem dset_bruns (s : State) (d o : Nat) (v : Word) : (s.dset d o v).bruns = s.bruns := rfl
@[simp] theorem dset_staging (s : State) (d o : Nat) (v : Word) : (s.dset d o v).staging = s.staging := rfl
@[simp] theorem dset_frames (s : State) (d o : Nat) (v : Word) : (s.dset d o v).frames = s.frames := rfl
@[simp] theorem dset_stageCap (s : State) (d o : Nat) (v : Word) : (s.dset d o v).stageCap = s.stageCap := rfl
@[simp] theorem dset_notes (s : State) (d o : Nat) (v : Word) : (s.dset d o v).notes = s.notes := rfl
@[simp] theorem dset_msix (s : State) (d o : Nat) (v : Word) : (s.dset d o v).msix = s.msix := rfl
@[simp] theorem dset_hostRd (s : State) (d o : Nat) (v : Word) : (s.dset d o v).hostRd = s.hostRd := rfl
@[simp] theorem dset_rxStat (s : State) (d o : Nat) (v : Word) : (s.dset d o v).rxStat = s.rxStat := rfl
@[simp] theorem dset_hostacc (s : State) (d o : Nat) (v : Word) : (s.dset d o v).hostacc = s.hostacc := rfl
@[simp] theorem dset_mbcmd (s : State) (d o : Nat) (v : Word) : (s.dset d o v).mbcmd = s.mbcmd := rfl
@[simp] theorem dset_mbarg (s : State) (d o : Nat) (v : Word) : (s.dset d o v).mbarg = s.mbarg := rfl
@[simp] theorem dset_mbjob (s : State) (d o : Nat) (v : Word) : (s.dset d o v).mbjob = s.mbjob := rfl
@[simp] theorem dset_mbstat (s : State) (d o : Nat) (v : Word) : (s.dset d o v).mbstat = s.mbstat := rfl
@[simp] theorem dset_bootstat (s : State) (d o : Nat) (v : Word) : (s.dset d o v).bootstat = s.bootstat := rfl
@[simp] theorem dset_hot (s : State) (d o : Nat) (v : Word) : (s.dset d o v).hot = s.hot := rfl

/-! ### wrByte -/

@[simp] theorem wrByte_here (s : State) (a : Nat) (v : Byte) : (s.wrByte a v).here = s.here := rfl
@[simp] theorem wrByte_core (s : State) (a : Nat) (v : Byte) : (s.wrByte a v).core = s.core := rfl
@[simp] theorem wrByte_parked (s : State) (a : Nat) (v : Byte) : (s.wrByte a v).parked = s.parked := rfl
@[simp] theorem wrByte_ctr (s : State) (a : Nat) (v : Byte) : (s.wrByte a v).ctr = s.ctr := rfl
@[simp] theorem wrByte_agenda (s : State) (a : Nat) (v : Byte) : (s.wrByte a v).agenda = s.agenda := rfl
@[simp] theorem wrByte_tick (s : State) (a : Nat) (v : Byte) : (s.wrByte a v).tick = s.tick := rfl
@[simp] theorem wrByte_mhz (s : State) (a : Nat) (v : Byte) : (s.wrByte a v).mhz = s.mhz := rfl
@[simp] theorem wrByte_device (s : State) (a : Nat) (v : Byte) : (s.wrByte a v).device = s.device := rfl
@[simp] theorem wrByte_dreg (s : State) (a : Nat) (v : Byte) : (s.wrByte a v).dreg = s.dreg := rfl
@[simp] theorem wrByte_tlb (s : State) (a : Nat) (v : Byte) : (s.wrByte a v).tlb = s.tlb := rfl
@[simp] theorem wrByte_barAt (s : State) (a : Nat) (v : Byte) : (s.wrByte a v).barAt = s.barAt := rfl
@[simp] theorem wrByte_tasks (s : State) (a : Nat) (v : Byte) : (s.wrByte a v).tasks = s.tasks := rfl
@[simp] theorem wrByte_nextId (s : State) (a : Nat) (v : Byte) : (s.wrByte a v).nextId = s.nextId := rfl
@[simp] theorem wrByte_launches (s : State) (a : Nat) (v : Byte) : (s.wrByte a v).launches = s.launches := rfl
@[simp] theorem wrByte_mqs (s : State) (a : Nat) (v : Byte) : (s.wrByte a v).mqs = s.mqs := rfl
@[simp] theorem wrByte_rp (s : State) (a : Nat) (v : Byte) : (s.wrByte a v).rp = s.rp := rfl
@[simp] theorem wrByte_bals (s : State) (a : Nat) (v : Byte) : (s.wrByte a v).bals = s.bals := rfl
@[simp] theorem wrByte_homes (s : State) (a : Nat) (v : Byte) : (s.wrByte a v).homes = s.homes := rfl
@[simp] theorem wrByte_agMail (s : State) (a : Nat) (v : Byte) : (s.wrByte a v).agMail = s.agMail := rfl
@[simp] theorem wrByte_mseq (s : State) (a : Nat) (v : Byte) : (s.wrByte a v).mseq = s.mseq := rfl
@[simp] theorem wrByte_absent (s : State) (a : Nat) (v : Byte) : (s.wrByte a v).absent = s.absent := rfl
@[simp] theorem wrByte_goneAt (s : State) (a : Nat) (v : Byte) : (s.wrByte a v).goneAt = s.goneAt := rfl
@[simp] theorem wrByte_invSeen (s : State) (a : Nat) (v : Byte) : (s.wrByte a v).invSeen = s.invSeen := rfl
@[simp] theorem wrByte_rptGot (s : State) (a : Nat) (v : Byte) : (s.wrByte a v).rptGot = s.rptGot := rfl
@[simp] theorem wrByte_grpCtx (s : State) (a : Nat) (v : Byte) : (s.wrByte a v).grpCtx = s.grpCtx := rfl
@[simp] theorem wrByte_beats (s : State) (a : Nat) (v : Byte) : (s.wrByte a v).beats = s.beats := rfl
@[simp] theorem wrByte_lost (s : State) (a : Nat) (v : Byte) : (s.wrByte a v).lost = s.lost := rfl
@[simp] theorem wrByte_beatTick (s : State) (a : Nat) (v : Byte) : (s.wrByte a v).beatTick = s.beatTick := rfl
@[simp] theorem wrByte_links (s : State) (a : Nat) (v : Byte) : (s.wrByte a v).links = s.links := rfl
@[simp] theorem wrByte_fencing (s : State) (a : Nat) (v : Byte) : (s.wrByte a v).fencing = s.fencing := rfl
@[simp] theorem wrByte_hubDown (s : State) (a : Nat) (v : Byte) : (s.wrByte a v).hubDown = s.hubDown := rfl
@[simp] theorem wrByte_bruns (s : State) (a : Nat) (v : Byte) : (s.wrByte a v).bruns = s.bruns := rfl
@[simp] theorem wrByte_staging (s : State) (a : Nat) (v : Byte) : (s.wrByte a v).staging = s.staging := rfl
@[simp] theorem wrByte_frames (s : State) (a : Nat) (v : Byte) : (s.wrByte a v).frames = s.frames := rfl
@[simp] theorem wrByte_stageCap (s : State) (a : Nat) (v : Byte) : (s.wrByte a v).stageCap = s.stageCap := rfl
@[simp] theorem wrByte_notes (s : State) (a : Nat) (v : Byte) : (s.wrByte a v).notes = s.notes := rfl
@[simp] theorem wrByte_msix (s : State) (a : Nat) (v : Byte) : (s.wrByte a v).msix = s.msix := rfl
@[simp] theorem wrByte_hostRd (s : State) (a : Nat) (v : Byte) : (s.wrByte a v).hostRd = s.hostRd := rfl
@[simp] theorem wrByte_rxStat (s : State) (a : Nat) (v : Byte) : (s.wrByte a v).rxStat = s.rxStat := rfl
@[simp] theorem wrByte_hostacc (s : State) (a : Nat) (v : Byte) : (s.wrByte a v).hostacc = s.hostacc := rfl
@[simp] theorem wrByte_mbcmd (s : State) (a : Nat) (v : Byte) : (s.wrByte a v).mbcmd = s.mbcmd := rfl
@[simp] theorem wrByte_mbarg (s : State) (a : Nat) (v : Byte) : (s.wrByte a v).mbarg = s.mbarg := rfl
@[simp] theorem wrByte_mbjob (s : State) (a : Nat) (v : Byte) : (s.wrByte a v).mbjob = s.mbjob := rfl
@[simp] theorem wrByte_mbstat (s : State) (a : Nat) (v : Byte) : (s.wrByte a v).mbstat = s.mbstat := rfl
@[simp] theorem wrByte_bootstat (s : State) (a : Nat) (v : Byte) : (s.wrByte a v).bootstat = s.bootstat := rfl
@[simp] theorem wrByte_hot (s : State) (a : Nat) (v : Byte) : (s.wrByte a v).hot = s.hot := rfl

/-! ### bump -/

@[simp] theorem bump_here (s : State) : (s.bump).here = s.here := rfl
@[simp] theorem bump_core (s : State) : (s.bump).core = s.core := rfl
@[simp] theorem bump_parked (s : State) : (s.bump).parked = s.parked := rfl
@[simp] theorem bump_agenda (s : State) : (s.bump).agenda = s.agenda := rfl
@[simp] theorem bump_tick (s : State) : (s.bump).tick = s.tick := rfl
@[simp] theorem bump_mhz (s : State) : (s.bump).mhz = s.mhz := rfl
@[simp] theorem bump_device (s : State) : (s.bump).device = s.device := rfl
@[simp] theorem bump_mem (s : State) : (s.bump).mem = s.mem := rfl
@[simp] theorem bump_hist (s : State) : (s.bump).hist = s.hist := rfl
@[simp] theorem bump_wseq (s : State) : (s.bump).wseq = s.wseq := rfl
@[simp] theorem bump_dreg (s : State) : (s.bump).dreg = s.dreg := rfl
@[simp] theorem bump_tlb (s : State) : (s.bump).tlb = s.tlb := rfl
@[simp] theorem bump_barAt (s : State) : (s.bump).barAt = s.barAt := rfl
@[simp] theorem bump_tasks (s : State) : (s.bump).tasks = s.tasks := rfl
@[simp] theorem bump_nextId (s : State) : (s.bump).nextId = s.nextId := rfl
@[simp] theorem bump_launches (s : State) : (s.bump).launches = s.launches := rfl
@[simp] theorem bump_mqs (s : State) : (s.bump).mqs = s.mqs := rfl
@[simp] theorem bump_rp (s : State) : (s.bump).rp = s.rp := rfl
@[simp] theorem bump_bals (s : State) : (s.bump).bals = s.bals := rfl
@[simp] theorem bump_homes (s : State) : (s.bump).homes = s.homes := rfl
@[simp] theorem bump_agMail (s : State) : (s.bump).agMail = s.agMail := rfl
@[simp] theorem bump_mseq (s : State) : (s.bump).mseq = s.mseq := rfl
@[simp] theorem bump_absent (s : State) : (s.bump).absent = s.absent := rfl
@[simp] theorem bump_goneAt (s : State) : (s.bump).goneAt = s.goneAt := rfl
@[simp] theorem bump_invSeen (s : State) : (s.bump).invSeen = s.invSeen := rfl
@[simp] theorem bump_rptGot (s : State) : (s.bump).rptGot = s.rptGot := rfl
@[simp] theorem bump_grpCtx (s : State) : (s.bump).grpCtx = s.grpCtx := rfl
@[simp] theorem bump_beats (s : State) : (s.bump).beats = s.beats := rfl
@[simp] theorem bump_lost (s : State) : (s.bump).lost = s.lost := rfl
@[simp] theorem bump_beatTick (s : State) : (s.bump).beatTick = s.beatTick := rfl
@[simp] theorem bump_links (s : State) : (s.bump).links = s.links := rfl
@[simp] theorem bump_fencing (s : State) : (s.bump).fencing = s.fencing := rfl
@[simp] theorem bump_hubDown (s : State) : (s.bump).hubDown = s.hubDown := rfl
@[simp] theorem bump_bruns (s : State) : (s.bump).bruns = s.bruns := rfl
@[simp] theorem bump_staging (s : State) : (s.bump).staging = s.staging := rfl
@[simp] theorem bump_frames (s : State) : (s.bump).frames = s.frames := rfl
@[simp] theorem bump_stageCap (s : State) : (s.bump).stageCap = s.stageCap := rfl
@[simp] theorem bump_notes (s : State) : (s.bump).notes = s.notes := rfl
@[simp] theorem bump_msix (s : State) : (s.bump).msix = s.msix := rfl
@[simp] theorem bump_hostRd (s : State) : (s.bump).hostRd = s.hostRd := rfl
@[simp] theorem bump_rxStat (s : State) : (s.bump).rxStat = s.rxStat := rfl
@[simp] theorem bump_hostacc (s : State) : (s.bump).hostacc = s.hostacc := rfl
@[simp] theorem bump_mbcmd (s : State) : (s.bump).mbcmd = s.mbcmd := rfl
@[simp] theorem bump_mbarg (s : State) : (s.bump).mbarg = s.mbarg := rfl
@[simp] theorem bump_mbjob (s : State) : (s.bump).mbjob = s.mbjob := rfl
@[simp] theorem bump_mbstat (s : State) : (s.bump).mbstat = s.mbstat := rfl
@[simp] theorem bump_bootstat (s : State) : (s.bump).bootstat = s.bootstat := rfl
@[simp] theorem bump_hot (s : State) : (s.bump).hot = s.hot := rfl

@[simp] theorem wrByte_mem (s : State) (a : Nat) (v : Byte) : (s.wrByte a v).mem = memSet s.mem a v := rfl
@[simp] theorem wrByte_wseq (s : State) (a : Nat) (v : Byte) : (s.wrByte a v).wseq = s.wseq + 1 := rfl
@[simp] theorem bump_ctr (s : State) : s.bump.ctr = s.ctr + 1 := rfl
@[simp] theorem withhold_whb (s : State) (e : WEntry) : (s.withhold e).core.whb = s.core.whb ++ [e] := rfl

end Sys2Proof.Laws
end

