-- ==== Sys2Proof/Laws/Memory.lean ====
section
/-!
SUPPORT. Laws of memory: read after write, what a write leaves alone, and that every operation which writes memory keeps its
canonical form.
-/
namespace Sys2Proof.Laws
open Machine

/-! ### One cell -/

theorem wf_tail {c : Host.Cell} {m : List Host.Cell} (h : Memory.wf (c :: m) = true) : Memory.wf m = true := by
  simp only [Memory.wf, Bool.and_eq_true] at h
  exact h.2

theorem wf_head {c : Host.Cell} {m : List Host.Cell} (h : Memory.wf (c :: m) = true) : (c.2 != memDefault) = true := by
  simp only [Memory.wf, Bool.and_eq_true] at h
  exact h.1.1

theorem wf_lt {c d : Host.Cell} {m : List Host.Cell} (h : Memory.wf (c :: d :: m) = true) : c.1 < d.1 := by
  simp only [Memory.wf, Bool.and_eq_true, decide_eq_true_eq] at h
  exact h.1.2

/-- Below the first listed address every byte reads as unlisted. -/
theorem cellGet_low {c : Host.Cell} {m : List Host.Cell} {a : Nat} (v : Byte) (h : Memory.wf (c :: m) = true) (ha : a ≤ c.1) :
    cellGet v m a = v := by
  cases m with
  | nil => rfl
  | cons d m =>
    have hd := wf_lt h
    have h1 : d.1 ≠ a := by omega
    have h2 : a < d.1 := by omega
    simp [cellGet, h1, h2]

/-- A byte reads as it was written. -/
theorem memGet_memSet_same {m : List Host.Cell} (a : Nat) (v : Byte) (h : Memory.wf m = true) : memGet (memSet m a v) a = v := by
  induction m with
  | nil =>
    by_cases hv : v = memDefault <;> simp [memGet, memSet, cellSet, cellGet, hv]
  | cons c m ih =>
    have ih := ih (wf_tail h)
    simp only [memGet, memSet] at ih
    by_cases hc : c.1 = a
    · subst hc
      by_cases hv : v = memDefault
      · subst hv
        simp [memGet, memSet, cellSet, cellGet_low _ h]
      · simp [memGet, memSet, cellSet, cellGet, hv]
    · by_cases hl : a < c.1
      · by_cases hv : v = memDefault <;> simp [memGet, memSet, cellSet, cellGet, hc, hl, hv]
      · simpa [memGet, memSet, cellSet, cellGet, hc, hl] using ih

/-- A write leaves every other byte as it was. -/
theorem memGet_memSet_other {m : List Host.Cell} {a b : Nat} (v : Byte) (h : Memory.wf m = true) (hab : b ≠ a) :
    memGet (memSet m a v) b = memGet m b := by
  induction m with
  | nil =>
    by_cases hv : v = memDefault
    · simp [memGet, memSet, cellSet, cellGet, hv]
    · simp [memGet, memSet, cellSet, cellGet, hv, Ne.symm hab]
  | cons c m ih =>
    have ih := ih (wf_tail h)
    simp only [memGet, memSet] at ih
    by_cases hc : c.1 = a
    · subst hc
      by_cases hv : v = memDefault
      · subst hv
        by_cases hb : b < c.1
        · simp [memGet, memSet, cellSet, cellGet, Ne.symm hab, hb, cellGet_low _ h (Nat.le_of_lt hb)]
        · simp [memGet, memSet, cellSet, cellGet, Ne.symm hab, hb]
      · simp [memGet, memSet, cellSet, cellGet, Ne.symm hab, hv]
    · by_cases hl : a < c.1
      · by_cases hv : v = memDefault
        · simp [memGet, memSet, cellSet, hc, hl, hv]
        · by_cases hb : b < a
          · have h1 : c.1 ≠ b := by omega
            have h2 : b < c.1 := by omega
            simp [memGet, memSet, cellSet, cellGet, hc, hl, hv, Ne.symm hab, hb, h1, h2]
          · simp [memGet, memSet, cellSet, cellGet, hc, hl, hv, Ne.symm hab, hb]
      · simp only [memGet, memSet, cellSet, hc, hl, if_false, cellGet]
        rw [ih]

/-- A write behind the first listed address keeps the form. -/
theorem wf_cons_memSet {m : List Host.Cell} (a : Nat) (v : Byte) :
    ∀ {c : Host.Cell}, Memory.wf (c :: m) = true → c.1 < a → Memory.wf (c :: memSet m a v) = true := by
  induction m with
  | nil =>
    intro c h hc
    by_cases hv : v = memDefault
    · simpa [memSet, cellSet, hv] using h
    · have h1 : ¬c.2 = memDefault := by simpa using wf_head h
      simp [memSet, cellSet, Memory.wf, hv, h1, hc]
  | cons d m ih =>
    intro c h hc
    have h1 : ¬c.2 = memDefault := by simpa using wf_head h
    have h2 : ¬d.2 = memDefault := by simpa using wf_head (wf_tail h)
    have h3 := wf_lt h
    by_cases hd : d.1 = a
    · subst hd
      by_cases hv : v = memDefault
      · subst hv
        cases m with
        | nil => simp [memSet, cellSet, Memory.wf, h1]
        | cons e m =>
          have h4 := wf_lt (wf_tail h)
          have h5 := wf_tail (wf_tail h)
          have h6 : c.1 < e.1 := by omega
          simpa [memSet, cellSet, Memory.wf, h1, h6] using h5
      · have h5 := wf_tail h
        cases m with
        | nil => simp [memSet, cellSet, Memory.wf, h1, hv, h3]
        | cons e m =>
          have h4 := wf_lt h5
          simpa [memSet, cellSet, Memory.wf, h1, hv, h3, h4] using wf_tail h5
    · by_cases hl : a < d.1
      · by_cases hv : v = memDefault
        · simpa [memSet, cellSet, hd, hl, hv] using h
        · have h5 := wf_tail h
          simp only [memSet, cellSet, hd, hl, if_false, if_true, bne_iff_ne, ne_eq, hv, not_false_eq_true]
          simp only [Memory.wf, Bool.and_eq_true, bne_iff_ne, ne_eq, decide_eq_true_eq]
          exact ⟨⟨h1, hc⟩, ⟨hv, hl⟩, by simpa [Memory.wf] using h5⟩
      · have h6 := ih (wf_tail h) (by omega)
        simp only [memSet] at h6
        simp only [memSet, cellSet, hd, hl, if_false]
        unfold Memory.wf
        simp only [Bool.and_eq_true, bne_iff_ne, ne_eq, decide_eq_true_eq]
        exact ⟨⟨h1, h3⟩, h6⟩

/-- Writing a byte keeps the canonical form. -/
theorem wf_memSet {m : List Host.Cell} (a : Nat) (v : Byte) (h : Memory.wf m = true) : Memory.wf (memSet m a v) = true := by
  cases m with
  | nil => by_cases hv : v = memDefault <;> simp [memSet, cellSet, Memory.wf, hv]
  | cons c m =>
    have h1 : ¬c.2 = memDefault := by simpa using wf_head h
    by_cases hc : c.1 = a
    · subst hc
      by_cases hv : v = memDefault
      · subst hv; simpa [memSet, cellSet] using wf_tail h
      · cases m with
        | nil => simp [memSet, cellSet, Memory.wf, hv]
        | cons d m => simpa [memSet, cellSet, Memory.wf, hv, wf_lt h] using wf_tail h
    · by_cases hl : a < c.1
      · by_cases hv : v = memDefault
        · simpa [memSet, cellSet, hc, hl, hv] using h
        · have h2 : Memory.wf (c :: m) = true := h
          simp only [memSet, cellSet, hc, hl, if_false, if_true, bne_iff_ne, ne_eq, hv, not_false_eq_true]
          unfold Memory.wf
          simp only [Bool.and_eq_true, bne_iff_ne, ne_eq, decide_eq_true_eq]
          exact ⟨⟨hv, hl⟩, h2⟩
      · have := wf_cons_memSet a v h (by omega)
        simpa [memSet, cellSet, hc, hl] using this

/-! ### Writes of the state -/


theorem wrByte_inv (s : State) (a : Nat) (v : Byte) (h : Memory.wf s.mem = true) : Memory.wf (s.wrByte a v).mem = true :=
  wf_memSet a v h

theorem wrBytes_inv (bs : List Byte) : ∀ (s : State) (a : Nat), Memory.wf s.mem = true → Memory.wf (s.wrBytes a bs).mem = true := by
  induction bs with
  | nil => intro s a h; exact h
  | cons b bs ih => intro s a h; exact ih _ _ (wrByte_inv s a b h)

/-- A run of bytes leaves every byte outside it alone. -/
theorem wrBytes_other (bs : List Byte) : ∀ (s : State) (a b : Nat), Memory.wf s.mem = true → (b < a ∨ a + bs.length ≤ b) →
    memGet (s.wrBytes a bs).mem b = memGet s.mem b := by
  induction bs with
  | nil => intro s a b h hb; rfl
  | cons x bs ih =>
    intro s a b h hb
    simp only [List.length_cons] at hb
    have h1 := ih (s.wrByte a x) (a + 1) b (wrByte_inv s a x h) (by omega)
    have h2 : b ≠ a := by omega
    simpa [State.wrBytes, memGet_memSet_other x h h2] using h1

/-- A run of bytes stands where it was written. -/
theorem wrBytes_same (bs : List Byte) : ∀ (s : State) (a i : Nat), Memory.wf s.mem = true → (hi : i < bs.length) →
    memGet (s.wrBytes a bs).mem (a + i) = bs[i] := by
  induction bs with
  | nil => intro s a i h hi; simp at hi
  | cons x bs ih =>
    intro s a i h hi
    have hw := wrByte_inv s a x h
    cases i with
    | zero =>
      have h1 := wrBytes_other bs (s.wrByte a x) (a + 1) a hw (by omega)
      simpa [State.wrBytes, memGet_memSet_same a x h] using h1
    | succ i =>
      have h1 := ih (s.wrByte a x) (a + 1) i hw (by simpa using hi)
      have h2 : a + (i + 1) = a + 1 + i := by omega
      simpa [State.wrBytes, h2] using h1

@[simp] theorem wrBytes_core (bs : List Byte) : ∀ (s : State) (a : Nat), (s.wrBytes a bs).core = s.core := by
  induction bs with
  | nil => intro s a; rfl
  | cons b bs ih => intro s a; simp [State.wrBytes, ih]

/-! ### Writes that are no writes of memory proper -/

/-- A fold keeps what each of its steps keeps. -/
theorem foldl_inv {α β : Type} (P : β → Prop) (f : β → α → β) (hf : ∀ b a, P b → P (f b a)) :
    ∀ (l : List α) (b : β), P b → P (l.foldl f b) := by
  intro l
  induction l with
  | nil => intro b h; exact h
  | cons x l ih => intro b h; exact ih _ (hf b x h)

theorem foldl_mem {α : Type} (f : State → α → State) (hf : ∀ s a, (f s a).mem = s.mem) (l : List α) (s : State) :
    (l.foldl f s).mem = s.mem :=
  foldl_inv (fun t : State => t.mem = s.mem) f (fun b a h => (hf b a).trans h) l s rfl

@[simp] theorem setCore_mem (s : State) (k : Nat) (c : Core) : (s.setCore k c).mem = s.mem := by
  unfold State.setCore; split <;> rfl
@[simp] theorem modCore_mem (s : State) (k : Nat) (f : Core → Core) : (s.modCore k f).mem = s.mem := setCore_mem s k _
@[simp] theorem wake_mem (s : State) (p : TWait → Bool) : (s.wake p).mem = s.mem := rfl
@[simp] theorem fire_mem (s : State) (k id : Nat) : (s.fire k id).mem = s.mem := by simp [State.fire]
@[simp] theorem fireMet_mem (s : State) (k id : Nat) : (s.fireMet k id).mem = s.mem := by
  unfold State.fireMet; split <;> simp
@[simp] theorem setFlag_mem (s : State) (k f : Nat) (v : BitVec 16) : (s.setFlag k f v).mem = s.mem := by
  unfold State.setFlag
  simp [foldl_mem _ (fun s i => fireMet_mem s k i)]
@[simp] theorem doPost_mem (s : State) (p : Post) : (s.doPost p).mem = s.mem := by simp [State.doPost]
@[simp] theorem focus_mem (s : State) (k : Nat) : (s.focus k).mem = s.mem := by unfold State.focus; split <;> rfl
@[simp] theorem setMq_mem (s : State) (m : MQ) : (s.setMq m).mem = s.mem := rfl
@[simp] theorem bstSet_mem (s : State) (k o : Nat) (b : Byte) : (s.bstSet k o b).mem = s.mem := by
  simp [State.bstSet]
@[simp] theorem fixSg_mem (s : State) (a : Nat) : (s.fixSg a).mem = s.mem := by
  unfold State.fixSg; split <;> simp
@[simp] theorem winSet_mem (s : State) (w : Win) (b : Byte) : (s.winSet w b).mem = s.mem := by
  unfold State.winSet; split <;> simp
@[simp] theorem setApart_mem (s : State) (g : Nat) : (s.setApart g).mem = s.mem := rfl
@[simp] theorem seeInvalid_mem (s : State) : s.seeInvalid.mem = s.mem := foldl_mem _ setApart_mem _ _
@[simp] theorem mapCores_mem (s : State) (f : Core → Core) : (s.mapCores f).mem = s.mem := rfl
@[simp] theorem setFence_mem (s : State) (d : Nat) (v : Bool) : (s.setFence d v).mem = s.mem := by
  unfold State.setFence; cases v <;> rfl
@[simp] theorem enableQueue_mem (s : State) (d q : Nat) : (s.enableQueue d q).mem = s.mem := rfl

theorem memPut_wf (bs : List Byte) : ∀ (m : List Host.Cell) (a : Nat), Memory.wf m = true → Memory.wf (memPut m a bs) = true := by
  induction bs with
  | nil => intro m a h; exact h
  | cons b bs ih => intro m a h; exact ih _ _ (wf_memSet a b h)

/-- Laying out an instruction keeps the form. -/
theorem placeMem_wf (m : List Host.Cell) (d n w : Nat) (h : Memory.wf m = true) : Memory.wf (placeMem m d n w) = true :=
  memPut_wf _ _ _ (memPut_wf _ _ _ (memPut_wf _ _ _ h))

theorem place_mem (s : State) (n w : Nat) : (s.place n w).mem = placeMem s.mem (keyDie (s.placeKey n w)) n w := by
  simp only [State.place]

theorem withFetchWord_inv (s : State) (n w : Nat) (h : Memory.wf s.mem = true) : Memory.wf (s.withFetchWord n w).mem = true := by
  unfold State.withFetchWord; rw [place_mem]; exact placeMem_wf s.mem _ n w h

theorem ite_mem (c : Prop) [Decidable c] (a b : State) : (if c then a else b).mem = if c then a.mem else b.mem := by
  split <;> rfl

@[simp] theorem erestart_mem (s : State) (d : Nat) (w : Word) (x : Copy) : (s.erestart d w x).mem = s.mem := by
  simp [State.erestart]

@[simp] theorem ctlWrite_mem (s : State) (d o : Nat) (m v : Word) : (s.ctlWrite d o m v).mem = s.mem := by
  unfold State.ctlWrite
  cases ctlMask o <;> simp [ite_mem]
  all_goals (split <;> simp)

/-- A write of a place in memory proper is a run of bytes; elsewhere it changes no byte of memory. -/
theorem homeWrite_memLoc (s : State) (pa : Nat) (bs : List Byte) (h : memLoc (locate pa) = true) :
    s.homeWrite pa bs = s.wrBytes pa bs := by
  unfold State.homeWrite
  cases hl : locate pa <;> simp_all [memLoc]
  rename_i w
  cases w <;> simp_all

theorem homeWrite_window (s : State) (pa : Nat) (bs : List Byte) (w : Win) (hw : locate pa = .win w)
    (h : memLoc (.win w) = false) : (s.homeWrite pa bs).mem = s.mem := by
  unfold State.homeWrite
  rw [hw]
  cases w <;> simp_all [memLoc]
  case control => exact foldl_mem _ (fun s a => by simp) _ _
  case flags => exact foldl_mem _ (fun s a => by simp [ite_mem]) _ _
  all_goals exact foldl_mem _ (fun s a => by split <;> simp) _ _

/-- Every write at its home keeps the canonical form. -/
theorem homeWrite_inv (s : State) (pa : Nat) (bs : List Byte) (h : Memory.wf s.mem = true) :
    Memory.wf (s.homeWrite pa bs).mem = true := by
  cases hl : locate pa with
  | win w =>
    cases hm : memLoc (.win w) with
    | true => rw [homeWrite_memLoc s pa bs (by rw [hl]; exact hm)]; exact wrBytes_inv bs s pa h
    | false => rw [homeWrite_window s pa bs w hl hm]; exact h
  | _ => unfold State.homeWrite; rw [hl]; exact wrBytes_inv bs s pa h

/-- A message appended keeps the form. -/
theorem qAppend_inv (s : State) (d q : Nat) (m : Msg) (h : Memory.wf s.mem = true) : Memory.wf (s.qAppend d q m).mem = true := by
  unfold State.qAppend State.qPlace
  dsimp only
  split
  · exact h
  · exact homeWrite_inv s _ _ h

/-- A message that goes into the on-chip ring changes no byte of memory. -/
theorem qAppend_mem (s : State) (d q : Nat) (m : Msg) (h : ((s.mq d q).ring.length < 64 && (s.mq d q).flue.isEmpty) = true) :
    (s.qAppend d q m).mem = s.mem := by
  unfold State.qAppend State.qPlace
  dsimp only
  rw [if_pos h]
  rfl

theorem performStore_inv (s : State) (k pa : Nat) (bs : List Byte) (h : Memory.wf s.mem = true) :
    Memory.wf (s.performStore k pa bs).mem = true := by
  simpa [State.performStore] using homeWrite_inv s pa bs h

theorem performRel_inv (s : State) (k : Nat) (e : Released) (h : Memory.wf s.mem = true) :
    Memory.wf (s.performRel k e).mem = true := by
  cases e with
  | store pa d a =>
    unfold State.performRel State.performHeld
    simpa using performStore_inv s k pa d h
  | post p a => simpa [State.performRel] using h

/-- Performing everything released keeps the form. -/
theorem flushRel_inv (s : State) (k : Nat) (h : Memory.wf s.mem = true) : Memory.wf (s.flushRel k).mem = true := by
  unfold State.flushRel
  exact foldl_inv (fun t : State => Memory.wf t.mem = true) _ (fun b e hb => performRel_inv b k e hb) _ _ (by simpa using h)

theorem putRuns_inv (s : State) (k : Nat) (as : List Nat) (bs : List Byte) (h : Memory.wf s.mem = true) :
    Memory.wf (putRuns s k as bs).mem = true := by
  induction as generalizing s k bs with
  | nil => cases k <;> simpa [putRuns] using h
  | cons a as ih =>
    cases bs with
    | nil => cases k <;> simpa [putRuns] using h
    | cons b bs =>
      cases k with
      | zero => simpa [putRuns] using ih _ _ _ (homeWrite_inv s a _ h)
      | succ k => simpa [putRuns] using ih _ _ _ h

/-- An engine's or a processor's write through translation keeps the form. -/
theorem putAt_inv (s : State) (as : List Nat) (bs : List Byte) (h : Memory.wf s.mem = true) :
    Memory.wf (s.putAt as bs).mem = true := putRuns_inv s 0 as bs h

/-- A store to memory proper: its bytes stand there, and no other byte changes. -/
theorem performStore_memLoc (s : State) (k pa : Nat) (bs : List Byte) (h : Memory.wf s.mem = true)
    (hl : memLoc (locate pa) = true) :
    StoresAt pa bs.length s (s.performStore k pa bs) ∧ Holds (s.performStore k pa bs) pa bs := by
  have hm : (s.performStore k pa bs).mem = (s.wrBytes pa bs).mem := by simp [State.performStore, homeWrite_memLoc s pa bs hl]
  constructor
  · intro a ha; rw [hm]; exact wrBytes_other bs s pa a h ha
  · intro i hi
    rw [hm, wrBytes_same bs s pa i h hi]
    simp [hi]

/-- The memory of reset has the canonical form. -/
theorem reset_wf : Memory.wf State.reset.mem = true := rfl

end Sys2Proof.Laws
end

