-- ==== Sys2Proof/Laws/Ops.lean ====
section
/-!
SUPPORT. One law for each shared operation of a core: all that it can do, said once. Proofs about an instruction cite these and
need not unfold the operation.
-/
namespace Sys2Proof.Laws
open Machine

/-! ### Operand ports -/

/-- An S operation's A operand stands in the S port unless it is `ko`; nothing else changes. -/
theorem loadS_eq (s : State) (a : Src) : s.loadS a =
    { s with core := { s.core with live := { s.core.live with portS := if a = .ko then s.core.live.portS else s.src .s a } } } := by
  unfold State.loadS; split <;> rfl

theorem loadL_eq (s : State) (a : Src) : s.loadL a =
    { s with core := { s.core with live := { s.core.live with portL := if a = .ko then s.core.live.portL else s.src .l a } } } := by
  unfold State.loadL; split <;> rfl

@[simp] theorem loadS_mem (s : State) (a : Src) : (s.loadS a).mem = s.mem := by rw [loadS_eq]
@[simp] theorem loadL_mem (s : State) (a : Src) : (s.loadL a).mem = s.mem := by rw [loadL_eq]

/-- Rotation does not see the ports. -/
@[simp] theorem physX_loadS (s : State) (a : Src) (d : XReg) : physX (s.loadS a).core.live d = physX s.core.live d := by
  rw [loadS_eq]; rfl
@[simp] theorem physP_loadS (s : State) (a : Src) (d : Fin 16) : physP (s.loadS a).core.live d = physP s.core.live d := by
  rw [loadS_eq]; rfl
@[simp] theorem physX_loadL (s : State) (a : Src) (d : XReg) : physX (s.loadL a).core.live d = physX s.core.live d := by
  rw [loadL_eq]; rfl
@[simp] theorem physP_loadL (s : State) (a : Src) (d : Fin 16) : physP (s.loadL a).core.live d = physP s.core.live d := by
  rw [loadL_eq]; rfl

/-! ### Exposed results -/

/-- The record that an exposed operation leaves in flight. -/
def flight (s : State) (lat : Nat) (ws : List LWrite) : Landing :=
  { seq := s.core.seq, pcb := s.core.iss.pcb, slot := s.core.iss.slot, issued := s.core.cyc,
    due := s.core.cyc + (if s.onSaffron then 1 else lat), landed := false, ws := ws }

/-- Exposing adds one record in flight and marks the outstanding results whose register it meets; nothing else changes. -/
theorem expose_spec (s : State) (lat : Nat) (ws : List LWrite) :
    s.expose lat ws = { s with core := { s.core with
      land := (s.expose lat ws).core.land, outst := (s.expose lat ws).core.outst } } ∧
    (s.expose lat ws).core.land = s.core.land ++ [flight s lat ws] ∧
    (s.expose lat ws).core.outst.length = s.core.outst.length := by
  refine ⟨rfl, rfl, ?_⟩
  simp [State.expose]

/-- With no result outstanding only the records in flight change. -/
theorem expose_quiet (s : State) (lat : Nat) (ws : List LWrite) (h : s.core.outst = []) :
    s.expose lat ws = { s with core := { s.core with land := s.core.land ++ [flight s lat ws] } } := by
  rw [(expose_spec s lat ws).1, (expose_spec s lat ws).2.1]
  have : (s.expose lat ws).core.outst = s.core.outst := by simp [State.expose, h]
  rw [this]

/-- A scalar result: destination, `sq`, and flags where some are set, in one record. -/
theorem toX_spec (s : State) (lat : Nat) (d : XReg) (v : Word) (f : Fl) :
    (s.toX lat d v f).core.land = s.core.land ++
      [flight s lat ([.x (physX s.core.live d) v, .sq v] ++ if f = 0 then [] else [.flags f])] ∧
    (s.toX lat d v f).core.live = s.core.live ∧ (s.toX lat d v f).mem = s.mem := ⟨rfl, rfl, rfl⟩

/-- A condition: both members of the pair and `sq` in one record. -/
theorem toPair_spec (s : State) (lat : Nat) (p : Pair) (b : Bool) (f : Fl) :
    (s.toPair lat p b f).core.land = s.core.land ++
      [flight s lat ([.p (physP s.core.live (pairEven p)) b, .p (physP s.core.live (pairOdd p)) (!b), .sq (condW b)] ++
        if f = 0 then [] else [.flags f])] ∧
    (s.toPair lat p b f).core.live = s.core.live ∧ (s.toPair lat p b f).mem = s.mem := ⟨rfl, rfl, rfl⟩

/-! ### Scoreboarded results -/

/-- A result joins the outstanding ones, marked where an exposed write of its register is in flight; nothing else changes. -/
theorem result_spec (s : State) (o : Outst) :
    ∃ b, s.result o = { s with core := { s.core with outst := s.core.outst ++ [{ o with clash := o.clash || b }] } } :=
  ⟨_, rfl⟩

theorem deliver_spec (s : State) (d : Option XReg) (v : Word) (lq : Option Word) (p : Option (Pair × Bool)) :
    ∃ o : Outst, s.deliver d v lq p = { s with core := { s.core with outst := s.core.outst ++ [o] } } ∧ o.val = v ∧ o.lq = lq ∧
      o.xd = d.map (physX s.core.live) ∧ o.fault = none ∧ o.ld = none := by
  refine ⟨_, rfl, rfl, rfl, rfl, rfl, rfl⟩

/-- The withholding buffer takes an entry at its end while it has room. -/
theorem enter_spec (s : State) (e : WEntry) (ea : Word) (h : s.core.whb.length < whbMax) :
    s.enter e ea = { s with core := { s.core with whb := s.core.whb ++ [e] } } := by
  unfold State.enter
  have : ¬whbMax ≤ s.core.whb.length := by omega
  simp only [this, if_false]
  rfl

/-! ### Nothing in flight -/

/-- The state whose rows read as they stand. -/
def settled (s : State) : State := { s with core := { s.core with rowOld := [] } }

theorem landAll_quiet (s : State) (h : s.Quiet) : s.landAll = settled s := by
  obtain ⟨h1, _⟩ := h
  unfold State.landAll
  simp only [h1, List.length_nil, landLoop]
  cases s with | mk here core => cases core; simp_all [settled]

/-- Where nothing is in flight a drain changes only what a read may still get of a row written before (`rowOld`). -/
theorem landEverything_quiet (s : State) (h : s.Quiet) : s.landEverything = settled s := by
  unfold State.landEverything
  rw [landAll_quiet s h]
  simp [State.hLandAll, settled, h.2.1]

/-- A bundle's control registers are PBOUND and LIVEMASK, and nothing else. -/
theorem endControls_only (c : Core) : ∃ p m, c.endControls = { c with pbound := p, livemask := m } := by
  have step : ∀ c e, ∃ p m, Core.endControl c e = { c with pbound := p, livemask := m } := by
    intro c e
    cases e <;> exact ⟨_, _, rfl⟩
  have all : ∀ (es : List EobWrite) (c : Core), ∃ p m, es.foldl Core.endControl c = { c with pbound := p, livemask := m } := by
    intro es
    induction es with
    | nil => exact fun c => ⟨_, _, rfl⟩
    | cons e es ih =>
      intro c
      obtain ⟨p, m, h⟩ := step c e
      obtain ⟨p', m', h'⟩ := ih { c with pbound := p, livemask := m }
      exact ⟨p', m', by rw [List.foldl_cons, h, h']⟩
  exact all _ c

/-- What a rollback leaves, where nothing is in flight. -/
theorem rollback_quiet (s : State) (h : s.Quiet) :
    s.rollback.here = s.here ∧ s.rollback.dreg = s.dreg ∧ s.rollback.tick = s.tick ∧ s.rollback.mem = s.mem ∧
    s.rollback.tasks = s.tasks ∧ s.rollback.parked = s.parked ∧
    s.rollback.core.tcw = s.core.tcw ∧ s.rollback.core.ckpt = s.core.ckpt ∧ s.rollback.core.pc = s.core.ckpt ∧
    s.rollback.core.phase = s.core.phase ∧ s.rollback.core.live = s.core.dup.refetch ∧ s.rollback.core.whb = [] ∧
    s.rollback.core.ember = [] ∧ s.rollback.core.iss = {} := by
  unfold State.rollback
  obtain ⟨p, m, e⟩ := endControls_only (settled s).core
  simp only [landEverything_quiet s h, e]
  exact ⟨rfl, rfl, rfl, rfl, rfl, rfl, rfl, rfl, rfl, rfl, rfl, rfl, rfl, rfl⟩

/-! ### Traps -/

/-- With nothing earlier pending a trap is entered at once. -/
theorem takeTrap_quiet (s : State) (t : TrapInfo) (h : s.CanTrap) (hh : t.held = false) : s.takeTrap t = (settled s).enterTrap t := by
  obtain ⟨hq, hp, hs, he⟩ := h
  unfold State.takeTrap
  simp only [hs, Bool.false_eq_true, if_false, landEverything_quiet s hq, settled]
  obtain ⟨h1, h2, h3, h4, h5, h6⟩ := hq
  have due : Core.dueTrap { s.core with rowOld := [] } t = t := by
    unfold Core.dueTrap
    split
    · rfl
    · simp only [h4, Option.filter_none]
      cases t
      simp_all [Core.loadTraps, firstTrap]
  rw [due]
  simp [h6]

/-- The cause word of a trap with no once-only result, not held and no divergence. -/
theorem tcauseWord_plain (t : TrapInfo) (ho : t.once = none) (hh : t.held = false) (hr : t.rdiv = false) (hs : t.slot < 16) :
    tcauseWord t false = BitVec.ofNat 64 (t.detail.toNat * 2 ^ 32 + t.slot * 2 ^ 20 + t.cause) := by
  unfold tcauseWord
  have e : ∀ k, boolW false k = 0 := fun _ => rfl
  have e1 := e 19
  have e2 := e 18
  have e3 := e 17
  have e4 := e 16
  rw [ho, hh, hr, Option.isSome_none]
  apply congrArg
  omega

/-- The record of a trap does not depend on what a row held before. -/
theorem trapTaken_settled {s t : State} {c d n : Nat} {b a r : Word} (h : TrapTaken (settled s) t c d n b a r) :
    TrapTaken s t c d n b a r :=
  ⟨h.handler, h.vector, h.status, h.resumes, h.mode, h.record, h.bundle, h.address, h.point, h.time, h.state, h.buffer, h.bytes⟩

/-- Taking a trap: cause, detail, slot, bundle and address in the record, the handler's mode and entry, the task's state as it
was at its last checkpoint, and no byte of memory changed. -/
theorem takeTrap_taken (s : State) (t : TrapInfo) (h : s.CanTrap) (ho : t.once = none) (hh : t.held = false)
    (hr : t.rdiv = false) (hs : t.slot < 16) :
    TrapTaken s (s.takeTrap t) t.cause t.detail.toNat t.slot t.pcb t.addr (t.resume.getD s.core.ckpt) := by
  rw [takeTrap_quiet s t h hh]
  have h : (settled s).CanTrap := h
  apply trapTaken_settled
  change TrapTaken (settled s) _ _ _ _ _ _ (t.resume.getD (settled s).core.ckpt)
  generalize settled s = s at h ⊢
  obtain ⟨hq, hp, hsf, he⟩ := h
  have hdb : (s.core.phase == .handler || !s.trapEnabled) = false := by simp [hp, he]
  unfold State.enterTrap
  simp only [hdb, Bool.false_eq_true, if_false]
  obtain ⟨r1, r2, r3, r4, r5, r6, r7, r8, r9, r10, r11, r12, r13, r14⟩ := rollback_quiet s hq
  have hd : t.detail.toNat % 2 ^ 32 = t.detail.toNat := Nat.mod_eq_of_lt t.detail.isLt
  constructor
  case record => rw [hd]; exact tcauseWord_plain t ho hh hr hs
  case bytes => intro a; simp [r4]
  all_goals simp [Core.record, r1, r2, r3, r7, r8, r11, r12, State.trapEntry, State.dget, handlerTcw]

/-- The trap of the slot being issued. -/
theorem trap_taken (s : State) (cause detail : Nat) (addr : Word) (h : s.CanTrap) :
    TrapTaken s (s.trap cause detail addr) cause (detail % 2 ^ 32) s.core.iss.slot.num s.core.iss.pcb addr s.core.ckpt := by
  have hs : s.core.iss.slot.num < 16 := by cases s.core.iss.slot <;> decide
  let i : TrapInfo :=
    { cause := cause, detail := BitVec.ofNat 32 detail, slot := s.core.iss.slot.num, pcb := s.core.iss.pcb, addr := addr,
      seq := s.core.seq }
  have h1 := takeTrap_taken s i h rfl rfl rfl hs
  have h2 : i.detail.toNat = detail % 2 ^ 32 := BitVec.toNat_ofNat detail 32
  rw [h2] at h1
  exact h1

/-- A trap in a handler, or with no handler enabled, stops the core: the double trap. -/
theorem enterTrap_double (s : State) (t : TrapInfo) (h : s.core.phase = .handler ∨ s.trapEnabled = false) :
    (s.enterTrap t).core.phase = .stopped := by
  have hd : (s.core.phase == .handler || !s.trapEnabled) = true := by
    rcases h with h | h <;> simp [h]
  unfold State.enterTrap
  simp only [hd, if_true]

/-- The return from a handler: saved TCW, resume address, the task's state, no byte of memory changed. -/
theorem returnTrap_spec (s : State) :
    s.returnTrap.core.tcw = s.core.trtcw ∧ s.returnTrap.core.pc = s.core.trpc &&& 0xFFFFFFFFFFFFFFFC ∧
    s.returnTrap.core.phase = .run ∧ s.returnTrap.core.live = s.core.dup.refetch ∧ s.returnTrap.core.dup = s.core.dup ∧
    s.returnTrap.mem = s.mem ∧ s.returnTrap.tasks = s.tasks := ⟨rfl, rfl, rfl, rfl, rfl, rfl, rfl⟩

/-! ### Agents -/

/-- Bringing an agent into focus keeps every agent's record. -/
theorem lookup_store_same (l : List (Nat × Core)) (k : Nat) (c : Core) : lookupCore (storeCore l k c) k = c := by
  induction l with
  | nil => simp [storeCore, lookupCore]
  | cons p ps ih =>
    unfold storeCore
    split
    · simp [lookupCore]
    · next h => simp [lookupCore, h, ih]

theorem lookup_store_other (l : List (Nat × Core)) (k j : Nat) (c : Core) (h : j ≠ k) :
    lookupCore (storeCore l k c) j = lookupCore l j := by
  induction l with
  | nil => simp [storeCore, lookupCore, Ne.symm h]
  | cons p ps ih =>
    unfold storeCore
    split
    · next hp => subst hp; simp [lookupCore, Ne.symm h]
    · simp only [lookupCore, ih]

theorem coreOf_focus (s : State) (k j : Nat) : (s.focus k).coreOf j = s.coreOf j := by
  unfold State.focus
  split
  · rfl
  · next h =>
    unfold State.coreOf
    by_cases hj : j = k
    · subst hj; simp [h]
    · by_cases hh : j = s.here
      · subst hh; simp [hj, lookup_store_same]
      · simp [hj, hh, lookup_store_other _ _ _ _ hh]

/-- A changed record reads back, and every other one as before. -/
theorem coreOf_setCore (s : State) (k j : Nat) (c : Core) : (s.setCore k c).coreOf j = if j = k then c else s.coreOf j := by
  unfold State.setCore
  split
  · next h => subst h; unfold State.coreOf; split <;> rfl
  · next h =>
    unfold State.coreOf
    by_cases hj : j = k
    · subst hj; simp [h, lookup_store_same]
    · simp [hj, lookup_store_other _ _ _ _ hj]

/-! ### Registers of the dies -/

theorem assocGet_set_same {β : Type} (d : β) (l : List (Nat × β)) (k : Nat) (v : β) : assocGet d (assocSet l k v) k = v := by
  induction l with
  | nil => simp [assocSet, assocGet]
  | cons p ps ih =>
    unfold assocSet
    by_cases h : p.1 = k
    · simp [h, assocGet]
    · by_cases hk : k < p.1 <;> simp [h, hk, assocGet, ih]

theorem assocGet_set_other {β : Type} (d : β) (l : List (Nat × β)) (k j : Nat) (v : β) (h : j ≠ k) :
    assocGet d (assocSet l k v) j = assocGet d l j := by
  induction l with
  | nil => simp [assocSet, assocGet, Ne.symm h]
  | cons p ps ih =>
    unfold assocSet
    by_cases hp : p.1 = k
    · have : ¬p.1 = j := fun e => h (e.symm.trans hp)
      simp [hp, assocGet, Ne.symm h]
    · by_cases hk : k < p.1 <;> simp [hp, hk, assocGet, ih, Ne.symm h]

/-- A control register reads as it was written. -/
@[simp] theorem dget_dset_same (s : State) (d o : Nat) (v : Word) : (s.dset d o v).dget d o = v :=
  assocGet_set_same _ _ _ _

theorem dget_dset_other (s : State) (d o e p : Nat) (v : Word) (h : dkey e p ≠ dkey d o) :
    (s.dset d o v).dget e p = s.dget e p := assocGet_set_other _ _ _ _ _ h

theorem find_assocSet {β : Type} (l : List (Nat × β)) (k j : Nat) (v : β) :
    (assocSet l k v).find? (fun p => p.1 = j) = if j = k then some (k, v) else l.find? (fun p => p.1 = j) := by
  induction l with
  | nil => by_cases h : j = k <;> simp [assocSet, h, eq_comm]
  | cons p ps ih =>
    unfold assocSet
    by_cases hp : p.1 = k
    · by_cases h : j = k
      · simp [hp, h]
      · simp [hp, h, Ne.symm h]
    · by_cases hk : k < p.1
      · by_cases h : j = k
        · simp [hp, hk, h]
        · simp [hp, hk, h, Ne.symm h]
      · by_cases h : j = k
        · subst h; simp [hp, hk, ih]
        · rw [if_neg hp, if_neg hk]
          by_cases hj : p.1 = j <;> simp [h, hj, ih]

/-- A row reads as it was written, and every other row as before. -/
theorem rowGet_rowSet (c : Core) (r q : Nat) (v : Row) : rowGet (rowSet c r v) q = if q = r then v else rowGet c q := by
  unfold rowGet rowSet
  simp only [find_assocSet]
  by_cases h : q = r <;> simp [h]

/-! ### Performing released entries -/

@[simp] theorem landWrite_mem (s : State) (e : Landing) (w : LWrite) : (s.landWrite e w).mem = s.mem := by
  unfold State.landWrite
  cases w <;> simp only <;> repeat' split
  all_goals rfl

theorem landAt_mem (s : State) (i : Nat) : (s.landAt i).mem = s.mem := by
  unfold State.landAt
  split
  · rfl
  · next e _ =>
    split
    · rfl
    · exact foldl_mem _ (fun s w => landWrite_mem s e w) _ _

theorem landLoop_mem (lim : Nat) : ∀ (n : Nat) (s : State), (landLoop lim n s).mem = s.mem := by
  intro n
  induction n with
  | zero => intro s; rfl
  | succ n ih =>
    intro s
    unfold landLoop
    split
    · rfl
    · rw [ih, landAt_mem]

/-- Exposed results that land write no memory. -/
@[simp] theorem landAll_mem (s : State) : s.landAll.mem = s.mem := landLoop_mem _ _ _
@[simp] theorem landDue_mem (s : State) : s.landDue.mem = s.mem := landLoop_mem _ _ _

end Sys2Proof.Laws
end

