-- ==== Sys2Proof/Laws/PerInstr.lean ====
section
/-! SUPPORT. For every instruction: an event has no encoding in any slot. -/

namespace Sys2Proof.Laws.EventsUnencoded

/-- Events of the core and of the engines stand in no slot of a bundle: the encoder gives them no word. -/
def Statement (i : Instr) : Prop := i.slotOp = false → ∀ sl, encSlot sl i = none

theorem pfx : ∀ a0 a1 a2 a3, Statement (.pfx a0 a1 a2 a3) := fun _ _ _ _ h => Bool.noConfusion h
theorem add : ∀ a0 a1 a2, Statement (.add a0 a1 a2) := fun _ _ _ h => Bool.noConfusion h
theorem sub : ∀ a0 a1 a2, Statement (.sub a0 a1 a2) := fun _ _ _ h => Bool.noConfusion h
theorem mul : ∀ a0 a1 a2, Statement (.mul a0 a1 a2) := fun _ _ _ h => Bool.noConfusion h
theorem mulh : ∀ a0 a1 a2, Statement (.mulh a0 a1 a2) := fun _ _ _ h => Bool.noConfusion h
theorem mulhn : ∀ a0 a1 a2, Statement (.mulhn a0 a1 a2) := fun _ _ _ h => Bool.noConfusion h
theorem and : ∀ a0 a1 a2, Statement (.and a0 a1 a2) := fun _ _ _ h => Bool.noConfusion h
theorem or : ∀ a0 a1 a2, Statement (.or a0 a1 a2) := fun _ _ _ h => Bool.noConfusion h
theorem xor : ∀ a0 a1 a2, Statement (.xor a0 a1 a2) := fun _ _ _ h => Bool.noConfusion h
theorem andn : ∀ a0 a1 a2, Statement (.andn a0 a1 a2) := fun _ _ _ h => Bool.noConfusion h
theorem shl : ∀ a0 a1 a2, Statement (.shl a0 a1 a2) := fun _ _ _ h => Bool.noConfusion h
theorem shr : ∀ a0 a1 a2, Statement (.shr a0 a1 a2) := fun _ _ _ h => Bool.noConfusion h
theorem sar : ∀ a0 a1 a2, Statement (.sar a0 a1 a2) := fun _ _ _ h => Bool.noConfusion h
theorem rotl : ∀ a0 a1 a2, Statement (.rotl a0 a1 a2) := fun _ _ _ h => Bool.noConfusion h
theorem min : ∀ a0 a1 a2, Statement (.min a0 a1 a2) := fun _ _ _ h => Bool.noConfusion h
theorem max : ∀ a0 a1 a2, Statement (.max a0 a1 a2) := fun _ _ _ h => Bool.noConfusion h
theorem minn : ∀ a0 a1 a2, Statement (.minn a0 a1 a2) := fun _ _ _ h => Bool.noConfusion h
theorem maxn : ∀ a0 a1 a2, Statement (.maxn a0 a1 a2) := fun _ _ _ h => Bool.noConfusion h
theorem sext : ∀ a0 a1 a2, Statement (.sext a0 a1 a2) := fun _ _ _ h => Bool.noConfusion h
theorem zext : ∀ a0 a1 a2, Statement (.zext a0 a1 a2) := fun _ _ _ h => Bool.noConfusion h
theorem clz : ∀ a0 a1, Statement (.clz a0 a1) := fun _ _ h => Bool.noConfusion h
theorem ctz : ∀ a0 a1, Statement (.ctz a0 a1) := fun _ _ h => Bool.noConfusion h
theorem popc : ∀ a0 a1, Statement (.popc a0 a1) := fun _ _ h => Bool.noConfusion h
theorem bfx : ∀ a0 a1 a2, Statement (.bfx a0 a1 a2) := fun _ _ _ h => Bool.noConfusion h
theorem bfi : ∀ a0 a1 a2, Statement (.bfi a0 a1 a2) := fun _ _ _ h => Bool.noConfusion h
theorem li : ∀ a0 a1, Statement (.li a0 a1) := fun _ _ h => Bool.noConfusion h
theorem lih : ∀ a0 a1 a2, Statement (.lih a0 a1 a2) := fun _ _ _ h => Bool.noConfusion h
theorem cmpeq : ∀ a0 a1 a2, Statement (.cmpeq a0 a1 a2) := fun _ _ _ h => Bool.noConfusion h
theorem cmpne : ∀ a0 a1 a2, Statement (.cmpne a0 a1 a2) := fun _ _ _ h => Bool.noConfusion h
theorem cmplt : ∀ a0 a1 a2, Statement (.cmplt a0 a1 a2) := fun _ _ _ h => Bool.noConfusion h
theorem cmple : ∀ a0 a1 a2, Statement (.cmple a0 a1 a2) := fun _ _ _ h => Bool.noConfusion h
theorem cmpltn : ∀ a0 a1 a2, Statement (.cmpltn a0 a1 a2) := fun _ _ _ h => Bool.noConfusion h
theorem cmplen : ∀ a0 a1 a2, Statement (.cmplen a0 a1 a2) := fun _ _ _ h => Bool.noConfusion h
theorem cmptst : ∀ a0 a1 a2, Statement (.cmptst a0 a1 a2) := fun _ _ _ h => Bool.noConfusion h
theorem pand : ∀ a0 a1 a2 a3 a4, Statement (.pand a0 a1 a2 a3 a4) := fun _ _ _ _ _ h => Bool.noConfusion h
theorem por : ∀ a0 a1 a2 a3 a4, Statement (.por a0 a1 a2 a3 a4) := fun _ _ _ _ _ h => Bool.noConfusion h
theorem pxor : ∀ a0 a1 a2 a3 a4, Statement (.pxor a0 a1 a2 a3 a4) := fun _ _ _ _ _ h => Bool.noConfusion h
theorem fadd : ∀ a0 a1 a2, Statement (.fadd a0 a1 a2) := fun _ _ _ h => Bool.noConfusion h
theorem fsub : ∀ a0 a1 a2, Statement (.fsub a0 a1 a2) := fun _ _ _ h => Bool.noConfusion h
theorem fmul : ∀ a0 a1 a2, Statement (.fmul a0 a1 a2) := fun _ _ _ h => Bool.noConfusion h
theorem fma : ∀ a0 a1 a2, Statement (.fma a0 a1 a2) := fun _ _ _ h => Bool.noConfusion h
theorem fdiv : ∀ a0 a1 a2, Statement (.fdiv a0 a1 a2) := fun _ _ _ h => Bool.noConfusion h
theorem fsqrt : ∀ a0 a1, Statement (.fsqrt a0 a1) := fun _ _ h => Bool.noConfusion h
theorem fmin : ∀ a0 a1 a2, Statement (.fmin a0 a1 a2) := fun _ _ _ h => Bool.noConfusion h
theorem fmax : ∀ a0 a1 a2, Statement (.fmax a0 a1 a2) := fun _ _ _ h => Bool.noConfusion h
theorem fcmpeq : ∀ a0 a1 a2, Statement (.fcmpeq a0 a1 a2) := fun _ _ _ h => Bool.noConfusion h
theorem fcmplt : ∀ a0 a1 a2, Statement (.fcmplt a0 a1 a2) := fun _ _ _ h => Bool.noConfusion h
theorem fcmple : ∀ a0 a1 a2, Statement (.fcmple a0 a1 a2) := fun _ _ _ h => Bool.noConfusion h
theorem fcvtfi : ∀ a0 a1 a2, Statement (.fcvtfi a0 a1 a2) := fun _ _ _ h => Bool.noConfusion h
theorem fcvtif : ∀ a0 a1 a2, Statement (.fcvtif a0 a1 a2) := fun _ _ _ h => Bool.noConfusion h
theorem qmk : ∀ a0 a1 a2, Statement (.qmk a0 a1 a2) := fun _ _ _ h => Bool.noConfusion h
theorem qnum : ∀ a0 a1, Statement (.qnum a0 a1) := fun _ _ h => Bool.noConfusion h
theorem qden : ∀ a0 a1, Statement (.qden a0 a1) := fun _ _ h => Bool.noConfusion h
theorem qflr : ∀ a0 a1, Statement (.qflr a0 a1) := fun _ _ h => Bool.noConfusion h
theorem qceil : ∀ a0 a1, Statement (.qceil a0 a1) := fun _ _ h => Bool.noConfusion h
theorem qfromf : ∀ a0 a1, Statement (.qfromf a0 a1) := fun _ _ h => Bool.noConfusion h
theorem qtof : ∀ a0 a1, Statement (.qtof a0 a1) := fun _ _ h => Bool.noConfusion h
theorem lcset : ∀ a0 a1, Statement (.lcset a0 a1) := fun _ _ h => Bool.noConfusion h
theorem lcget : ∀ a0 a1, Statement (.lcget a0 a1) := fun _ _ h => Bool.noConfusion h
theorem lcnext : ∀ a0 a1 a2, Statement (.lcnext a0 a1 a2) := fun _ _ _ h => Bool.noConfusion h
theorem rdid : ∀ a0 a1, Statement (.rdid a0 a1) := fun _ _ h => Bool.noConfusion h
theorem rdfst : ∀ a0, Statement (.rdfst a0) := fun _ h => Bool.noConfusion h
theorem wrfst : ∀ a0, Statement (.wrfst a0) := fun _ h => Bool.noConfusion h
theorem sgset : ∀ a0 a1, Statement (.sgset a0 a1) := fun _ _ h => Bool.noConfusion h
theorem vstp : ∀ a0 a1, Statement (.vstp a0 a1) := fun _ _ h => Bool.noConfusion h
theorem fmset : ∀ a0 a1, Statement (.fmset a0 a1) := fun _ _ h => Bool.noConfusion h
theorem fmget : ∀ a0 a1, Statement (.fmget a0 a1) := fun _ _ h => Bool.noConfusion h
theorem bprep : ∀ a0 a1, Statement (.bprep a0 a1) := fun _ _ h => Bool.noConfusion h
theorem bprepL : ∀ a0 a1, Statement (.bprepL a0 a1) := fun _ _ h => Bool.noConfusion h
theorem bprepi : ∀ a0 a1, Statement (.bprepi a0 a1) := fun _ _ h => Bool.noConfusion h
theorem bprepiL : ∀ a0 a1, Statement (.bprepiL a0 a1) := fun _ _ h => Bool.noConfusion h
theorem sysc : ∀ a0, Statement (.sysc a0) := fun _ h => Bool.noConfusion h
theorem brk : ∀ a0, Statement (.brk a0) := fun _ h => Bool.noConfusion h
theorem rdcr : ∀ a0 a1, Statement (.rdcr a0 a1) := fun _ _ h => Bool.noConfusion h
theorem wrcr : ∀ a0 a1, Statement (.wrcr a0 a1) := fun _ _ h => Bool.noConfusion h
theorem ldN8 : ∀ a0 a1 a2, Statement (.ldN8 a0 a1 a2) := fun _ _ _ h => Bool.noConfusion h
theorem ldN16 : ∀ a0 a1 a2, Statement (.ldN16 a0 a1 a2) := fun _ _ _ h => Bool.noConfusion h
theorem ldN32 : ∀ a0 a1 a2, Statement (.ldN32 a0 a1 a2) := fun _ _ _ h => Bool.noConfusion h
theorem ldN64 : ∀ a0 a1 a2, Statement (.ldN64 a0 a1 a2) := fun _ _ _ h => Bool.noConfusion h
theorem stN8 : ∀ a0 a1 a2, Statement (.stN8 a0 a1 a2) := fun _ _ _ h => Bool.noConfusion h
theorem stN16 : ∀ a0 a1 a2, Statement (.stN16 a0 a1 a2) := fun _ _ _ h => Bool.noConfusion h
theorem stN32 : ∀ a0 a1 a2, Statement (.stN32 a0 a1 a2) := fun _ _ _ h => Bool.noConfusion h
theorem stN64 : ∀ a0 a1 a2, Statement (.stN64 a0 a1 a2) := fun _ _ _ h => Bool.noConfusion h
theorem ldsN8 : ∀ a0 a1 a2, Statement (.ldsN8 a0 a1 a2) := fun _ _ _ h => Bool.noConfusion h
theorem ldsN16 : ∀ a0 a1 a2, Statement (.ldsN16 a0 a1 a2) := fun _ _ _ h => Bool.noConfusion h
theorem ldsN32 : ∀ a0 a1 a2, Statement (.ldsN32 a0 a1 a2) := fun _ _ _ h => Bool.noConfusion h
theorem ldsN64 : ∀ a0 a1 a2, Statement (.ldsN64 a0 a1 a2) := fun _ _ _ h => Bool.noConfusion h
theorem stsN8 : ∀ a0 a1 a2, Statement (.stsN8 a0 a1 a2) := fun _ _ _ h => Bool.noConfusion h
theorem stsN16 : ∀ a0 a1 a2, Statement (.stsN16 a0 a1 a2) := fun _ _ _ h => Bool.noConfusion h
theorem stsN32 : ∀ a0 a1 a2, Statement (.stsN32 a0 a1 a2) := fun _ _ _ h => Bool.noConfusion h
theorem stsN64 : ∀ a0 a1 a2, Statement (.stsN64 a0 a1 a2) := fun _ _ _ h => Bool.noConfusion h
theorem amoadd : ∀ a0 a1 a2, Statement (.amoadd a0 a1 a2) := fun _ _ _ h => Bool.noConfusion h
theorem amoswp : ∀ a0 a1 a2, Statement (.amoswp a0 a1 a2) := fun _ _ _ h => Bool.noConfusion h
theorem amocas : ∀ a0 a1 a2, Statement (.amocas a0 a1 a2) := fun _ _ _ h => Bool.noConfusion h
theorem amomin : ∀ a0 a1 a2, Statement (.amomin a0 a1 a2) := fun _ _ _ h => Bool.noConfusion h
theorem amomax : ∀ a0 a1 a2, Statement (.amomax a0 a1 a2) := fun _ _ _ h => Bool.noConfusion h
theorem amoand : ∀ a0 a1 a2, Statement (.amoand a0 a1 a2) := fun _ _ _ h => Bool.noConfusion h
theorem amoor : ∀ a0 a1 a2, Statement (.amoor a0 a1 a2) := fun _ _ _ h => Bool.noConfusion h
theorem qpush : ∀ a0 a1, Statement (.qpush a0 a1) := fun _ _ h => Bool.noConfusion h
theorem qpop : ∀ a0 a1, Statement (.qpop a0 a1) := fun _ _ h => Bool.noConfusion h
theorem qtry : ∀ a0 a1 a2, Statement (.qtry a0 a1 a2) := fun _ _ _ h => Bool.noConfusion h
theorem tspawn : ∀ a0 a1 a2, Statement (.tspawn a0 a1 a2) := fun _ _ _ h => Bool.noConfusion h
theorem sframe : ∀ a0 a1 a2, Statement (.sframe a0 a1 a2) := fun _ _ _ h => Bool.noConfusion h
theorem strunc : ∀ a0 a1 a2, Statement (.strunc a0 a1 a2) := fun _ _ _ h => Bool.noConfusion h
theorem sadv : ∀ a0 a1 a2, Statement (.sadv a0 a1 a2) := fun _ _ _ h => Bool.noConfusion h
theorem scur : ∀ a0 a1 a2, Statement (.scur a0 a1 a2) := fun _ _ _ h => Bool.noConfusion h
theorem sgen : ∀ a0 a1 a2, Statement (.sgen a0 a1 a2) := fun _ _ _ h => Bool.noConfusion h
theorem smpl : ∀ a0 a1, Statement (.smpl a0 a1) := fun _ _ h => Bool.noConfusion h
theorem sacc : ∀ a0 a1, Statement (.sacc a0 a1) := fun _ _ h => Bool.noConfusion h
theorem srng : ∀ a0, Statement (.srng a0) := fun _ h => Bool.noConfusion h
theorem wait : ∀ a0 a1, Statement (.wait a0 a1) := fun _ _ h => Bool.noConfusion h
theorem waity : ∀ a0 a1, Statement (.waity a0 a1) := fun _ _ h => Bool.noConfusion h
theorem post : ∀ a0 a1 a2, Statement (.post a0 a1 a2) := fun _ _ _ h => Bool.noConfusion h
theorem postr : ∀ a0 a1 a2 a3, Statement (.postr a0 a1 a2 a3) := fun _ _ _ _ h => Bool.noConfusion h
theorem barr : ∀ a0, Statement (.barr a0) := fun _ h => Bool.noConfusion h
theorem agree : ∀ a0, Statement (.agree a0) := fun _ h => Bool.noConfusion h
theorem agreep : ∀ a0 a1, Statement (.agreep a0 a1) := fun _ _ h => Bool.noConfusion h
theorem agreeT : ∀ a0, Statement (.agreeT a0) := fun _ h => Bool.noConfusion h
theorem agst : ∀ a0 a1 a2, Statement (.agst a0 a1 a2) := fun _ _ _ h => Bool.noConfusion h
theorem vadd : ∀ a0, Statement (.vadd a0) := fun _ h => Bool.noConfusion h
theorem vsub : ∀ a0, Statement (.vsub a0) := fun _ h => Bool.noConfusion h
theorem vmul : ∀ a0, Statement (.vmul a0) := fun _ h => Bool.noConfusion h
theorem vfma : ∀ a0, Statement (.vfma a0) := fun _ h => Bool.noConfusion h
theorem vfms : ∀ a0, Statement (.vfms a0) := fun _ h => Bool.noConfusion h
theorem vmin : ∀ a0, Statement (.vmin a0) := fun _ h => Bool.noConfusion h
theorem vmax : ∀ a0, Statement (.vmax a0) := fun _ h => Bool.noConfusion h
theorem vabs : ∀ a0, Statement (.vabs a0) := fun _ h => Bool.noConfusion h
theorem vneg : ∀ a0, Statement (.vneg a0) := fun _ h => Bool.noConfusion h
theorem vmov : ∀ a0, Statement (.vmov a0) := fun _ h => Bool.noConfusion h
theorem vand : ∀ a0, Statement (.vand a0) := fun _ h => Bool.noConfusion h
theorem vor : ∀ a0, Statement (.vor a0) := fun _ h => Bool.noConfusion h
theorem vxor : ∀ a0, Statement (.vxor a0) := fun _ h => Bool.noConfusion h
theorem vnot : ∀ a0, Statement (.vnot a0) := fun _ h => Bool.noConfusion h
theorem vshl : ∀ a0, Statement (.vshl a0) := fun _ h => Bool.noConfusion h
theorem vshr : ∀ a0, Statement (.vshr a0) := fun _ h => Bool.noConfusion h
theorem vsar : ∀ a0, Statement (.vsar a0) := fun _ h => Bool.noConfusion h
theorem vceq : ∀ a0, Statement (.vceq a0) := fun _ h => Bool.noConfusion h
theorem vclt : ∀ a0, Statement (.vclt a0) := fun _ h => Bool.noConfusion h
theorem vcle : ∀ a0, Statement (.vcle a0) := fun _ h => Bool.noConfusion h
theorem vsel : ∀ a0, Statement (.vsel a0) := fun _ h => Bool.noConfusion h
theorem vcvt : ∀ a0, Statement (.vcvt a0) := fun _ h => Bool.noConfusion h
theorem vmx : ∀ a0, Statement (.vmx a0) := fun _ h => Bool.noConfusion h
theorem vunmx : ∀ a0, Statement (.vunmx a0) := fun _ h => Bool.noConfusion h
theorem vrcp : ∀ a0, Statement (.vrcp a0) := fun _ h => Bool.noConfusion h
theorem vrsq : ∀ a0, Statement (.vrsq a0) := fun _ h => Bool.noConfusion h
theorem vsqrt : ∀ a0, Statement (.vsqrt a0) := fun _ h => Bool.noConfusion h
theorem vexp2 : ∀ a0, Statement (.vexp2 a0) := fun _ h => Bool.noConfusion h
theorem vlog2 : ∀ a0, Statement (.vlog2 a0) := fun _ h => Bool.noConfusion h
theorem vtanh : ∀ a0, Statement (.vtanh a0) := fun _ h => Bool.noConfusion h
theorem vsigm : ∀ a0, Statement (.vsigm a0) := fun _ h => Bool.noConfusion h
theorem vrsum : ∀ a0, Statement (.vrsum a0) := fun _ h => Bool.noConfusion h
theorem vrmax : ∀ a0, Statement (.vrmax a0) := fun _ h => Bool.noConfusion h
theorem vrmin : ∀ a0, Statement (.vrmin a0) := fun _ h => Bool.noConfusion h
theorem vargmax : ∀ a0, Statement (.vargmax a0) := fun _ h => Bool.noConfusion h
theorem vtopk : ∀ a0, Statement (.vtopk a0) := fun _ h => Bool.noConfusion h
theorem vperm : ∀ a0, Statement (.vperm a0) := fun _ h => Bool.noConfusion h
theorem vrot : ∀ a0, Statement (.vrot a0) := fun _ h => Bool.noConfusion h
theorem vbcast : ∀ a0, Statement (.vbcast a0) := fun _ h => Bool.noConfusion h
theorem vext : ∀ a0, Statement (.vext a0) := fun _ h => Bool.noConfusion h
theorem vins : ∀ a0, Statement (.vins a0) := fun _ h => Bool.noConfusion h
theorem vany : ∀ a0, Statement (.vany a0) := fun _ h => Bool.noConfusion h
theorem vall : ∀ a0, Statement (.vall a0) := fun _ h => Bool.noConfusion h
theorem mset : ∀ a0 a1, Statement (.mset a0 a1) := fun _ _ h => Bool.noConfusion h
theorem mseti : ∀ a0 a1, Statement (.mseti a0 a1) := fun _ _ h => Bool.noConfusion h
theorem mget : ∀ a0 a1 a2, Statement (.mget a0 a1 a2) := fun _ _ _ h => Bool.noConfusion h
theorem mlatch : ∀ a0, Statement (.mlatch a0) := fun _ h => Bool.noConfusion h
theorem mgoBf16 : ∀ a0, Statement (.mgoBf16 a0) := fun _ h => Bool.noConfusion h
theorem mgoF16 : ∀ a0, Statement (.mgoF16 a0) := fun _ h => Bool.noConfusion h
theorem mgoW8 : ∀ a0, Statement (.mgoW8 a0) := fun _ h => Bool.noConfusion h
theorem mgoS8 : ∀ a0, Statement (.mgoS8 a0) := fun _ h => Bool.noConfusion h
theorem mgoW4 : ∀ a0, Statement (.mgoW4 a0) := fun _ h => Bool.noConfusion h
theorem mgoS4 : ∀ a0, Statement (.mgoS4 a0) := fun _ h => Bool.noConfusion h
theorem mjoinBf16 : ∀ a0, Statement (.mjoinBf16 a0) := fun _ h => Bool.noConfusion h
theorem mjoinF16 : ∀ a0, Statement (.mjoinF16 a0) := fun _ h => Bool.noConfusion h
theorem mjoinW8 : ∀ a0, Statement (.mjoinW8 a0) := fun _ h => Bool.noConfusion h
theorem mjoinS8 : ∀ a0, Statement (.mjoinS8 a0) := fun _ h => Bool.noConfusion h
theorem mjoinW4 : ∀ a0, Statement (.mjoinW4 a0) := fun _ h => Bool.noConfusion h
theorem mjoinS4 : ∀ a0, Statement (.mjoinS4 a0) := fun _ h => Bool.noConfusion h
theorem cset : ∀ a0 a1, Statement (.cset a0 a1) := fun _ _ h => Bool.noConfusion h
theorem cseti : ∀ a0 a1, Statement (.cseti a0 a1) := fun _ _ h => Bool.noConfusion h
theorem cget : ∀ a0 a1 a2, Statement (.cget a0 a1 a2) := fun _ _ _ h => Bool.noConfusion h
theorem cdis : ∀ a0, Statement (.cdis a0) := fun _ h => Bool.noConfusion h
theorem cpost : ∀ a0 a1 a2 a3, Statement (.cpost a0 a1 a2 a3) := fun _ _ _ _ h => Bool.noConfusion h
theorem cgo : ∀ a0 a1, Statement (.cgo a0 a1) := fun _ _ h => Bool.noConfusion h
theorem cgath : ∀ a0 a1, Statement (.cgath a0 a1) := fun _ _ h => Bool.noConfusion h
theorem cscat : ∀ a0 a1, Statement (.cscat a0 a1) := fun _ _ h => Bool.noConfusion h
theorem cfill : ∀ a0 a1, Statement (.cfill a0 a1) := fun _ _ h => Bool.noConfusion h
theorem cbcast : ∀ a0 a1, Statement (.cbcast a0 a1) := fun _ _ h => Bool.noConfusion h
theorem cdx : ∀ a0 a1, Statement (.cdx a0 a1) := fun _ _ h => Bool.noConfusion h
theorem cpfd : ∀ a0 a1, Statement (.cpfd a0 a1) := fun _ _ h => Bool.noConfusion h
theorem carm : ∀ a0 a1 a2, Statement (.carm a0 a1 a2) := fun _ _ _ h => Bool.noConfusion h
theorem cmred : ∀ a0 a1, Statement (.cmred a0 a1) := fun _ _ h => Bool.noConfusion h
theorem ckvc : ∀ a0 a1, Statement (.ckvc a0 a1) := fun _ _ h => Bool.noConfusion h
theorem cnet : ∀ a0 a1, Statement (.cnet a0 a1) := fun _ _ h => Bool.noConfusion h
theorem bgo : ∀ a0 a1, Statement (.bgo a0 a1) := fun _ _ h => Bool.noConfusion h
theorem exposedResultLanding : ∀ a0, Statement (.exposedResultLanding a0) := fun _ _ sl => by cases sl <;> rfl
theorem loadCompletion : ∀ a0, Statement (.loadCompletion a0) := fun _ _ sl => by cases sl <;> rfl
theorem copyCompletion : ∀ a0 a1, Statement (.copyCompletion a0 a1) := fun _ _ _ sl => by cases sl <;> rfl
theorem cnetCompletion : ∀ a0 a1, Statement (.cnetCompletion a0 a1) := fun _ _ _ sl => by cases sl <;> rfl
theorem landingPostDelivery : ∀ a0, Statement (.landingPostDelivery a0) := fun _ _ sl => by cases sl <;> rfl
theorem cpostDelivery : ∀ a0, Statement (.cpostDelivery a0) := fun _ _ sl => by cases sl <;> rfl
theorem armedCopyFire : ∀ a0, Statement (.armedCopyFire a0) := fun _ _ sl => by cases sl <;> rfl
theorem flagPostDelivery : ∀ a0, Statement (.flagPostDelivery a0) := fun _ _ sl => by cases sl <;> rfl
theorem queueMessageAppend : ∀ a0 a1 a2, Statement (.queueMessageAppend a0 a1 a2) := fun _ _ _ _ sl => by cases sl <;> rfl
theorem flueMove : ∀ a0, Statement (.flueMove a0) := fun _ _ sl => by cases sl <;> rfl
theorem targetFillCompletion : ∀ a0, Statement (.targetFillCompletion a0) := fun _ _ sl => by cases sl <;> rfl
theorem preemptionRequest : ∀ a0, Statement (.preemptionRequest a0) := fun _ _ sl => by cases sl <;> rfl
theorem agreementContributionArrival : ∀ a0 a1 a2, Statement (.agreementContributionArrival a0 a1 a2) := fun _ _ _ _ sl => by cases sl <;> rfl
theorem lateLimitExpiry : ∀ a0 a1, Statement (.lateLimitExpiry a0 a1) := fun _ _ _ sl => by cases sl <;> rfl
theorem agreementOutcomeDelivery : ∀ a0 a1 a2, Statement (.agreementOutcomeDelivery a0 a1 a2) := fun _ _ _ _ sl => by cases sl <;> rfl
theorem reportCopyWrite : ∀ a0 a1 a2 a3, Statement (.reportCopyWrite a0 a1 a2 a3) := fun _ _ _ _ _ sl => by cases sl <;> rfl
theorem groupInvalidate : ∀ a0, Statement (.groupInvalidate a0) := fun _ _ sl => by cases sl <;> rfl
theorem heartbeatArrival : ∀ a0, Statement (.heartbeatArrival a0) := fun _ _ sl => by cases sl <;> rfl
theorem deviceLoss : ∀ a0, Statement (.deviceLoss a0) := fun _ _ sl => by cases sl <;> rfl
theorem frameArrival : ∀ a0 a1, Statement (.frameArrival a0 a1) := fun _ _ _ sl => by cases sl <;> rfl
theorem rxSegmentArrival : ∀ a0 a1, Statement (.rxSegmentArrival a0 a1) := fun _ _ _ sl => by cases sl <;> rfl
theorem rxRemoteRead : ∀ a0 a1, Statement (.rxRemoteRead a0 a1) := fun _ _ _ sl => by cases sl <;> rfl
theorem bellowsMessageArrival : ∀ a0 a1, Statement (.bellowsMessageArrival a0 a1) := fun _ _ _ sl => by cases sl <;> rfl
theorem graphLaunch : ∀ a0, Statement (.graphLaunch a0) := fun _ _ sl => by cases sl <;> rfl
theorem tasksetFirstArrival : ∀ a0 a1, Statement (.tasksetFirstArrival a0 a1) := fun _ _ _ sl => by cases sl <;> rfl
theorem tasksetActivation : ∀ a0 a1, Statement (.tasksetActivation a0 a1) := fun _ _ _ sl => by cases sl <;> rfl
theorem condActivation : ∀ a0 a1, Statement (.condActivation a0 a1) := fun _ _ _ sl => by cases sl <;> rfl
theorem whileActivation : ∀ a0 a1, Statement (.whileActivation a0 a1) := fun _ _ _ sl => by cases sl <;> rfl
theorem joinActivation : ∀ a0 a1, Statement (.joinActivation a0 a1) := fun _ _ _ sl => by cases sl <;> rfl
theorem endActivation : ∀ a0 a1, Statement (.endActivation a0 a1) := fun _ _ _ sl => by cases sl <;> rfl
theorem tlbInvalidate : ∀ a0, Statement (.tlbInvalidate a0) := fun _ _ sl => by cases sl <;> rfl
theorem engineRestart : ∀ a0, Statement (.engineRestart a0) := fun _ _ sl => by cases sl <;> rfl
theorem queueEnable : ∀ a0, Statement (.queueEnable a0) := fun _ _ sl => by cases sl <;> rfl
theorem registerPageWindowWrite : ∀ a0 a1, Statement (.registerPageWindowWrite a0 a1) := fun _ _ _ sl => by cases sl <;> rfl
theorem registerWrite : ∀ a0 a1, Statement (.registerWrite a0 a1) := fun _ _ _ sl => by cases sl <;> rfl
theorem hostMemoryAccess : ∀ a0 a1 a2, Statement (.hostMemoryAccess a0 a1 a2) := fun _ _ _ _ sl => by cases sl <;> rfl
theorem hostCompletionTimeout : ∀ a0, Statement (.hostCompletionTimeout a0) := fun _ _ sl => by cases sl <;> rfl
theorem clockStep : ∀ a0, Statement (.clockStep a0) := fun _ _ sl => by cases sl <;> rfl
theorem bringUpStage : ∀ a0 a1, Statement (.bringUpStage a0 a1) := fun _ _ _ sl => by cases sl <;> rfl
theorem softErrorRollback : ∀ a0, Statement (.softErrorRollback a0) := fun _ _ sl => by cases sl <;> rfl
theorem machineCheck : ∀ a0 a1, Statement (.machineCheck a0 a1) := fun _ _ _ sl => by cases sl <;> rfl
theorem damperCharge : ∀ a0 a1 a2, Statement (.damperCharge a0 a1 a2) := fun _ _ _ _ sl => by cases sl <;> rfl
theorem damperRefill : ∀ a0 a1, Statement (.damperRefill a0 a1) := fun _ _ _ sl => by cases sl <;> rfl
theorem chimneyLinkDown : ∀ a0, Statement (.chimneyLinkDown a0) := fun _ _ sl => by cases sl <;> rfl
theorem chimneyLinkUp : ∀ a0, Statement (.chimneyLinkUp a0) := fun _ _ sl => by cases sl <;> rfl
theorem hostWindowAccess : ∀ a0 a1 a2, Statement (.hostWindowAccess a0 a1 a2) := fun _ _ _ _ sl => by cases sl <;> rfl
theorem spdmRequest : ∀ a0, Statement (.spdmRequest a0) := fun _ _ sl => by cases sl <;> rfl
theorem weakStoreReachesHome : ∀ a0, Statement (.weakStoreReachesHome a0) := fun _ _ sl => by cases sl <;> rfl
theorem bundleIssue : Statement .bundleIssue := fun _ sl => by cases sl <;> rfl
theorem trapEntry : Statement .trapEntry := fun _ sl => by cases sl <;> rfl
theorem hearthLanding : Statement .hearthLanding := fun _ sl => by cases sl <;> rfl
theorem mjoinRendezvous : Statement .mjoinRendezvous := fun _ sl => by cases sl <;> rfl
theorem mjoinWaitLimitExpiry : Statement .mjoinWaitLimitExpiry := fun _ sl => by cases sl <;> rfl
theorem fenceCompletion : Statement .fenceCompletion := fun _ sl => by cases sl <;> rfl
theorem taskRetirement : Statement .taskRetirement := fun _ sl => by cases sl <;> rfl
theorem taskDispatch : Statement .taskDispatch := fun _ sl => by cases sl <;> rfl
theorem forcedRollback : Statement .forcedRollback := fun _ sl => by cases sl <;> rfl
theorem saveCompletion : Statement .saveCompletion := fun _ sl => by cases sl <;> rfl
theorem yieldThresholdExpiry : Statement .yieldThresholdExpiry := fun _ sl => by cases sl <;> rfl
theorem heartbeatSend : Statement .heartbeatSend := fun _ sl => by cases sl <;> rfl
theorem bellowsSend : Statement .bellowsSend := fun _ sl => by cases sl <;> rfl
theorem bellowsRecv : Statement .bellowsRecv := fun _ sl => by cases sl <;> rfl
theorem bellowsRrs : Statement .bellowsRrs := fun _ sl => by cases sl <;> rfl
theorem bellowsCopy : Statement .bellowsCopy := fun _ sl => by cases sl <;> rfl
theorem bellowsWait : Statement .bellowsWait := fun _ sl => by cases sl <;> rfl
theorem bellowsPost : Statement .bellowsPost := fun _ sl => by cases sl <;> rfl
theorem bellowsLoop : Statement .bellowsLoop := fun _ sl => by cases sl <;> rfl
theorem bellowsEndl : Statement .bellowsEndl := fun _ sl => by cases sl <;> rfl
theorem bellowsHalt : Statement .bellowsHalt := fun _ sl => by cases sl <;> rfl
theorem saffronRequestTake : Statement .saffronRequestTake := fun _ sl => by cases sl <;> rfl
theorem notifyRead : Statement .notifyRead := fun _ sl => by cases sl <;> rfl
theorem tlbInvalidateCompletion : Statement .tlbInvalidateCompletion := fun _ sl => by cases sl <;> rfl
theorem dieFence : Statement .dieFence := fun _ sl => by cases sl <;> rfl
theorem dieOpen : Statement .dieOpen := fun _ sl => by cases sl <;> rfl
theorem attest : Statement .attest := fun _ sl => by cases sl <;> rfl
theorem ckpt : Statement .ckpt := fun _ sl => by cases sl <;> rfl
theorem mailboxInvalidCommand : Statement .mailboxInvalidCommand := fun _ sl => by cases sl <;> rfl
theorem hubLinkFailure : Statement .hubLinkFailure := fun _ sl => by cases sl <;> rfl
theorem thermalFence : Statement .thermalFence := fun _ sl => by cases sl <;> rfl
theorem coolantLoss : Statement .coolantLoss := fun _ sl => by cases sl <;> rfl
theorem moduleReset : Statement .moduleReset := fun _ sl => by cases sl <;> rfl
theorem softErrorCorrected : Statement .softErrorCorrected := fun _ sl => by cases sl <;> rfl
theorem hubLinkRetrain : Statement .hubLinkRetrain := fun _ sl => by cases sl <;> rfl
theorem coreRestart : Statement .coreRestart := fun _ sl => by cases sl <;> rfl
theorem rfe : Statement .rfe := fun h => Bool.noConfusion h
theorem halt : Statement .halt := fun h => Bool.noConfusion h
theorem fenceCore : Statement .fenceCore := fun h => Bool.noConfusion h
theorem fenceDie : Statement .fenceDie := fun h => Bool.noConfusion h
theorem fenceDev : Statement .fenceDev := fun h => Bool.noConfusion h
theorem fenceFab : Statement .fenceFab := fun h => Bool.noConfusion h
theorem ifence : Statement .ifence := fun h => Bool.noConfusion h
theorem tend : Statement .tend := fun h => Bool.noConfusion h
theorem yield : Statement .yield := fun h => Bool.noConfusion h
theorem mclr : Statement .mclr := fun h => Bool.noConfusion h
theorem mgol : Statement .mgol := fun h => Bool.noConfusion h

end Sys2Proof.Laws.EventsUnencoded
end

