-- ==== Sys2Proof/Tests/Slice0.lean ====
section
/-! SUPPORT. Small tests: words and bundles decoded, an ill-formed term for each check, single steps with the results of the spec's
own examples, and for every obligation with hypotheses a witness that meets them together. -/

namespace Sys2Proof.Tests
open Machine Claims

-- One theorem at a time: each evaluates in the kernel, and together they would fill the memory of the check.
set_option Elab.async false

/-! ### States and helpers -/

/-- Page tables that map the first gigabyte of die 0 onto itself, and a bundle of one `add` at 0x4000. -/
def baseMem : List Host.Cell :=
  [(8192, 1), (8194, 12), (12288, 231), (12289, 1), (16387, 16), (16388, 14), (16389, 163), (16390, 128), (16391, 128)]
theorem base_mem : baseMem = placeMem [] 0 32 0x0080A30E := by decide +kernel

/-- A core about to issue, after the bring-up, with page tables that map the first gigabyte onto itself, handlers enabled, nothing in flight. -/
def base : State :=
  { State.reset with
    core := { Core.reset.placed 0 0 0 with iss := { live := true, pcb := 0x4000, next := 0x4008 } }
    mem := baseMem
    dreg := [(offPARTCTL, 0), (offTRAPVEC, 0x8000000000004000)]
    bootstat := 0x8000000000000600 }

def setX (s : State) (r : Fin 56) (v : Word) : State :=
  { s with core := { s.core with live := { s.core.live with x := s.core.live.x.set r v } } }

/-- Bytes laid into memory that holds zeros there. -/
def cellsAt : Nat → List Byte → List Host.Cell
  | _, [] => []
  | a, b :: bs => if b = 0 then cellsAt (a + 1) bs else (a, b) :: cellsAt (a + 1) bs
def put (s : State) (a : Nat) (bs : List Byte) : State :=
  { s with mem := (cellsAt a bs).foldl (fun m c => memSet m c.1 c.2) s.mem }
def put64 (s : State) (a v : Nat) : State := put s a (leBytes 8 v)

/-- The slot that issues. -/
def inSlot (s : State) (sl : Slot) : State := { s with core := { s.core with iss := { s.core.iss with slot := sl } } }

/-- The same state seen by Saffron 72 of die 0. -/
def saff : State := { base with here := 72 }

def user (s : State) : State := { s with core := { s.core with tcw := 0 } }

/-- An answer is this value. -/
def okIs {ε α : Type} [DecidableEq α] (e : Except ε α) (a : α) : Bool := match e with
  | .ok b => decide (b = a)
  | .error _ => false

theorem okIs_eq {ε α : Type} [DecidableEq α] {e : Except ε α} {a : α} (h : okIs e a = true) : e = .ok a := by
  cases e <;> simp_all [okIs]

def errIs {ε α : Type} [DecidableEq ε] (e : Except ε α) (a : ε) : Bool := match e with
  | .ok _ => false
  | .error b => decide (b = a)

theorem errIs_eq {ε α : Type} [DecidableEq ε] {e : Except ε α} {a : ε} (h : errIs e a = true) : e = .error a := by
  cases e <;> simp_all [errIs]

/-- A test of the next state. -/
def next (o : Host.Outcome State Fault Refusal) (p : State → Bool) : Bool := match o with
  | .next t => p t
  | _ => false

theorem base_quiet : base.Quiet := by refine ⟨rfl, rfl, rfl, rfl, rfl, rfl⟩
theorem base_traps : base.CanTrap := by refine ⟨base_quiet, rfl, rfl, by decide +kernel⟩

/-- The value of an answer that is one. -/
def got {ε α : Type} (e : Except ε α) (d : α) : α := match e with
  | .ok b => b
  | .error _ => d
def isGot {ε α : Type} (e : Except ε α) : Bool := match e with
  | .ok _ => true
  | .error _ => false
theorem got_eq {ε α : Type} {e : Except ε α} (d : α) (h : isGot e = true) : e = .ok (got e d) := by
  cases e <;> simp_all [got, isGot]

theorem ok_snd {ε α β : Type} {e : Except ε (α × β)} (d : α × β) {b : β} (h : isGot e = true) (h2 : (got e d).2 = b) :
    e = .ok ((got e d).1, b) := by
  subst h2; exact got_eq d h

theorem ok_third {ε α β γ : Type} {e : Except ε (α × β × γ)} (d : α × β × γ) {a : α} {b : β} (h : isGot e = true)
    (h1 : (got e d).1 = a) (h2 : (got e d).2.1 = b) : e = .ok (a, b, (got e d).2.2) := by
  subst h1 h2; exact got_eq d h

/-- The core in focus can take a trap, as a test. -/
def canTrapB (s : State) : Bool :=
  s.core.land.isEmpty && s.core.hops.isEmpty && s.core.outst.isEmpty && s.core.pend.isNone && s.core.heldTrap.isNone &&
  !s.core.runAhead && s.core.phase == .run && !s.onSaffron && s.trapEnabled

theorem canTrap_of {s : State} (h : canTrapB s = true) : s.CanTrap := by
  simp only [canTrapB, Bool.and_eq_true, List.isEmpty_iff, Option.isNone_iff_eq_none, Bool.not_eq_true', beq_iff_eq] at h
  obtain ⟨⟨⟨⟨⟨⟨⟨⟨h1, h2⟩, h3⟩, h4⟩, h5⟩, h6⟩, h7⟩, h8⟩, h9⟩ := h
  exact ⟨⟨h1, h2, h3, h4, h5, h6⟩, h7, h8, h9⟩

theorem noReplay_of {s : State} (h : (s.repMode == 0) = true) : s.NoReplay := by simpa [State.NoReplay] using h
theorem inv_of {s : State} (h : Memory.wf s.mem = true) : s.Inv := h


/-! ### Virtual addresses that `base` maps onto themselves -/

theorem locate_low {p : Nat} (h : p < 2 ^ 30) : locate p = .dram 0 := by
  have e : ∀ hi lo, 30 ≤ lo → natBits p hi lo = 0 := by
    intro hi lo hl
    have : p >>> lo = 0 := by
      rw [Nat.shiftRight_eq_div_pow]
      exact Nat.div_eq_of_lt (Nat.lt_of_lt_of_le h (Nat.pow_le_pow_right (by decide) hl))
    simp [natBits, this]
  have d : p / 2 ^ 48 % 16 = 0 := by omega
  unfold locate
  rw [d]
  simp [e 47 39 (by decide), e 35 30 (by decide), e 38 36 (by decide)]

/-- What was written since memory was laid out touches neither the tables nor a context's entry. -/
def calmB (s : State) (a : Acc) : Bool :=
  s.hist.all fun h => decide (0x4000 ≤ h.addr) && (List.range 8).all fun d => !inRange h.addr (s.ctxAt d a.ctx) 8

/-- The tables of `base`: nothing of the first gigabyte is refused to a privileged master without an ACCID. -/
structure LowMap (s : State) (a : Acc) : Prop where
  hist : calmB s a = true
  root : natBits a.root.toNat 51 12 * 2 ^ 12 = 0x2000
  top  : natAt s.mem s.hist s.wseq 0x2000 8 = pteTable 0x3000 ∧ rdNat s.mem 0x2000 8 = pteTable 0x3000
  leaf : natAt s.mem s.hist s.wseq 0x3000 8 = pteGig 0 ∧ rdNat s.mem 0x3000 8 = pteGig 0
  runs : runOthers s s.wseq 3 0x2000 (pteTable 0x3000) = [] ∧ runOthers s s.wseq 2 0x3000 (pteGig 0) = []
  open' : s.pathShut a (.dram 0) = false
  acc  : a.accid = 0
  priv : a.priv = true

/-- No older leaf translates a low address. -/
theorem stale_low {s : State} {a : Acc} (h : LowMap s a) (v tag : Nat) (hv : v < 2 ^ 30) : s.stale a v tag = [] := by
  have hh := h.hist
  simp only [calmB, List.all_eq_true, Bool.and_eq_true, decide_eq_true_eq, Bool.not_eq_true'] at hh
  have e : ∀ hi lo, 30 ≤ lo → natBits v hi lo = 0 := by
    intro hi lo hl
    have : v >>> lo = 0 := by
      rw [Nat.shiftRight_eq_div_pow]
      exact Nat.div_eq_of_lt (Nat.lt_of_lt_of_le hv (Nat.pow_le_pow_right (by decide) hl))
    simp [natBits, this]
  have ho : ∀ f, s.oldRoots a.ctx f = [] := by
    intro f
    rw [State.oldRoots, List.flatMap_eq_nil_iff]
    intro d hd
    rw [List.map_eq_nil_iff, List.filter_eq_nil_iff]
    intro x hx
    simp [(hh x hx).2 d hd]
  have far : ∀ f ea, ea < 0x3FF8 → (s.hist.filter fun x => decide (f ≤ x.seq) && inRange x.addr ea 8) = [] := by
    intro f ea hea
    rw [List.filter_eq_nil_iff]
    intro x hx
    have := (hh x hx).1
    simp [inRange]; omega
  have path : ∀ f, walkPath s f v 4 [0x2000] = [0x2000, 0x3000] := by
    intro f
    have t1 : tableOk 0x2000 = true := rfl
    have t2 : tableOk 0x3000 = true := rfl
    simp only [walkPath, List.filter_cons, t1, if_true, List.filter_nil, List.map_cons, List.map_nil, List.flatMap_cons,
      List.flatMap_nil, e (12 + 9 * 3 + 8) (12 + 9 * 3) (by decide), Nat.mul_zero, Nat.add_zero, far f 0x2000 (by decide), h.top.2, List.append_nil]
    rw [show ((pteTable 0x3000).testBit 0 && !(pteTable 0x3000).testBit 1) = true from by decide]
    simp only [if_true, List.map_cons, List.map_nil, show natBits (pteTable 0x3000) 57 18 * 2 ^ 12 = 0x3000 from rfl,
      show [0x3000].eraseDups = [0x3000] from rfl, List.filter_cons, t2, List.filter_nil, List.flatMap_cons, List.flatMap_nil,
      e (12 + 9 * 2 + 8) (12 + 9 * 2) (by decide), Nat.mul_zero, Nat.add_zero, far f 0x3000 (by decide), h.leaf.2, List.append_nil]
    rw [show ((pteGig 0).testBit 0 && !(pteGig 0).testBit 1) = false from by decide]
    simp
  rw [State.stale]
  split
  · rfl
  · have n : (s.hist.filter fun x => decide (s.tlbFloor a.ctx v ≤ x.seq) &&
        [0x2000, 0x3000].any fun p => p / 4096 == x.addr / 4096) = [] := by
      rw [List.filter_eq_nil_iff]
      intro x hx
      have := (hh x hx).1
      simp; omega
    simp only [ho, List.filter_nil, show ([] : List Nat).eraseDups = [] from rfl, show rootOf a.root.toNat = 0x2000 from h.root,
      path, n, List.map_nil, List.filterMap_nil, List.flatMap_nil, List.append_nil]

/-- The one translation of a low address. -/
theorem walks_low {s : State} {a : Acc} (h : LowMap s a) (va : Word) (tag : Nat) (hv : va.toNat < 2 ^ 30) :
    canonical va = true ∧ s.walks a (va.toNat % 2 ^ 48) tag = (.leaf { pa := va.toNat, pte := pteGig 0 }, []) := by
  have m : va.toNat % 2 ^ 48 = va.toNat := by omega
  have e : ∀ hi lo, 30 ≤ lo → natBits va.toNat hi lo = 0 := by
    intro hi lo hl
    have : va.toNat >>> lo = 0 := by
      rw [Nat.shiftRight_eq_div_pow]
      exact Nat.div_eq_of_lt (Nat.lt_of_lt_of_le hv (Nat.pow_le_pow_right (by decide) hl))
    simp [natBits, this]
  have o2 : s.pathShut a (locate 0x2000) = false := by rw [locate_low (by decide)]; exact h.open'
  have o3 : s.pathShut a (locate 0x3000) = false := by rw [locate_low (by decide)]; exact h.open'
  have w : walkAt s (s.pathShut a) s.wseq tag va.toNat 4 0x2000 = .leaf { pa := va.toNat, pte := pteGig 0 } := by
    have t1 : tableOk 0x2000 = true := rfl
    have t2 : tableOk 0x3000 = true := rfl
    have r := h.runs.2
    have r1 := h.runs.1
    rw [walkAt]
    simp only [t1, o2, Bool.not_true, Bool.false_eq_true, if_false, e 47 39 (by decide), h.top.1, Nat.mul_zero, Nat.add_zero,
      show 12 + 9 * 3 + 8 = 47 from rfl, show 12 + 9 * 3 = 39 from rfl, r1, choose]
    rw [if_neg (by decide), if_neg (by decide), if_neg (by decide), show natBits (pteTable 0x3000) 57 18 * 2 ^ 12 = 0x3000 from rfl, walkAt]
    simp only [t2, o3, Bool.not_true, Bool.false_eq_true, if_false, e 38 30 (by decide), h.leaf.1, Nat.mul_zero, Nat.add_zero,
      show 12 + 9 * 2 + 8 = 38 from rfl, show 12 + 9 * 2 = 30 from rfl, r, choose]
    rw [if_neg (by decide), if_pos (by decide), if_pos (by decide)]
    have : va.toNat % 2 ^ (12 + 2 * natBits (pteGig 0) 5 2) = va.toNat :=
      Nat.mod_eq_of_lt (show va.toNat < 2 ^ 30 from hv)
    rw [this]
    simp [show natBits (pteGig 0) 57 18 = 0 from rfl]
  have st := stale_low h va.toNat tag hv
  refine ⟨by simp [canonical, e 63 47 (by decide)], ?_⟩
  have rt : rootOf a.root.toNat = 0x2000 := h.root
  simp only [m, State.walks, rt, w, st]
  simp

theorem access_low {s : State} {a : Acc} (h : LowMap s a) (k : AKind) (by' : By) (va : Word) (tag : Nat) (hv : va.toNat < 2 ^ 30) :
    s.access a k by' va tag = .ok { pa := va.toNat, pte := pteGig 0 } := by
  obtain ⟨c, ws⟩ := walks_low h va tag hv
  have p : s.refuse a k by' va.toNat = none := by
    simp [State.refuse, locate_low hv, h.open', State.granted, h.acc]
  have l : leafGives (pteGig 0) k true = true := by cases k <;> decide
  simp only [State.access, c, State.translate, ws, choose, Walk.permit, h.priv, l, State.reach, p, Bool.not_true, Bool.false_eq_true,
    if_false, if_true]

/-- The hub's places there on die 0. -/
theorem destOn_low {s : State} {x : Copy} (h : LowMap s x.acc) (hs : s.dieShut x.acc 0 = false) (k : AKind) (a : Nat) :
    ∀ n i, a + i + n < 2 ^ 30 → s.cDestOn x 0 a k n i = .ok (List.range' (a + i) n)
  | 0, _, _ => rfl
  | n + 1, i, hi => by
    have hv : (BitVec.ofInt 64 ((a : Int) + (i : Nat))).toNat = a + i := by
      rw [BitVec.toNat_ofInt]; omega
    have hl : (BitVec.ofInt 64 ((a : Int) + (i : Nat))).toNat < 2 ^ 30 := by omega
    obtain ⟨c, ws⟩ := walks_low h (BitVec.ofInt 64 ((a : Int) + (i : Nat))) (pageTag (BitVec.ofInt 64 ((a : Int) + (i : Nat)))) hl
    have l : leafGives (pteGig 0) k true = true := by cases k <;> decide
    have z : natBits (a + i) 38 36 = 0 := by
      rw [natBits, Nat.shiftRight_eq_div_pow, Nat.div_eq_of_lt (by omega), Nat.zero_mod]
    have q : locate (a + i) = .dram 0 := locate_low (by omega)
    rw [State.cDestOn, State.cTrans, c, State.translateOnce, ws]
    simp only [hv, Bool.not_true, Bool.false_eq_true, if_false, List.foldl_nil, Walk.permit, h.priv, l, if_true, State.cOnDie, onDie, q, z,
      hs, Bool.false_and, State.granted, h.acc, State.idleRange, Bool.and_false, destOn_low h hs k a n (i + 1) (by omega), Nat.zero_mul,
      Nat.sub_zero, Nat.add_zero]
    simp [List.range'_succ, Nat.add_assoc]

theorem vaddrs_low {s : State} {a : Acc} (h : LowMap s a) (by' : By) (va : Word) (tag : Nat) : ∀ n i, va.toNat + i + n < 2 ^ 30 →
    ∃ ps, s.vaddrs a .wr by' va tag n i = .ok ps ∧ ∀ p ∈ ps, memLoc (locate p) = true
  | 0, _, _ => ⟨[], rfl, by simp⟩
  | n + 1, i, hi => by
    have hv : (va + BitVec.ofNat 64 i).toNat = va.toNat + i := by
      rw [BitVec.toNat_add, BitVec.toNat_ofNat]; omega
    obtain ⟨ps, h1, h2⟩ := vaddrs_low h by' va tag n (i + 1) (by omega)
    have hl : (va + BitVec.ofNat 64 i).toNat < 2 ^ 30 := by omega
    have idl : s.idleRange (va + BitVec.ofNat 64 i).toNat = false := by rw [State.idleRange, locate_low hl]
    refine ⟨(va + BitVec.ofNat 64 i).toNat :: ps, ?_, ?_⟩
    · rw [State.vaddrs, access_low h .wr by' _ (tag + i) hl]
      simp only [idl, Bool.and_false, Bool.false_eq_true, if_false, h1]
    · intro p hp
      cases List.mem_cons.1 hp with
      | inl e => rw [e, locate_low hl]; rfl
      | inr e => exact h2 p e

/-- Reads there find the bytes of memory. -/
theorem vread_low {s : State} {a : Acc} (h : LowMap s a) (by' : By) (va : Word) (n tag : Nat) (hn : va.toNat + n < 2 ^ 30) :
    s.vread a by' va n tag = .ok (rdBytes s.mem va.toNat n) := by
  have r : ∀ l : List Nat, (∀ i ∈ l, i < n) → l.foldr (fun i acc => match acc with
      | .error e => .error e
      | .ok bs => match s.access a .rd by' (va + BitVec.ofNat 64 i) (tag + i) with
        | .error e => .error e
        | .ok t => .ok (s.homeByte t.pa (tag + i) :: bs)) (.ok [] : Except Nat (List Byte)) =
      .ok (l.map fun i => memGet s.mem (va.toNat + i)) := by
    intro l
    induction l with
    | nil => intro _; rfl
    | cons i l ih =>
      intro hl
      have hi := hl i (by simp)
      have hv : (va + BitVec.ofNat 64 i).toNat = va.toNat + i := by
        rw [BitVec.toNat_add, BitVec.toNat_ofNat]; omega
      have hb : s.homeByte (va.toNat + i) (tag + i) = memGet s.mem (va.toNat + i) := by
        rw [State.homeByte, locate_low (by omega)]
      simp only [List.foldr_cons, ih fun j hj => hl j (by simp [hj]), access_low h .rd by' (va + BitVec.ofNat 64 i) (tag + i) (by omega), hv, hb,
        List.map_cons]
  exact r (List.range n) fun i hi => List.mem_range.1 hi

/-- What makes a master's accesses near a low virtual address go through, as a test. -/
def lowB (s : State) (a : Acc) (va : Word) : Bool :=
  calmB s a && natBits a.root.toNat 51 12 * 2 ^ 12 == 0x2000 &&
  (natAt s.mem s.hist s.wseq 0x2000 8 == pteTable 0x3000 && rdNat s.mem 0x2000 8 == pteTable 0x3000) &&
  (natAt s.mem s.hist s.wseq 0x3000 8 == pteGig 0 && rdNat s.mem 0x3000 8 == pteGig 0) &&
  ((runOthers s s.wseq 3 0x2000 (pteTable 0x3000)).isEmpty && (runOthers s s.wseq 2 0x3000 (pteGig 0)).isEmpty) && !s.pathShut a (.dram 0) && a.accid == 0 && a.priv && Memory.wf s.mem &&
  decide (va.toNat + 2 ^ 20 < 2 ^ 30)

theorem low_of {s : State} {a : Acc} {va : Word} (h : lowB s a va = true) : LowMap s a ∧ s.Inv ∧ va.toNat + 2 ^ 20 < 2 ^ 30 := by
  simp only [lowB, Bool.and_eq_true, decide_eq_true_eq, beq_iff_eq, Bool.not_eq_true', List.isEmpty_iff] at h
  obtain ⟨⟨⟨⟨⟨⟨⟨⟨⟨h4, h5⟩, h6⟩, h7⟩, hr⟩, h8⟩, h9⟩, hp⟩, ha⟩, hv⟩ := h
  exact ⟨⟨h4, h5, h6, h7, hr, h8, h9, hp⟩, ha, hv⟩

theorem places_low {s : State} {a : Acc} {va : Word} (h : lowB s a va = true) (by' : By) (tag n : Nat) (hn : n < 2 ^ 20) :
    ∃ ps, Places s a by' va tag n ps := by
  obtain ⟨hl, hi, hv⟩ := low_of h
  obtain ⟨ps, hq, hm⟩ := vaddrs_low hl by' va tag n 0 (by omega)
  exact ⟨ps, hi, hq, hm⟩

theorem read_low {s : State} {a : Acc} {va : Word} {bs : List Byte} (h : lowB s a va = true) (by' : By) (tag n : Nat) (hn : n < 2 ^ 20)
    (hb : rdBytes s.mem va.toNat n = bs) : s.vread a by' va n tag = .ok bs := by
  obtain ⟨hl, _, hv⟩ := low_of h
  rw [vread_low hl by' va n tag (by omega), hb]

/-! Words of the prefix: spec/02 R56. -/

theorem test_decode_p_1 :
    decSlot .p 0x00589800 0x0 = .ok (.pfx .sto .ovfi .qd 3) := rfl

/-! Words of S: spec/06. -/

theorem test_decode_s_1 :
    decSlot .s 0x0080A30E 0x0 = .ok (.add 5 (.x 6) (.reg (.x 7))) ∧
    decSlot .s 0x0100A30E 0x0 = .ok (.sub 5 (.x 6) (.reg (.x 7))) ∧
    decSlot .s 0x0180A30E 0x0 = .ok (.mul 5 (.x 6) (.reg (.x 7))) ∧
    decSlot .s 0x0200A30E 0x0 = .ok (.mulh 5 (.x 6) (.reg (.x 7))) ∧
    decSlot .s 0x0280A30E 0x0 = .ok (.mulhn 5 (.x 6) (.reg (.x 7))) ∧
    decSlot .s 0x0300A30E 0x0 = .ok (.and 5 (.x 6) (.reg (.x 7))) ∧
    decSlot .s 0x0380A30E 0x0 = .ok (.or 5 (.x 6) (.reg (.x 7))) ∧
    decSlot .s 0x0400A30E 0x0 = .ok (.xor 5 (.x 6) (.reg (.x 7))) ∧
    decSlot .s 0x0480A30E 0x0 = .ok (.andn 5 (.x 6) (.reg (.x 7))) ∧
    decSlot .s 0x0500A30E 0x0 = .ok (.shl 5 (.x 6) (.reg (.x 7))) ∧
    decSlot .s 0x0580A30E 0x0 = .ok (.shr 5 (.x 6) (.reg (.x 7))) ∧
    decSlot .s 0x0600A30E 0x0 = .ok (.sar 5 (.x 6) (.reg (.x 7))) ∧
    decSlot .s 0x0680A30E 0x0 = .ok (.rotl 5 (.x 6) (.reg (.x 7))) ∧
    decSlot .s 0x0700A30E 0x0 = .ok (.min 5 (.x 6) (.reg (.x 7))) ∧
    decSlot .s 0x0780A30E 0x0 = .ok (.max 5 (.x 6) (.reg (.x 7))) ∧
    decSlot .s 0x0800A30E 0x0 = .ok (.minn 5 (.x 6) (.reg (.x 7))) := by
  refine ⟨rfl, rfl, rfl, rfl, rfl, rfl, rfl, rfl, rfl, rfl, rfl, rfl, rfl, rfl, rfl, rfl⟩

theorem test_decode_s_2 :
    decSlot .s 0x0880A30E 0x0 = .ok (.maxn 5 (.x 6) (.reg (.x 7))) ∧
    decSlot .s 0x0900A30E 0x0 = .ok (.sext 5 (.x 6) (.reg (.x 7))) ∧
    decSlot .s 0x0980A30E 0x0 = .ok (.zext 5 (.x 6) (.reg (.x 7))) ∧
    decSlot .s 0x0A00BC80 0x0 = .ok (.clz 5 .lq) ∧
    decSlot .s 0x0A80BC80 0x0 = .ok (.ctz 5 .lq) ∧
    decSlot .s 0x0B00BC80 0x0 = .ok (.popc 5 .lq) ∧
    decSlot .s 0x0B80A30E 0x0 = .ok (.bfx 5 (.x 6) (.reg (.x 7))) ∧
    decSlot .s 0x0C00A30E 0x0 = .ok (.bfi 5 (.x 6) (.reg (.x 7))) ∧
    decSlot .s 0x4C812001 0x12345678 = .ok (.li 9 (.long 0x12345678)) ∧
    decSlot .s 0x0D013C7F 0x0 = .ok (.lih 9 .sq (.short 0x3F)) ∧
    decSlot .s 0x10008341 0x0 = .ok (.cmpeq 1 (.x 6) (.short 0x20)) ∧
    decSlot .s 0x10808341 0x0 = .ok (.cmpne 1 (.x 6) (.short 0x20)) ∧
    decSlot .s 0x11008341 0x0 = .ok (.cmplt 1 (.x 6) (.short 0x20)) ∧
    decSlot .s 0x11808341 0x0 = .ok (.cmple 1 (.x 6) (.short 0x20)) ∧
    decSlot .s 0x12008341 0x0 = .ok (.cmpltn 1 (.x 6) (.short 0x20)) ∧
    decSlot .s 0x12808341 0x0 = .ok (.cmplen 1 (.x 6) (.short 0x20)) := by
  refine ⟨rfl, rfl, rfl, rfl, rfl, rfl, rfl, rfl, rfl, rfl, rfl, rfl, rfl, rfl, rfl, rfl⟩

theorem test_decode_s_3 :
    decSlot .s 0x13008341 0x0 = .ok (.cmptst 1 (.x 6) (.short 0x20)) ∧
    decSlot .s 0x14012D16 0x0 = .ok (.pand 9 10 true 11 false) ∧
    decSlot .s 0x14812D16 0x0 = .ok (.por 9 10 true 11 false) ∧
    decSlot .s 0x15012D16 0x0 = .ok (.pxor 9 10 true 11 false) ∧
    decSlot .s 0x1800A30E 0x0 = .ok (.fadd 5 (.x 6) (.reg (.x 7))) ∧
    decSlot .s 0x1880A30E 0x0 = .ok (.fsub 5 (.x 6) (.reg (.x 7))) ∧
    decSlot .s 0x1900A30E 0x0 = .ok (.fmul 5 (.x 6) (.reg (.x 7))) ∧
    decSlot .s 0x1980A30E 0x0 = .ok (.fma 5 (.x 6) (.reg (.x 7))) ∧
    decSlot .s 0x1A00A30E 0x0 = .ok (.fdiv 5 (.x 6) (.reg (.x 7))) ∧
    decSlot .s 0x1A80BC80 0x0 = .ok (.fsqrt 5 .lq) ∧
    decSlot .s 0x1B00A30E 0x0 = .ok (.fmin 5 (.x 6) (.reg (.x 7))) ∧
    decSlot .s 0x1B80A30E 0x0 = .ok (.fmax 5 (.x 6) (.reg (.x 7))) ∧
    decSlot .s 0x1C008341 0x0 = .ok (.fcmpeq 1 (.x 6) (.short 0x20)) ∧
    decSlot .s 0x1C808341 0x0 = .ok (.fcmplt 1 (.x 6) (.short 0x20)) ∧
    decSlot .s 0x1D008341 0x0 = .ok (.fcmple 1 (.x 6) (.short 0x20)) ∧
    decSlot .s 0x1D80A305 0x0 = .ok (.fcvtfi 5 (.x 6) 2) := by
  refine ⟨rfl, rfl, rfl, rfl, rfl, rfl, rfl, rfl, rfl, rfl, rfl, rfl, rfl, rfl, rfl, rfl⟩

theorem test_decode_s_4 :
    decSlot .s 0x1E00A305 0x0 = .ok (.fcvtif 5 (.x 6) 2) ∧
    decSlot .s 0x2000A30E 0x0 = .ok (.qmk 5 (.x 6) (.reg (.x 7))) ∧
    decSlot .s 0x2080BC80 0x0 = .ok (.qnum 5 .lq) ∧
    decSlot .s 0x2100BC80 0x0 = .ok (.qden 5 .lq) ∧
    decSlot .s 0x2180BC80 0x0 = .ok (.qflr 5 .lq) ∧
    decSlot .s 0x2200BC80 0x0 = .ok (.qceil 5 .lq) ∧
    decSlot .s 0x2280BC80 0x0 = .ok (.qfromf 5 .lq) ∧
    decSlot .s 0x2300BC80 0x0 = .ok (.qtof 5 .lq) ∧
    decSlot .s 0x2400600E 0x0 = .ok (.lcset 3 (.reg (.x 7))) ∧
    decSlot .s 0x2480A100 0x0 = .ok (.lcget 5 2) ∧
    decSlot .s 0x2501C084 0x0 = .ok (.lcnext (some 6) 1 2) ∧
    decSlot .s 0x2600A01D 0x0 = .ok (.rdid 5 14) ∧
    decSlot .s 0x2686E000 0x0 = .ok (.rdfst 55) ∧
    decSlot .s 0x27000300 0x0 = .ok (.wrfst (.x 6)) ∧
    decSlot .s 0x2781E300 0x0 = .ok (.sgset 15 (.x 6)) ∧
    decSlot .s 0x28002300 0x0 = .ok (.vstp 1 (.x 6)) := by
  refine ⟨rfl, rfl, rfl, rfl, rfl, rfl, rfl, rfl, rfl, rfl, rfl, rfl, rfl, rfl, rfl, rfl⟩

theorem test_decode_s_5 :
    decSlot .s 0x2880E300 0x0 = .ok (.fmset 7 (.x 6)) ∧
    decSlot .s 0x2900A300 0x0 = .ok (.fmget 5 6) ∧
    decSlot .s 0x6C00A001 0xFFFFFFF8 = .ok (.bprep 5 (.long 0xFFFFFFF8)) ∧
    decSlot .s 0x6C80A001 0xFFFFFFF8 = .ok (.bprepL 5 (.long 0xFFFFFFF8)) ∧
    decSlot .s 0x2D00A300 0x0 = .ok (.bprepi 5 (.x 6)) ∧
    decSlot .s 0x2D80A300 0x0 = .ok (.bprepiL 5 (.x 6)) ∧
    decSlot .s 0x2E000013 0x0 = .ok (.sysc (.short 9)) ∧
    decSlot .s 0x2E800013 0x0 = .ok (.brk (.short 9)) ∧
    decSlot .s 0x3800A007 0x0 = .ok (.rdcr 5 (.short 3)) ∧
    decSlot .s 0x38800307 0x0 = .ok (.wrcr (.short 3) (.x 6)) ∧
    decSlot .s 0x39000000 0x0 = .ok (.rfe) ∧
    decSlot .s 0x39800000 0x0 = .ok (.halt) := by
  refine ⟨rfl, rfl, rfl, rfl, rfl, rfl, rfl, rfl, rfl, rfl, rfl, rfl⟩

/-! Words of L: spec/07, spec/11. -/

theorem test_decode_l_1 :
    decSlot .l 0x0080A30E 0x0 = .ok (.ldN8 5 (.x 6) (.reg (.x 7))) ∧
    decSlot .l 0x0100A30E 0x0 = .ok (.ldN16 5 (.x 6) (.reg (.x 7))) ∧
    decSlot .l 0x0180A30E 0x0 = .ok (.ldN32 5 (.x 6) (.reg (.x 7))) ∧
    decSlot .l 0x0200A30E 0x0 = .ok (.ldN64 5 (.x 6) (.reg (.x 7))) ∧
    decSlot .l 0x42876301 0xFFFFFFF8 = .ok (.stN8 .tq (.x 6) (.long 0xFFFFFFF8)) ∧
    decSlot .l 0x43076301 0xFFFFFFF8 = .ok (.stN16 .tq (.x 6) (.long 0xFFFFFFF8)) ∧
    decSlot .l 0x43876301 0xFFFFFFF8 = .ok (.stN32 .tq (.x 6) (.long 0xFFFFFFF8)) ∧
    decSlot .l 0x44076301 0xFFFFFFF8 = .ok (.stN64 .tq (.x 6) (.long 0xFFFFFFF8)) ∧
    decSlot .l 0x0480A30E 0x0 = .ok (.ldsN8 5 (.x 6) (.reg (.x 7))) ∧
    decSlot .l 0x0500A30E 0x0 = .ok (.ldsN16 5 (.x 6) (.reg (.x 7))) ∧
    decSlot .l 0x0580A30E 0x0 = .ok (.ldsN32 5 (.x 6) (.reg (.x 7))) ∧
    decSlot .l 0x0600A30E 0x0 = .ok (.ldsN64 5 (.x 6) (.reg (.x 7))) ∧
    decSlot .l 0x46876301 0xFFFFFFF8 = .ok (.stsN8 .tq (.x 6) (.long 0xFFFFFFF8)) ∧
    decSlot .l 0x47076301 0xFFFFFFF8 = .ok (.stsN16 .tq (.x 6) (.long 0xFFFFFFF8)) ∧
    decSlot .l 0x47876301 0xFFFFFFF8 = .ok (.stsN32 .tq (.x 6) (.long 0xFFFFFFF8)) ∧
    decSlot .l 0x48076301 0xFFFFFFF8 = .ok (.stsN64 .tq (.x 6) (.long 0xFFFFFFF8)) := by
  refine ⟨rfl, rfl, rfl, rfl, rfl, rfl, rfl, rfl, rfl, rfl, rfl, rfl, rfl, rfl, rfl, rfl⟩

theorem test_decode_l_2 :
    decSlot .l 0x0C00A30E 0x0 = .ok (.amoadd 5 (.x 6) (.reg (.x 7))) ∧
    decSlot .l 0x0C80A30E 0x0 = .ok (.amoswp 5 (.x 6) (.reg (.x 7))) ∧
    decSlot .l 0x0D00A30E 0x0 = .ok (.amocas 5 (.x 6) (.reg (.x 7))) ∧
    decSlot .l 0x0D80A30E 0x0 = .ok (.amomin 5 (.x 6) (.reg (.x 7))) ∧
    decSlot .l 0x0E00A30E 0x0 = .ok (.amomax 5 (.x 6) (.reg (.x 7))) ∧
    decSlot .l 0x0E80A30E 0x0 = .ok (.amoand 5 (.x 6) (.reg (.x 7))) ∧
    decSlot .l 0x0F00A30E 0x0 = .ok (.amoor 5 (.x 6) (.reg (.x 7))) ∧
    decSlot .l 0x1400030E 0x0 = .ok (.qpush (.x 6) (.reg (.x 7))) ∧
    decSlot .l 0x1480A300 0x0 = .ok (.qpop 5 (.x 6)) ∧
    decSlot .l 0x1500A304 0x0 = .ok (.qtry 5 0 (.x 6)) ∧
    decSlot .l 0x1600A30E 0x0 = .ok (.tspawn 5 (.x 6) (.x 7)) ∧
    decSlot .l 0x1800A300 0x0 = .ok (.sframe 5 none (.x 6)) ∧
    decSlot .l 0x1880A30E 0x0 = .ok (.strunc 5 (.x 6) (.x 7)) ∧
    decSlot .l 0x1900A30E 0x0 = .ok (.sadv 5 (.x 6) (.x 7)) ∧
    decSlot .l 0x1980A30D 0x0 = .ok (.scur 5 (.x 6) 6) ∧
    decSlot .l 0x1A00430E 0x0 = .ok (.sgen 0 (.x 6) (.x 7)) := by
  refine ⟨rfl, rfl, rfl, rfl, rfl, rfl, rfl, rfl, rfl, rfl, rfl, rfl, rfl, rfl, rfl, rfl⟩

theorem test_decode_l_3 :
    decSlot .l 0x1C00A300 0x0 = .ok (.smpl 5 (.x 6)) ∧
    decSlot .l 0x1C80A300 0x0 = .ok (.sacc 5 (.x 6)) ∧
    decSlot .l 0x1D06E000 0x0 = .ok (.srng 55) ∧
    decSlot .l 0x10000000 0x0 = .ok (.fenceCore) ∧
    decSlot .l 0x10800000 0x0 = .ok (.fenceDie) ∧
    decSlot .l 0x11000000 0x0 = .ok (.fenceDev) ∧
    decSlot .l 0x11800000 0x0 = .ok (.fenceFab) ∧
    decSlot .l 0x12000000 0x0 = .ok (.ifence) ∧
    decSlot .l 0x16800000 0x0 = .ok (.tend) := by
  refine ⟨rfl, rfl, rfl, rfl, rfl, rfl, rfl, rfl, rfl⟩

/-! Words of Y: spec/07 R186 to R190, spec/11 R283. -/

theorem test_decode_y_1 :
    decSlot .y 0x0080FBFF 0x0 = .ok (.wait 31 (.short 1023)) ∧
    decSlot .y 0x01001C07 0x0 = .ok (.waity 3 (.reg (.x 7))) ∧
    decSlot .y 0x41801C00 0xFFFF = .ok (.post 3 (.long 0xFFFF) true) ∧
    decSlot .y 0x02001807 0x0 = .ok (.postr 3 (.x 7) none false) ∧
    decSlot .y 0x0281F800 0x0 = .ok (.barr 63) ∧
    decSlot .y 0x43044847 0x3 = .ok (.agree { cmb := .max, pr := some 1, mb := 1, tc := 1, v := .x 7, site := 3 }) ∧
    decSlot .y 0x438019C6 0xFFFFFFFF = .ok (.agreep { cmb := .all, pr := none, mb := 3, tc := 3, v := .x 6, site := 0xFFFFFFFF } true) ∧
    decSlot .y 0x4402E03A 0x9 = .ok (.agreeT { cmb := .sum, pr := some 6, mb := 0, tc := 0, v := .gq, site := 9 }) ∧
    decSlot .y 0x04807005 0x0 = .ok (.agst 5 2 3) ∧
    decSlot .y 0x05000000 0x0 = .ok (.yield) := by
  refine ⟨rfl, rfl, rfl, rfl, rfl, rfl, rfl, rfl, rfl, rfl⟩

/-! Words of V: spec/08, spec/04 R97, R98. -/

theorem test_decode_v_1 :
    decSlot .v0 0x4084B25A 0x25C00250 = .ok (.vadd { ty := .f32, mask := 16, d := 300, a := .row 301, b := .idx 302, c := 0 }) ∧
    decSlot .v0 0x4104B25A 0x25C00250 = .ok (.vsub { ty := .f32, mask := 16, d := 300, a := .row 301, b := .idx 302, c := 0 }) ∧
    decSlot .v0 0x4184B25A 0x25C00250 = .ok (.vmul { ty := .f32, mask := 16, d := 300, a := .row 301, b := .idx 302, c := 0 }) ∧
    decSlot .v0 0x4204B25A 0x25DFF081 = .ok (.vfma { ty := .s16, mask := 1, d := 300, a := .row 301, b := .idx 302, c := 511 }) ∧
    decSlot .v0 0x4284B25A 0x25DFF081 = .ok (.vfms { ty := .s16, mask := 1, d := 300, a := .row 301, b := .idx 302, c := 511 }) ∧
    decSlot .v0 0x4304B25A 0x25C00250 = .ok (.vmin { ty := .f32, mask := 16, d := 300, a := .row 301, b := .idx 302, c := 0 }) ∧
    decSlot .v0 0x4384B25A 0x25C00250 = .ok (.vmax { ty := .f32, mask := 16, d := 300, a := .row 301, b := .idx 302, c := 0 }) ∧
    decSlot .v0 0x4404B001 0x282 = .ok (.vabs { ty := .bf16, mask := 2, d := 300, a := .ko, b := .idx 0, c := 0 }) ∧
    decSlot .v0 0x4484B001 0x282 = .ok (.vneg { ty := .bf16, mask := 2, d := 300, a := .ko, b := .idx 0, c := 0 }) ∧
    decSlot .v0 0x4504B000 0xE00360 = .ok (.vmov { ty := .q32, mask := 0, d := 300, a := .row 0, b := .scal (.x 7), c := 0 }) ∧
    decSlot .v0 0x4804B25A 0x25C00003 = .ok (.vand { ty := .s64, mask := 3, d := 300, a := .row 301, b := .idx 302, c := 0 }) ∧
    decSlot .v0 0x4884B25A 0x25C00003 = .ok (.vor { ty := .s64, mask := 3, d := 300, a := .row 301, b := .idx 302, c := 0 }) ∧
    decSlot .v0 0x4904B25A 0x25C00003 = .ok (.vxor { ty := .s64, mask := 3, d := 300, a := .row 301, b := .idx 302, c := 0 }) ∧
    decSlot .v0 0x4984B25A 0xFC0 = .ok (.vnot { ty := .fm 7, mask := 0, d := 300, a := .row 301, b := .idx 0, c := 0 }) ∧
    decSlot .v0 0x4A04B25A 0xE001E0 = .ok (.vshl { ty := .n8, mask := 0, d := 300, a := .row 301, b := .scal (.x 7), c := 0 }) ∧
    decSlot .v0 0x4A84B25A 0xE001E0 = .ok (.vshr { ty := .n8, mask := 0, d := 300, a := .row 301, b := .scal (.x 7), c := 0 }) := by
  refine ⟨rfl, rfl, rfl, rfl, rfl, rfl, rfl, rfl, rfl, rfl, rfl, rfl, rfl, rfl, rfl, rfl⟩

theorem test_decode_v_2 :
    decSlot .v0 0x4B04B25A 0xE001E0 = .ok (.vsar { ty := .n8, mask := 0, d := 300, a := .row 301, b := .scal (.x 7), c := 0 }) ∧
    decSlot .v0 0x4C04B25A 0x25C00250 = .ok (.vceq { ty := .f32, mask := 16, d := 300, a := .row 301, b := .idx 302, c := 0 }) ∧
    decSlot .v0 0x4C84B25A 0x25C00250 = .ok (.vclt { ty := .f32, mask := 16, d := 300, a := .row 301, b := .idx 302, c := 0 }) ∧
    decSlot .v0 0x4D04B25A 0x25C00250 = .ok (.vcle { ty := .f32, mask := 16, d := 300, a := .row 301, b := .idx 302, c := 0 }) ∧
    decSlot .v0 0x4D84B25A 0x25DF0200 = .ok (.vsel { ty := .a80, mask := 0, d := 300, a := .row 301, b := .idx 302, c := 496 }) ∧
    decSlot .v0 0x5004B25A 0x2200C0 = .ok (.vcvt { ty := .s8, mask := 0, d := 300, a := .row 301, b := .idx 1, c := 32 }) ∧
    decSlot .v0 0x5084B25A 0xB908C0 = .ok (.vmx { ty := .fm 0, mask := 0, d := 300, a := .row 301, b := .idx 5, c := 400 }) ∧
    decSlot .v0 0x5104B25A 0x1B90380 = .ok (.vunmx { ty := .f16, mask := 0, d := 300, a := .row 301, b := .idx 13, c := 400 }) ∧
    decSlot .v0 0x5404B25A 0x380 = .ok (.vrcp { ty := .f16, mask := 0, d := 300, a := .row 301, b := .idx 0, c := 0 }) ∧
    decSlot .v0 0x5484B25A 0x380 = .ok (.vrsq { ty := .f16, mask := 0, d := 300, a := .row 301, b := .idx 0, c := 0 }) ∧
    decSlot .v0 0x5504B25A 0x380 = .ok (.vsqrt { ty := .f16, mask := 0, d := 300, a := .row 301, b := .idx 0, c := 0 }) ∧
    decSlot .v0 0x5584B25A 0x380 = .ok (.vexp2 { ty := .f16, mask := 0, d := 300, a := .row 301, b := .idx 0, c := 0 }) ∧
    decSlot .v0 0x5604B25A 0x380 = .ok (.vlog2 { ty := .f16, mask := 0, d := 300, a := .row 301, b := .idx 0, c := 0 }) ∧
    decSlot .v0 0x5684B25A 0x380 = .ok (.vtanh { ty := .f16, mask := 0, d := 300, a := .row 301, b := .idx 0, c := 0 }) ∧
    decSlot .v0 0x5704B25A 0x380 = .ok (.vsigm { ty := .f16, mask := 0, d := 300, a := .row 301, b := .idx 0, c := 0 }) ∧
    decSlot .v0 0x5804B25A 0x44 = .ok (.vrsum { ty := .s32, mask := 4, d := 300, a := .row 301, b := .idx 0, c := 0 }) := by
  refine ⟨rfl, rfl, rfl, rfl, rfl, rfl, rfl, rfl, rfl, rfl, rfl, rfl, rfl, rfl, rfl, rfl⟩

theorem test_decode_v_3 :
    decSlot .v0 0x5884B25A 0x44 = .ok (.vrmax { ty := .s32, mask := 4, d := 300, a := .row 301, b := .idx 0, c := 0 }) ∧
    decSlot .v0 0x5904B25A 0x44 = .ok (.vrmin { ty := .s32, mask := 4, d := 300, a := .row 301, b := .idx 0, c := 0 }) ∧
    decSlot .v0 0x5984B25A 0x44 = .ok (.vargmax { ty := .s32, mask := 4, d := 300, a := .row 301, b := .idx 0, c := 0 }) ∧
    decSlot .v0 0x5A04B25A 0x812B240 = .ok (.vtopk { ty := .f32, mask := 0, d := 300, a := .row 301, b := .idx 64, c := 299 }) ∧
    decSlot .v0 0x5C04B25A 0x25C00180 = .ok (.vperm { ty := .n16, mask := 0, d := 300, a := .row 301, b := .idx 302, c := 0 }) ∧
    decSlot .v0 0x5C84B25A 0x3FE00140 = .ok (.vrot { ty := .n32, mask := 0, d := 300, a := .row 301, b := .idx 511, c := 0 }) ∧
    decSlot .v0 0x5D04B25A 0x3FE00140 = .ok (.vbcast { ty := .n32, mask := 0, d := 300, a := .row 301, b := .idx 511, c := 0 }) ∧
    decSlot .v0 0x5D80DE5A 0xFE00000 = .ok (.vext { ty := .s64, mask := 0, d := 55, a := .row 301, b := .idx 127, c := 0 }) ∧
    decSlot .v0 0x5E04B00C 0xE00025 = .ok (.vins { ty := .s64, mask := 5, d := 300, a := .row 6, b := .scal (.x 7), c := 0 }) ∧
    decSlot .v0 0x60003A5A 0xC0 = .ok (.vany { ty := .s8, mask := 0, d := 14, a := .row 301, b := .idx 0, c := 0 }) ∧
    decSlot .v0 0x60803A5A 0xC0 = .ok (.vall { ty := .s8, mask := 0, d := 14, a := .row 301, b := .idx 0, c := 0 }) := by
  refine ⟨rfl, rfl, rfl, rfl, rfl, rfl, rfl, rfl, rfl, rfl, rfl⟩

/-! Words of M: spec/09 R226. -/

theorem test_decode_m_1 :
    decSlot .m 0x0080DA00 0x0 = .ok (.mset 13 (.x 6)) ∧
    decSlot .m 0x41001A00 0x80000000 = .ok (.mseti 13 0x80000000) ∧
    decSlot .m 0x0180A500 0x0 = .ok (.mget 5 2 true) ∧
    decSlot .m 0x0280C000 0x0 = .ok (.mlatch (.x 6)) ∧
    decSlot .m 0x0400C900 0x0 = .ok (.mgoBf16 (some (4, .x 6))) ∧
    decSlot .m 0x0480C900 0x0 = .ok (.mgoF16 (some (4, .x 6))) ∧
    decSlot .m 0x0500C900 0x0 = .ok (.mgoW8 (some (4, .x 6))) ∧
    decSlot .m 0x0580C900 0x0 = .ok (.mgoS8 (some (4, .x 6))) ∧
    decSlot .m 0x0600C900 0x0 = .ok (.mgoW4 (some (4, .x 6))) ∧
    decSlot .m 0x0680C900 0x0 = .ok (.mgoS4 (some (4, .x 6))) ∧
    decSlot .m 0x0800C900 0x0 = .ok (.mjoinBf16 (some (4, .x 6))) ∧
    decSlot .m 0x0880C900 0x0 = .ok (.mjoinF16 (some (4, .x 6))) ∧
    decSlot .m 0x0900C900 0x0 = .ok (.mjoinW8 (some (4, .x 6))) ∧
    decSlot .m 0x0980C900 0x0 = .ok (.mjoinS8 (some (4, .x 6))) ∧
    decSlot .m 0x0A00C900 0x0 = .ok (.mjoinW4 (some (4, .x 6))) ∧
    decSlot .m 0x0A80C900 0x0 = .ok (.mjoinS4 (some (4, .x 6))) := by
  refine ⟨rfl, rfl, rfl, rfl, rfl, rfl, rfl, rfl, rfl, rfl, rfl, rfl, rfl, rfl, rfl, rfl⟩

theorem test_decode_m_2 :
    decSlot .m 0x02000000 0x0 = .ok (.mclr) ∧
    decSlot .m 0x0C000000 0x0 = .ok (.mgol) := by
  refine ⟨rfl, rfl⟩

/-! Words of C: spec/10 R250. -/

theorem test_decode_c_1 :
    decSlot .c0 0x00800340 0x0 = .ok (.cset 8 (.x 6)) ∧
    decSlot .c0 0x41000040 0x80000000 = .ok (.cseti 8 0x80000000) ∧
    decSlot .c0 0x01800294 0x0 = .ok (.cget 5 2 true) ∧
    decSlot .c0 0x0200A000 0x0 = .ok (.cdis 5) ∧
    decSlot .c0 0x42800300 0x20104 = .ok (.cpost (.x 6) 4 2 true) ∧
    decSlot .c0 0x0400A324 0x0 = .ok (.cgo 5 (some (4, .x 6))) ∧
    decSlot .c0 0x0480A324 0x0 = .ok (.cgath 5 (some (4, .x 6))) ∧
    decSlot .c0 0x0500A324 0x0 = .ok (.cscat 5 (some (4, .x 6))) ∧
    decSlot .c0 0x0580A300 0x0 = .ok (.cfill 5 (.x 6)) ∧
    decSlot .c0 0x0600A324 0x0 = .ok (.cbcast 5 (some (4, .x 6))) ∧
    decSlot .c0 0x0680A324 0x0 = .ok (.cdx 5 (some (4, .x 6))) ∧
    decSlot .c0 0x0700A324 0x0 = .ok (.cpfd 5 (some (4, .x 6))) ∧
    decSlot .c0 0x4800A000 0xFFFF001F = .ok (.carm 5 31 0xFFFF) ∧
    decSlot .c0 0x0880A324 0x0 = .ok (.cmred 5 (some (4, .x 6))) ∧
    decSlot .c0 0x0900A324 0x0 = .ok (.ckvc 5 (some (4, .x 6))) ∧
    decSlot .c0 0x0980A324 0x0 = .ok (.cnet 5 (some (4, .x 6))) := by
  refine ⟨rfl, rfl, rfl, rfl, rfl, rfl, rfl, rfl, rfl, rfl, rfl, rfl, rfl, rfl, rfl, rfl⟩

theorem test_decode_c_2 :
    decSlot .c0 0x0A00A300 0x0 = .ok (.bgo 5 (.x 6)) := rfl


/-! ## Bundles of the worked programs of spec/15 and spec/17 -/

/-- The operations of a bundle decode to these, with their guards; on Saffron if `sf`. -/
def opsOf (sf : Bool) (ws : List Syl) (l : List (Fin 16 × Instr)) : Bool := match decodeBundle sf ws with
  | .ok b => decide (b.ops.map (fun o => (o.guard, o.op)) = l)
  | .error _ => false
def refuses (sf : Bool) (ws : List Syl) (e : DErr) : Bool := match decodeBundle sf ws with
  | .ok _ => false
  | .error p => decide (p.1 = e)

/-- spec/15 B0, B4, B5, B7, B17, B24 and B25. -/
theorem test_bundles_agreement :
    (opsOf false [0x18010000, 0x6C000001, 0x00000038, 0x8200A100]
        [(0, .bprep 0 (.long 0x38)), (0, .ldN64 5 (.x 2) (.reg (.x 0)))] &&
      opsOf false [0x20010000, 0xC31B4006, 0x00000001]
        [(3, .agree { cmb := .min, pr := some 1, mb := 0, tc := 0, v := .x 6, site := 1 })] &&
      opsOf false [0x30000000, 0x04800009, 0x8081BD01] [(0, .agst 9 0 0), (0, .add 13 .gq (.short 0))] &&
      opsOf false [0x10000000, 0x90010505] [(0, .cmpeq 3 (.x 10) (.short 2))] &&
      opsOf false [0x08000000, 0xC2622781, 0x00000020] [(12, .ldN64 17 (.x 15) (.long 32))] &&
      opsOf false [0x08010000, 0x96800000] [(0, .tend)] &&
      opsOf false [0x30010000, 0x4304A006, 0x00000009, 0x94806000]
        [(0, .agree { cmb := .max, pr := some 4, mb := 0, tc := 0, v := .x 6, site := 9 }), (0, .por 3 0 false 0 false)]) = true := by
  decide +kernel

/-- spec/17 B2, B5, B6, Q0, Q1 and Q2; Saffron alone may run `sacc`. -/
theorem test_bundles_duplex :
    (opsOf false [0x18000000, 0x4C814001, 0x60000440, 0x99820401] [(0, .li 10 (.long 0x60000440)), (0, .scur 16 (.x 8) 0)] &&
      opsOf false [0x18000000, 0x2C000019, 0x94000594] [(0, .bprep 0 (.short 12)), (0, .qpush (.x 11) (.reg (.x 10)))] &&
      opsOf false [0x08010000, 0x98018404] [(0, .sframe 12 (some 0) (.x 8))] &&
      opsOf true [0x08000000, 0x9C806100] [(0, .sacc 3 (.x 2))] &&
      opsOf true [0x18000000, 0x4080A101, 0x00000040, 0xC4006101, 0x00000080]
        [(0, .add 5 (.x 2) (.long 64)), (0, .stN64 (.x 3) (.x 2) (.long 128))] &&
      opsOf true [0x18000000, 0x2D000080, 0x9C00C280] [(0, .bprepi 0 (.x 1)), (0, .smpl 6 (.x 5))] &&
      refuses false [0x08000000, 0x9C806100] .illop) = true := by decide +kernel

/-- A header whose T names no slot, and a bundle without a stop bit, are refused. -/
theorem test_bundles_refused : (refuses false [0x00000000, 0x8081BD01] .illb && refuses false [0x10000000, 0x0081BD01] .illb) = true := by
  decide +kernel

/-! ## Ill-formed instructions: one for each check -/

theorem test_wf_fields :
    ((Instr.vadd { ty := .s32, mask := 0, d := 3, a := .row 1, b := .idx 2, c := 0 }).wf &&
      (Instr.vext { ty := .s32, mask := 0, d := 55, a := .row 1, b := .idx 2, c := 0 }).wf &&
      !(Instr.vext { ty := .s32, mask := 0, d := 56, a := .row 1, b := .idx 2, c := 0 }).wf &&
      !(Instr.vext { ty := .s32, mask := 0, d := 64, a := .row 1, b := .idx 2, c := 0 }).wf &&
      !(Instr.vext { ty := .s32, mask := 1, d := 5, a := .row 1, b := .idx 2, c := 0 }).wf &&
      (Instr.vany { ty := .s32, mask := 0, d := 14, a := .row 1, b := .idx 0, c := 0 }).wf &&
      !(Instr.vany { ty := .s32, mask := 0, d := 16, a := .row 1, b := .idx 0, c := 0 }).wf &&
      !(Instr.vany { ty := .s32, mask := 0, d := 3, a := .row 1, b := .idx 0, c := 0 }).wf &&
      !(Instr.vany { ty := .s32, mask := 0, d := 0, a := .row 1, b := .idx 0, c := 0 }).wf &&
      (Instr.vins { ty := .s32, mask := 0, d := 3, a := .row 1, b := .scal (.x 2), c := 0 }).wf &&
      !(Instr.vins { ty := .s32, mask := 0, d := 3, a := .row 64, b := .scal (.x 2), c := 0 }).wf &&
      !(Instr.vins { ty := .s32, mask := 0, d := 3, a := .row 60, b := .scal (.x 2), c := 0 }).wf &&
      !(Instr.vins { ty := .s32, mask := 0, d := 3, a := .ko, b := .scal (.x 2), c := 0 }).wf &&
      !(Instr.vins { ty := .s32, mask := 0, d := 3, a := .row 1, b := .idx 2, c := 0 }).wf) = true := by decide +kernel

theorem test_wf_operands :
    ((Instr.vmov { ty := .s32, mask := 0, d := 3, a := .row 1, b := .idx 0, c := 0 }).wf &&
      !(Instr.vmov { ty := .s32, mask := 0, d := 3, a := .row 1, b := .scal (.x 2), c := 0 }).wf &&
      !(Instr.vmov { ty := .s32, mask := 0, d := 3, a := .row 1, b := .idx 2, c := 0 }).wf &&
      !(Instr.vnot { ty := .s32, mask := 0, d := 3, a := .row 1, b := .idx 2, c := 0 }).wf &&
      !(Instr.vnot { ty := .s32, mask := 0, d := 3, a := .row 1, b := .scal (.x 2), c := 0 }).wf &&
      !(Instr.vnot { ty := .s32, mask := 0, d := 3, a := .row 1, b := .idx 0, c := 1 }).wf &&
      (Instr.vcvt { ty := .f32, mask := 0, d := 3, a := .row 1, b := .idx 0, c := 0x13 }).wf &&
      !(Instr.vcvt { ty := .f32, mask := 0, d := 3, a := .row 1, b := .scal (.x 2), c := 0x13 }).wf &&
      !(Instr.vcvt { ty := .f32, mask := 0, d := 3, a := .row 1, b := .idx 0, c := 64 }).wf &&
      !(Instr.vcvt { ty := .s32, mask := 0, d := 3, a := .row 1, b := .idx 0, c := 0x13 }).wf &&
      !(Instr.vcvt { ty := .f32, mask := 0, d := 3, a := .row 1, b := .idx 1, c := 0x13 }).wf &&
      !(Instr.vmx { ty := .s16, mask := 0, d := 3, a := .row 1, b := .idx 0, c := 3 }).wf &&
      !(Instr.vunmx { ty := .s16, mask := 0, d := 3, a := .row 1, b := .idx 2, c := 0 }).wf &&
      !(Instr.vtopk { ty := .s32, mask := 0, d := 3, a := .row 1, b := .idx 65, c := 4 }).wf &&
      !(Instr.vshl { ty := .f32, mask := 0, d := 3, a := .row 1, b := .idx 2, c := 0 }).wf) = true := by decide +kernel

theorem test_wf_events :
    (!(Instr.queueMessageAppend 128 0 0).wf && !(Instr.queueMessageAppend 0 65536 0).wf && !(Instr.flueMove 128).wf &&
      !(Instr.targetFillCompletion 8).wf && !(Instr.preemptionRequest 64).wf && !(Instr.groupInvalidate 256).wf &&
      !(Instr.lateLimitExpiry 256 0).wf && !(Instr.reportCopyWrite 256 0 0 []).wf && !(Instr.heartbeatArrival 4096).wf &&
      !(Instr.deviceLoss 4096).wf && !(Instr.frameArrival 16 []).wf && !(Instr.joinActivation 256 0).wf &&
      !(Instr.tasksetActivation 256 0).wf && !(Instr.queueEnable 64).wf && !(Instr.damperCharge 0 3 1).wf &&
      !(Instr.damperRefill 65536 0).wf && !(Instr.chimneyLinkDown 2).wf && !(Instr.chimneyLinkUp 2).wf &&
      !(Instr.agreementContributionArrival 256 0 { seq := 0, site := 0, cmb := .sum, tc := 0, t := 0, v := 0 }).wf &&
      (Instr.queueMessageAppend 127 65535 0).wf && (Instr.flueMove 127).wf) = true := by decide +kernel


/-- Words of the spec's examples: spec/07 R176, R190, R194, spec/08 R206, spec/09 R249, spec/12, spec/14, spec/18 R345. -/
theorem test_words_examples :
    decSlot .v1 0xC218A052 0x0542B245 = .ok (.vfma { ty := .f32, mask := 5, d := 40, a := .row 41, b := .idx 42, c := 43 }) ∧
    decSlot .l 0x8C00A403 0 = .ok (.amoadd 5 (.x 8) (.short 1)) ∧
    decSlot .y 0x0200200A 0 = .ok (.postr 4 (.x 10) none false) ∧
    decSlot .p 0x00581800 0 = .ok (.pfx .sto .ovfi .qn 3) ∧
    decSlot .s 0xB8800283 0 = .ok (.wrcr (.short 1) (.x 5)) ∧
    decSlot .c0 0xC82A8000 0x00010000 = .ok (.carm 20 0 1) ∧
    decSlot .m 0xC1000200 0x00200000 = .ok (.mseti 1 0x00200000) ∧
    decSlot .m 0x84000000 0 = .ok (.mgoBf16 none) ∧
    decSlot .y 0xC3004007 3 = .ok (.agree { cmb := .all, pr := some 1, mb := 0, tc := 0, v := .x 7, site := 3 }) :=
  ⟨rfl, rfl, rfl, rfl, rfl, rfl, rfl, rfl, rfl⟩

theorem test_words_examples_l :
    decSlot .l 0x8800E400 0 = .ok (.stsN64 (.x 7) (.x 8) (.reg (.x 0))) ∧
    decSlot .l 0x8600A480 0 = .ok (.ldsN64 5 (.x 9) (.reg (.x 0))) := ⟨rfl, rfl⟩

/-- spec/04: `[w rep 2] add x5, x5, 1 | (p9) V0 vadd.s16 v10, v11, v12`. -/
theorem test_bundle_example :
    opsOf false [0x14042000, 0x0080A283, 0xC0C82816, 0x01800080]
      [(0, .add 5 (.x 5) (.short 1)), (9, .vadd { ty := .s16, mask := 0, d := 10, a := .row 11, b := .idx 12, c := 0 })] = true ∧
    (hdrOf 0x14042000).w = true ∧ (hdrOf 0x14042000).rc = 1 ∧ (hdrOf 0x80000A28).j = true ∧ (hdrOf 0x80000A28).tb = 2 ∧
    (hdrOf 0x80000A28).pg = 5 ∧ (hdrOf 0x10010000).k = true := by decide +kernel

/-! ## Results of the worked examples -/

/-- These writes are among those that an operation leaves to land. -/
def lands (o : Host.Outcome State Fault Refusal) (ws : List LWrite) : Bool :=
  next o fun t => ws.all fun w => t.core.land.any fun e => e.ws.contains w

def rational (s : State) : State := { s with core := { s.core with tcw := 3 } }

/-- spec/06: (7/20) / (2/25) is 35/8 in rational mode, and its ceiling is 5. -/
theorem test_clove_example :
    lands (exec (.fdiv 12 (.x 10) (.reg (.x 11))) (setX (setX (rational base) 10 0x0F800014) 11 0x0A000019)) [.x 12 0x1A300008] = true ∧
    lands (exec (.qceil 13 (.x 12)) (setX (rational base) 12 0x1A300008)) [.x 13 5] = true := by decide +kernel

/-- spec/02: 2^-25 lies between 0 and 1/33,554,431, and equals their mediant. -/
theorem test_rational_rounding :
    qRound .qn .ovfi 1 33554432 = (0x07FFFFFF, fQNX) ∧ qRound .qd .ovfi 1 33554432 = (1, fQNX) ∧
    qRound .qu .ovfi 1 33554432 = (0x07FFFFFF, fQNX) ∧ qRound .qz .ovfi 1 33554432 = (1, fQNX) ∧
    qRound .qm .ovfi 1 33554432 = (1, fQNX) := by decide +kernel

/-- spec/02: the 96-bit window drops 2^-60 beside 2^40, and the tie goes to 2^40; the exact sum would have rounded up. -/
theorem test_hearth_window :
    a80Add 0 (sumWindow [.fin false 1 40, .fin false 1 (-27), .fin false 1 (-60)]) = a80Add 0 (.fin false 1 40) ∧
    a80Add 0 (fvSum [.fin false 1 40, .fin false 1 (-27), .fin false 1 (-60)]) ≠ a80Add 0 (.fin false 1 40) := by decide +kernel

/-- spec/08: eight candidates, one masked, sorted into v40 with their lanes in v41; no flag. -/
def cand : Row := BitVec.ofNat 10240 (packAt 40 ([0x3F000000, 0x40000000, 0x7FC00001, 0x40000000, 0xBF800000, 0x40600000, 0x3E800000,
  0x40000000].zipIdx.map fun p => (p.2, p.1)))
def candidates : State :=
  { base with core := rowSet (rowSet { base.core with iss := { base.core.iss with slot := .v0 } } 30 cand) 496 0xBF }
def rowWritten (q : Fin 512) (l : List Nat) (s : State) : Bool :=
  s.core.land.any fun e => e.ws.any fun w => match w with
    | .row r _ _ v => r == q && (List.range l.length).map (laneOf v 40) == l
    | _ => false
theorem test_vtopk_example :
    next (exec (.vtopk { ty := .f32, mask := 1, d := 40, a := .row 30, b := .idx 8, c := 41 }) candidates) (fun t =>
      rowWritten 40 [0x40600000, 0x40000000, 0x40000000, 0x40000000, 0x3F000000, 0xBF800000, 0x7FC00000, 0xFF800000, 0] t &&
      rowWritten 41 [5, 1, 3, 7, 0, 4, 2, 0xFFFFFFFF, 0] t) = true := by decide +kernel

/-! ## Results worked out by hand -/

theorem test_add_wraps :
    lands (exec (.add 5 (.x 6) (.short 1)) (setX base 6 0xFFFFFFFFFFFFFFFF)) [.x 5 0] = true ∧
    lands (exec (.add 5 (.x 0) (.short 0x3F)) base) [.x 5 0xFFFFFFFFFFFFFFFF] = true := by decide +kernel
theorem test_mulh_signs :
    lands (exec (.mulh 5 (.x 6) (.reg (.x 6))) (setX base 6 0xFFFFFFFFFFFFFFFF)) [.x 5 0] = true ∧
    lands (exec (.mulhn 5 (.x 6) (.reg (.x 6))) (setX base 6 0xFFFFFFFFFFFFFFFF)) [.x 5 0xFFFFFFFFFFFFFFFE] = true := by decide +kernel
theorem test_x0_stays : next (exec (.li 0 (.short 7)) base) (fun t => t.landEverything.core.live.x == base.core.live.x) = true := by
  decide +kernel
theorem test_user_may_not_write_control : next (exec (.wrcr (.short 1) (.x 5)) (user base)) (fun t =>
    t.core.phase == .handler && t.core.tcause.setWidth 8 == 0x03#8) = true := by decide +kernel
/-- A store enters the withholding buffer, and memory keeps what it held. -/
theorem test_store_is_withheld : next (exec (.stN64 (.x 5) (.x 6) (.short 0)) (setX (setX (inSlot base .l) 5 7) 6 0x8000)) (fun t =>
    t.core.whb.length == 1 && t.mem == base.mem) = true := by decide +kernel
theorem test_load_misaligned : next (exec (.ldN64 5 (.x 6) (.short 0)) (setX (inSlot base .l) 6 0x8001)) (fun t =>
    t.core.phase == .handler && t.core.tcause.setWidth 8 == 0x07#8) = true := by decide +kernel
/-- One word for each slot runs as the first instruction after reset. -/
theorem test_first_step : next (step (State.reset.withFetchWord 32 0x0080A30E)) (fun t => t.core.pc == 0x4008 && t.core.seq == 1 && t.core.phase == .run) = true := by
  decide +kernel

/-! ### The statements' hypotheses are met: scalar, system and L slot -/

theorem witness_IntegerResults :
    (intVal base (.bfi 5 (.x 6) (.short 0x3F))).isSome = true ∧ (readVal base (.rdid 5 14)).isSome = true := by decide +kernel

theorem witness_ComparesWritePredicates : (condVal base (.cmptst 6 .tq (.long 0))).isSome = true ∧
    (condVal base (.pxor 15 0 true 8 false)).isSome = true := by decide +kernel


theorem witness_FloatAndRationalResults :
    (base.core.tcw.getLsbD 1 = false ∧ (floatOp base (.fma 5 (.x 6) (.reg (.x 7)))).isSome = true) ∧
    ((rational base).core.tcw.getLsbD 1 = true ∧ (ratOp (rational base) (.fcvtfi 5 (.x 6) 3)).isSome = true) ∧
    (cloveOp base (.qtof 5 .ko)).isSome = true := by
  refine ⟨⟨by decide +kernel, rfl⟩, ⟨by decide +kernel, rfl⟩, rfl⟩

theorem witness_FloatCompares : ∃ i : Instr, (i = .fcmpeq 0 .sq (.short 0) ∨ i = .fcmplt 0 .sq (.short 0) ∨ i = .fcmple 0 .sq (.short 0)) :=
  ⟨.fcmple 0 .sq (.short 0), by decide⟩

theorem witness_BundleEndEffects : (putOff base (.sgset 15 (.x 6))).isSome = true ∧
    (putOff base (.bprepL 7 (.long 0x80000000))).isSome = true ∧ base.core.iss.leave = none ∧ base.core.iss.ending = 0 := by
  decide +kernel

theorem witness_SystemCallsTrap : base.CanTrap := base_traps

/-- A handler that runs; no handler enabled. -/
def handling (s : State) : State := { s with core := { s.core with phase := .handler } }
def noVector (s : State) : State := { s with dreg := [(offPARTCTL, 0)] }

theorem witness_DoubleTrapStopsTheCore :
    ((handling base).Quiet ∧ (handling base).onSaffron = false ∧ (handling base).core.phase = .handler) ∧
    ((noVector base).Quiet ∧ (noVector base).onSaffron = false ∧ (noVector base).trapEnabled = false) := by
  refine ⟨⟨⟨rfl, rfl, rfl, rfl, rfl, rfl⟩, rfl, rfl⟩, ⟨rfl, rfl, rfl, rfl, rfl, rfl⟩, rfl, by decide +kernel⟩

theorem witness_UserModeRaisesPriv : (user base).CanTrap ∧ (user base).core.tcw.getLsbD 0 = false ∧
    needsPrivilege (.wrcr (.short 1) (.x 5)) = true := by
  refine ⟨⟨⟨rfl, rfl, rfl, rfl, rfl, rfl⟩, rfl, rfl, by decide +kernel⟩, by decide, rfl⟩

theorem witness_ControlRegisters : base.core.tcw.getLsbD 0 = true ∧
    (controlReg base (Imm.val (.short 0)).toNat).isSome = true ∧ (controlReg base (Imm.val (.long 0x4F)).toNat).isSome = true := by
  decide +kernel

theorem witness_ReturnFromHandler : base.core.tcw.getLsbD 0 = true := by decide +kernel

/-- x6 holds an address within the mapped gigabyte, and x7 one outside it. -/
def addrs : State := setX (setX (inSlot base .l) 6 0x10000) 7 0x50000000

def saffAddrs : State := { addrs with here := 72 }

theorem witness_LoadsIssue :
    (∃ r tr, loadOp (.ldsN64 5 (.x 6) (.short 0)) = some r ∧ (r.ea saffAddrs).toNat % r.n = 0 ∧ saffAddrs.onSaffron = true ∧
      lAccess saffAddrs .rd r.strong (r.ea saffAddrs) = .ok tr ∧ saffAddrs.core.rel = [] ∧ r.strong = true ∧
      ∀ k, k < r.n → memLoc (locate (tr.pa + k)) = true ∧ saffAddrs.core.ownByte (tr.pa + k) = none) ∧
    (∃ r tr, loadOp (.ldsN64 5 (.x 6) (.short 0)) = some r ∧ (r.ea addrs).toNat % r.n = 0 ∧ addrs.onSaffron = false ∧
      lAccess addrs .rd r.strong (r.ea addrs) = .ok tr) ∧
    (∃ r, loadOp (.ldN8 5 (.x 7) (.short 0x3F)) = some r ∧ (r.ea addrs).toNat % r.n = 0 ∧ addrs.onSaffron = false ∧
      lAccess addrs .rd r.strong (r.ea addrs) = .error 0) := by
  refine ⟨⟨_, ⟨0x10000, 487⟩, rfl, by decide +kernel, by decide, okIs_eq (by decide +kernel), rfl, rfl, by decide +kernel⟩,
    ⟨_, ⟨0x10000, 487⟩, rfl, by decide +kernel, rfl, okIs_eq (by decide +kernel)⟩,
    ⟨_, rfl, by decide +kernel, rfl, errIs_eq (by decide +kernel)⟩⟩

/-- A strong load of eight bytes at 0x10000, and a result with no load, to be written. -/
def toCome (ld : Option Ld) : Outst :=
  { seq := 0, pcb := 0, ld := ld, xd := some 5, val := 9, lq := some 9, pair := none, fault := none, host := false }
def strongLd : Ld :=
  { bytes := (List.range 8).map fun k => (0x10000 + k, none), strong := true, cl := 0, acq := 0, seq := 0 }
def withOutst (s : State) (l : List Outst) : State := { s with core := { s.core with outst := l } }

theorem witness_LoadsComplete :
    (withOutst base [toCome (some strongLd)]).core.outst = [toCome (some strongLd)] ∧ (toCome (some strongLd)).fault = none ∧
    (toCome (some strongLd)).clash = false ∧ (toCome (some strongLd)).pair = none ∧
    strongLd.bytes = ((List.range 8).map fun k => (0x10000 + k, none)) ∧
    (∀ k, k < 8 → memLoc (locate (0x10000 + k)) = true) ∧ (toCome none).ld = none ∧ (toCome none).fault = none ∧
    (toCome none).clash = false ∧ (toCome none).pair = none ∧
    ({ toCome none with pair := some (14, 15, true) } : Outst).pair = some (14, 15, true) := by
  refine ⟨rfl, rfl, rfl, rfl, rfl, by decide +kernel, rfl, rfl, rfl, rfl, rfl⟩

def withWhb (s : State) (n : Nat) : State :=
  { s with core := { s.core with whb := List.replicate n (.cdis 0 0) } }

theorem witness_StoresAreWithheld :
    (∃ r tr, storeOp (.stN32 .lq (.x 6) (.long 4)) = some r ∧ (r.ea addrs).toNat % r.n = 0 ∧
      lAccess addrs .wr r.strong (r.ea addrs) = .ok tr ∧ addrs.onSaffron = false ∧ (withWhb addrs 255).core.whb.length < 256 ∧
      lAccess (withWhb addrs 256) .wr r.strong (r.ea addrs) = .ok tr ∧ (withWhb addrs 256).CanTrap ∧
      256 ≤ (withWhb addrs 256).core.whb.length) ∧
    (∃ r tr, storeOp (.stsN8 .lq (.x 6) (.short 1)) = some r ∧ (r.ea saffAddrs).toNat % r.n = 0 ∧
      lAccess saffAddrs .wr r.strong (r.ea saffAddrs) = .ok tr ∧ saffAddrs.onSaffron = true ∧ saffAddrs.Inv ∧
      memLoc (locate tr.pa) = true) := by
  refine ⟨⟨_, ⟨0x10004, 487⟩, rfl, by decide +kernel, okIs_eq (by decide +kernel), rfl, by decide +kernel,
      okIs_eq (by decide +kernel), ⟨⟨rfl, rfl, rfl, rfl, rfl, rfl⟩, rfl, rfl, by decide +kernel⟩, by decide +kernel⟩,
    ⟨_, ⟨0x10001, 487⟩, rfl, by decide +kernel, okIs_eq (by decide +kernel), by decide +kernel, inv_of (by decide +kernel),
      by decide +kernel⟩⟩

theorem addrs_traps : addrs.CanTrap := ⟨⟨rfl, rfl, rfl, rfl, rfl, rfl⟩, rfl, rfl, by decide +kernel⟩
theorem addrs_noReplay : addrs.NoReplay := noReplay_of (by decide +kernel)
theorem addrs_inv : addrs.Inv := inv_of (by decide +kernel)

theorem witness_AccessTraps : addrs.CanTrap ∧ addrs.NoReplay ∧ (addrs.once 0).done = false ∧
    (∃ p : Word × Nat, alignment addrs (.ldN64 5 (.x 6) (.short 7)) = some p ∧ p.1.toNat % p.2 ≠ 0) ∧
    (∃ p : Word × Nat, alignment addrs (.sgen 0 (.lq) (.x 6)) = some p ∧ p.1.toNat % p.2 = 0) ∧
    (∃ r, storeOp (.stN64 .lq (.x 7) (.short 0)) = some r ∧ 0 < 256 ∧ (r.ea addrs).toNat % r.n = 0 ∧
      lAccess addrs .wr r.strong (r.ea addrs) = .error 0) ∧
    (∃ r, amoOp addrs (.amocas 5 (.x 7) (.short 0)) = some r ∧ (addrs.src .l r.base).toNat % 8 = 0 ∧
      lAccess addrs .rw true (addrs.src .l r.base) = .error 0) := by
  refine ⟨addrs_traps, addrs_noReplay, rfl, ⟨_, rfl, by decide +kernel⟩, ⟨_, rfl, by decide +kernel⟩,
    ⟨_, rfl, by decide, by decide +kernel, errIs_eq (by decide +kernel)⟩, ⟨_, rfl, by decide +kernel, errIs_eq (by decide +kernel)⟩⟩

theorem witness_AtomicsUpdateMemory : ∃ r tr, amoOp addrs (.amomin 5 (.x 6) (.short 0x3F)) = some r ∧ addrs.Inv ∧
    (addrs.once 0).done = false ∧ addrs.NoReplay ∧ addrs.core.rel = [] ∧ (addrs.src .l r.base).toNat % 8 = 0 ∧
    lAccess addrs .rw true (addrs.src .l r.base) = .ok tr := by
  refine ⟨_, ⟨0x10000, 487⟩, rfl, addrs_inv, rfl, addrs_noReplay, rfl, by decide +kernel, okIs_eq (by decide +kernel)⟩

/-- The L slot's instruction has been performed, without and with a pair. -/
def performed (p : Option Bool) : State :=
  { addrs with core := { addrs.core with once := addrs.core.once.set 0 { done := true, val := 3, aux := 4, pair := p } } }

theorem witness_OnceOnlyIsNotRepeated :
    (((performed none).once 0).done = true ∧ (recorded ((performed none).once 0) (.qpop 5 (.x 6))).isSome = true) ∧
    ((recorded ((performed none).once 0) (.amoor 5 (.x 6) (.short 0))).isSome = true) ∧
    ((recorded ((performed (some false)).once 0) (.qtry 5 0 (.x 6))).isSome = true) ∧
    ((recorded ((performed (some true)).once 0) (.sgen 0 (.x 6) (.x 7))).isSome = true) := by decide +kernel

def fencing (n : Nat) : State := { base with core := { base.core with fence := some n } }
/-- A released store is still to reach its home. -/
def unflushed (n : Nat) : State :=
  { base with core := { base.core with fence := some n, rel := [.store 0x10000 [1, 2] base.acc] } }

theorem witness_FencesOrderAccesses : fenceScope .ifence = some 4 ∧
    ((fencing 3).core.fence = some 3 ∧ (fencing 3).core.outst = [] ∧ (fencing 3).core.rel = [] ∧
      (fencing 3).core.copies.any (fencing 3).farOpen = false) ∧ (fencing 0).core.fence = some 0 ∧
    ((unflushed 3).core.fence = some 3 ∧ 1 ≤ 3 ∧ (unflushed 3).core.outst = [] ∧
      (unflushed 3).core.rel = [.store 0x10000 [1, 2] base.acc] ∧ (unflushed 3).core.copies.any (unflushed 3).farOpen = false ∧
      memLoc (locate 0x10000) = true ∧ (unflushed 3).Inv) := by
  refine ⟨rfl, ⟨rfl, rfl, rfl, rfl⟩, rfl, rfl, by decide, rfl, rfl, rfl, by decide +kernel, inv_of (by decide +kernel)⟩

/-- Queue 5 of die 0 is enabled and holds the messages; x6 names it. -/
def ringHolds (l : List Msg) : State :=
  let s := setX (inSlot base .l) 6 5
  { s with dreg := [(offPARTCTL, 0), (offMQCTL 5, 0x8000000000000000), (offTRAPVEC, 0x8000000000004000)]
           mqs := [{ die := 0, q := 5, ring := l, flue := [] }] }
def waitingQ (s : State) : State := { s with core := { s.core with iss := { s.core.iss with q := true } } }

theorem witness_QueueInstructions :
    ((ringHolds [⟨0, 7⟩]).qRefused (ringHolds [⟨0, 7⟩]).acc ((ringHolds [⟨0, 7⟩]).src .l (.x 6)) = false ∧
      (ringHolds [⟨0, 7⟩]).onSaffron = false ∧ (ringHolds [⟨0, 7⟩]).core.whb.length < 256 ∧
      ((ringHolds [⟨0, 7⟩]).once 0).done = false ∧ (ringHolds [⟨0, 7⟩]).NoReplay ∧
      saffronQueue ((ringHolds [⟨0, 7⟩]).src .l (.x 6)) = false ∧ ((ringHolds [⟨0, 7⟩]).mq 0 5).ring = [⟨0, 7⟩] ∧
      ((ringHolds [⟨0, 7⟩]).mq 0 5).flue = [] ∧ qDie ((ringHolds [⟨0, 7⟩]).src .l (.x 6)) = 0 ∧
      qNum ((ringHolds [⟨0, 7⟩]).src .l (.x 6)) = 5) ∧
    ((waitingQ (ringHolds [])).qRefused (waitingQ (ringHolds [])).acc ((waitingQ (ringHolds [])).src .l (.x 6)) = false ∧
      ((waitingQ (ringHolds [])).mq 0 5).ring = [] ∧ (waitingQ (ringHolds [])).core.iss.q = true) := by
  unfold State.NoReplay
  decide +kernel

theorem witness_TasksSpawnAndEnd : addrs.NoReplay ∧ ∃ tr, (addrs.once 0).done = false ∧ addrs.core.rel = [] ∧
    (addrs.src .l (.x 6)).toNat % 64 = 0 ∧ lAccess addrs .rd true (addrs.src .l (.x 6)) = .ok tr ∧
    addrs.spawnShut (addrs.src .l .lq) = false := by
  refine ⟨addrs_noReplay, ⟨0x10000, 487⟩, rfl, rfl, by decide +kernel, okIs_eq (by decide +kernel), by decide +kernel⟩


/-! ### Streams and Saffron -/

/-- A stream context at 0x10000: G 5, P 2, TB 1, depth 1, KVL 4, frame ring of one entry, token array of 2^TKL; the frame's time
is a Q32 code. -/
def stream (tail tkl frame : Nat) : State :=
  let s := put64 (put64 (put64 addrs 0x10000 (5 + 2 * 2 ^ 32)) 0x10008 (0x06000001 + 2 ^ 40)) 0x10010 4
  let s := put64 (put64 (put64 s 0x10018 (tail * 2 ^ 32)) 0x10020 0x20000) 0x10028 0x30000
  put (put64 (put64 s 0x10030 64) 0x10038 (0x40000 + tkl * 2 ^ 48)) 0x20000 (leBytes 4 frame)

/-- What the context's read gives: the state and the context. -/
def opened (s : State) : Except (Nat × Nat) (State × SCtx) := (s.loadL (.x 6)).sctxAt (s.src .l (.x 6))
def ctxU (s : State) : State × SCtx := got (opened s) (s, s.sctx 0)
theorem opened_eq (s : State) (h : isGot (opened s) = true) : opened s = .ok ((ctxU s).1, (ctxU s).2) := got_eq _ h

/-- The context as it stands in memory. -/
def ctxLit (tail tkl : Nat) : SCtx :=
  { pa := 0x10000, g := 5, p := 2, tb := (1, 1), lpol := false, dep := 1, kvl := 4, lf := 0, head := 0, tail := tail, frl := 0,
    frb := 0x20000, snb := 0x30000, sns := 64, tkl := tkl, tkb := 0x40000, w40 := 0, ok := true }

/-- What the stream witnesses ask of the state in which the context was read. -/
def streamFacts (tail tkl frame : Nat) : Bool :=
  isGot (opened (stream tail tkl frame)) && decide ((ctxU (stream tail tkl frame)).2 = ctxLit tail tkl) &&
  (ctxU (stream tail tkl frame)).1.repMode == 0 && Memory.wf (ctxU (stream tail tkl frame)).1.mem &&
  canTrapB (ctxU (stream tail tkl frame)).1 && (ctxU (stream tail tkl frame)).1.core.rel.isEmpty

theorem stream_cursors : (streamFacts 0 3 1 &&
    okIs (State.vaddrs (ctxU (stream 0 3 1)).1 (ctxU (stream 0 3 1)).1.acc .rw (.lslot true) (0x40000 + w64 (4 * 5)) (2 ^ 50) 4 0)
      [0x40014, 0x40015, 0x40016, 0x40017]) = true := by decide +kernel

theorem stream_frame : (streamFacts 1 3 0x0E000001 && isGot (State.nextFrame (ctxU (stream 1 3 0x0E000001)).1 (ctxLit 1 3)) &&
    (got (State.nextFrame (ctxU (stream 1 3 0x0E000001)).1 (ctxLit 1 3)) (base, none)).2 == some 0x0E000001) = true := by
  decide +kernel

theorem facts_of {tail tkl frame : Nat} (h : streamFacts tail tkl frame = true) :
    opened (stream tail tkl frame) = .ok ((ctxU (stream tail tkl frame)).1, ctxLit tail tkl) ∧
    (ctxU (stream tail tkl frame)).1.NoReplay ∧ (ctxU (stream tail tkl frame)).1.Inv ∧
    (ctxU (stream tail tkl frame)).1.CanTrap ∧ (ctxU (stream tail tkl frame)).1.core.rel = [] := by
  simp only [streamFacts, Bool.and_eq_true, decide_eq_true_eq, List.isEmpty_iff] at h
  obtain ⟨⟨⟨⟨⟨h1, h2⟩, h3⟩, h4⟩, h5⟩, h6⟩ := h
  exact ⟨h2 ▸ opened_eq _ h1, noReplay_of h3, h4, canTrap_of h5, h6⟩

theorem witness_StreamCursors :
    opened (stream 0 3 1) = .ok ((ctxU (stream 0 3 1)).1, ctxLit 0 3) ∧ (ctxU (stream 0 3 1)).1.NoReplay ∧
    (ctxU (stream 0 3 1)).1.Inv ∧ (ctxU (stream 0 3 1)).1.core.rel = [] ∧ ((stream 0 3 1).once 0).done = false ∧
    (∃ ps, State.vaddrs (ctxU (stream 0 3 1)).1 (ctxU (stream 0 3 1)).1.acc .rw (.lslot true)
        (0x40000 + w64 (4 * 5)) (2 ^ 50) 4 0 = .ok ps ∧
      (∀ p ∈ ps, memLoc (locate p) = true) ∧ ps.Nodup ∧ ∀ p ∈ ps, p < 0x10000 ∨ 0x10000 + 0x48 ≤ p) ∧
    (ctxLit 0 3).tkb + w64 (4 * (5 % 2 ^ (ctxLit 0 3).tkl)) = 0x40000 + w64 (4 * 5) ∧
    (ctxLit 0 3).g - (ctxLit 0 3).p < 2 ^ (ctxLit 0 3).tkl ∧ ¬((ctxLit 0 1).g - (ctxLit 0 1).p < 2 ^ (ctxLit 0 1).tkl) := by
  have h := stream_cursors
  rw [Bool.and_eq_true] at h
  obtain ⟨h1, h2, h3, -, h5⟩ := facts_of h.1
  exact ⟨h1, h2, h3, h5, rfl, ⟨_, okIs_eq h.2, by decide +kernel, by decide +kernel, by decide +kernel⟩, by decide +kernel,
    by decide +kernel, by decide +kernel⟩

/-- The context with G at its greatest value and P one below. -/
def topped : State := put64 (stream 0 3 1) 0x10000 (2 ^ 32 - 1 + (2 ^ 32 - 2) * 2 ^ 32)

theorem witness_StreamCursors_top : ∃ u ps, opened topped = .ok (u, { ctxLit 0 3 with g := 2 ^ 32 - 1, p := 2 ^ 32 - 2 }) ∧ u.NoReplay ∧
    u.Inv ∧ u.core.rel = [] ∧ (topped.once 0).done = false ∧ 2 ^ 32 - 1 - (2 ^ 32 - 2) < 2 ^ (ctxLit 0 3).tkl ∧
    State.vaddrs u u.acc .rw (.lslot true) (0x40000 + w64 (4 * ((2 ^ 32 - 1) % 2 ^ 3))) (2 ^ 50) 4 0 = .ok ps ∧
    ∀ p ∈ ps, memLoc (locate p) = true := by
  have h : (isGot (opened topped) && decide ((ctxU topped).2 = { ctxLit 0 3 with g := 2 ^ 32 - 1, p := 2 ^ 32 - 2 }) &&
      (ctxU topped).1.repMode == 0 && Memory.wf (ctxU topped).1.mem && (ctxU topped).1.core.rel.isEmpty &&
      okIs (State.vaddrs (ctxU topped).1 (ctxU topped).1.acc .rw (.lslot true) (0x40000 + w64 (4 * ((2 ^ 32 - 1) % 2 ^ 3))) (2 ^ 50) 4 0)
        [0x4001C, 0x4001D, 0x4001E, 0x4001F]) = true := by decide +kernel
  simp only [Bool.and_eq_true, decide_eq_true_eq, List.isEmpty_iff] at h
  obtain ⟨⟨⟨⟨⟨h1, h2⟩, h3⟩, h4⟩, h5⟩, h6⟩ := h
  exact ⟨_, _, h2 ▸ opened_eq _ h1, noReplay_of h3, h4, h5, rfl, by decide, okIs_eq h6, by decide +kernel⟩

theorem witness_StreamTruncation :
    (∃ u, opened (stream 0 3 1) = .ok (u, ctxLit 0 3) ∧ u.NoReplay ∧ u.Inv ∧ u.core.rel = [] ∧ u.CanTrap) ∧ ((stream 0 3 1).once 0).done = false ∧
    ((cutRule (ctxLit 0 3) 4).2.2.2.2 = none ∧ (cutRule (ctxLit 0 3) 5).2.2.2.2 = none ∧
      (cutRule (ctxLit 0 3) 1).2.2.2.2 = some 0x0B ∧ (cutRule (ctxLit 0 3) 2).2.2.2.2 = some 0x0C) ∧
    (ctxLit 0 3).head = (ctxLit 0 3).tail ∧ (ctxLit 1 3).head ≠ (ctxLit 1 3).tail ∧
    (∃ u v, opened (stream 1 3 0x0E000001) = .ok (u, ctxLit 1 3) ∧ u.NoReplay ∧ u.Inv ∧ u.core.rel = [] ∧ u.CanTrap ∧
      u.nextFrame (ctxLit 1 3) = .ok (v, some 0x0E000001)) ∧
    (frameRule (ctxLit 1 3) 0x0E000001).2.2.2.2.2.2 = none ∧ (frameRule (ctxLit 1 3) 0x06000001).2.2.2.2.2.2 = some 0x0B ∧
    (frameRule (ctxLit 1 3) 0x0B000001).2.2.2.2.2.2 = some 0x0C := by
  have h := stream_cursors
  rw [Bool.and_eq_true] at h
  have g := stream_frame
  rw [Bool.and_eq_true, Bool.and_eq_true, beq_iff_eq] at g
  obtain ⟨h1, h2, h3, h4, h5⟩ := facts_of h.1
  obtain ⟨g1, g2, g3, g4, g5⟩ := facts_of g.1.1
  exact ⟨⟨_, h1, h2, h3, h5, h4⟩, rfl, by decide +kernel, by decide +kernel, by decide +kernel,
    ⟨_, _, g1, g2, g3, g5, g4, ok_snd _ g.1.2 g.2⟩, by decide +kernel, by decide +kernel, by decide +kernel⟩

/-- Saffron with a descriptor at 0x10000: one candidate value and id, temperature 0, K as given; for `sacc` one node, its output
and bonus tables. -/
def saffDesc (k : Nat) : Nat := 0x20000 + 0x21000 * 2 ^ 64 + 1 * 2 ^ 224 + k * 2 ^ 256
def saffState (k : Nat) : State :=
  (put (put (put saffAddrs 0x10000 (leBytes 64 (saffDesc k))) 0x20000 (leBytes 4 0x3F800000)) 0x21000 (leBytes 4 7)).loadL (.x 6)

/-- `sacc`: a root and one child that every draw accepts, and no bonus token. -/
def treeDesc : Nat := 0x20000 + 0x21000 * 2 ^ 64 + 0x22000 * 2 ^ 128 + 2 * 2 ^ 256
def treeBytes : List Byte := List.replicate 16 0 ++ leBytes 16 (9 + 0x3F800000 * 2 ^ 32 + 0x40000000 * 2 ^ 64)
def treeNodes : List SNode := (List.range 2).map fun k => SNode.of (leNat ((treeBytes.drop (16 * k)).take 16))
def tree : State := (put (put saffAddrs 0x10000 (leBytes 64 treeDesc)) 0x20010 (treeBytes.drop 16)).loadL (.x 6)
def treeWalked : Except (State × Nat × Word) (Nat × Nat × State) := tree.sWalk treeNodes 0x22000 64 0 0

theorem smpl_facts : (okIs ((saffState 1).wreadN 0x10000 (2 ^ 43) 64) (saffDesc 1) &&
    isGot ((saffState 1).sample (SDesc.of (saffDesc 1)))) = true := by decide +kernel
theorem smpl_long : okIs ((saffState 65).wreadN 0x10000 (2 ^ 43) 64) (saffDesc 65) = true := by decide +kernel

theorem sacc_facts : (okIs (tree.wreadN 0x10000 (2 ^ 43) 64) treeDesc && okIs (tree.wread 0x20000 (2 ^ 39) 32 0) treeBytes &&
    isGot treeWalked && (got treeWalked (0, 0, base)).1 == 1 && (got treeWalked (0, 0, base)).2.1 == 1 &&
    okIs ((got treeWalked (0, 0, base)).2.2.wreadN (0x21000 + w64 8) (2 ^ 38) 8) 0) = true := by decide +kernel

theorem witness_SaffronInstructions :
    saff.onSaffron = true ∧ (saffAddrs.src .l (.x 6)).toNat % 64 = 0 ∧
    ((saffState 1).wreadN 0x10000 (2 ^ 43) 64 = .ok (saffDesc 1) ∧ ∃ r, (saffState 1).sample (SDesc.of (saffDesc 1)) = .ok r) ∧
    ((saffState 65).wreadN 0x10000 (2 ^ 43) 64 = .ok (saffDesc 65) ∧ 64 < natBits (saffDesc 65) 263 256) ∧
    (tree.wreadN 0x10000 (2 ^ 43) 64 = .ok treeDesc ∧ natBits treeDesc 263 256 = 2 ∧ natBits treeDesc 511 264 = 0 ∧
      tree.sGram (w64 (natBits treeDesc 255 192)) = .ok false ∧ tree.wread 0x20000 (2 ^ 39) (16 * 2) 0 = .ok treeBytes ∧
      (∀ x ∈ treeNodes, x.rsv = 0) ∧ (∀ k x, 1 ≤ k → treeNodes[k]? = some x → x.par < k) ∧
      ∃ u v, treeWalked = .ok (1, 1, u) ∧ u.wreadN (0x21000 + w64 (8 * 1)) (2 ^ 38) 8 = .ok 0 ∧
        u.sBonus (w64 0) false = .ok (3, none, v)) ∧
    base.CanTrap := by
  have h := smpl_facts
  have g := sacc_facts
  simp only [Bool.and_eq_true, beq_iff_eq] at h g
  obtain ⟨⟨⟨⟨⟨g1, g2⟩, g3⟩, g4⟩, g5⟩, g6⟩ := g
  refine ⟨rfl, by decide +kernel, ⟨okIs_eq h.1, _, got_eq (0, base) h.2⟩, ⟨okIs_eq smpl_long, by decide +kernel⟩,
    ⟨okIs_eq g1, by decide +kernel, by decide +kernel, okIs_eq (by decide +kernel), okIs_eq g2, by decide +kernel, ?_, _, _,
      ok_third _ g3 g4 g5, okIs_eq g6, rfl⟩, base_traps⟩
  intro k x hk hx
  have h1 : (treeNodes[1]?.map (·.par)) = some 0 := by decide +kernel
  have hl : treeNodes.length = 2 := by decide +kernel
  have hb := (List.getElem?_eq_some_iff.1 hx).1
  have : k = 1 := by omega
  subst this
  rw [hx] at h1
  simp only [Option.map_some, Option.some.injEq] at h1
  omega


/-! ### Groups -/

/-- Group 1, with NMEM members bound to this device's die 0 and the home given; QUORUM, LATE and STRICT as given. -/
def grouped (s : State) (home nmem quorum late : Nat) (strict : Bool) : State :=
  let s := { s with dreg := assocSet s.dreg offGRPBASE 0x100000 }
  let s := put64 (put64 s 0x100040 (2 ^ 63 + (if strict then 0 else 2 ^ 62) + home)) 0x100048 (nmem + quorum * 2 ^ 32)
  let s := put64 (put64 s 0x100050 late) 0x100060 0x110000
  (List.range nmem).foldl (fun s m => put64 s (0x110000 + 16 * m) (2 ^ 63 + m * 2 ^ 15)) s

/-- A task with number 0 that is member 0 of group 1 by MEMB0 and has no other membership, running. -/
def memberDesc : BitVec 512 := 0x8001 <<< 400
def taskOf (d : BitVec 512) : Task := { base.newTask 0 0 d none true with state := .running }
def running (s : State) (k : Task) : State := { s with core := { s.core with task := some k.id }, tasks := [k] }
def member : State := running (grouped (inSlot base .y) 0 2 1 10 false) (taskOf memberDesc)

/-! ### The statements' hypotheses are met: Y slot -/

def flagged (s : State) (f : Fin 32) (v : BitVec 16) : State := { s with core := { s.core with flags := s.core.flags.set f v } }

theorem witness_WaitsAndPosts :
    (threshold (flagged base 31 0xFFFF) (.long 0xFFFF) ≤ ((flagged base 31 0xFFFF).core.flag 31).toNat) ∧
    ((flagged base 31 0xFFFE).core.flag 31).toNat < threshold (flagged base 31 0xFFFE) (.long 0xFFFF) ∧
    ((postOp base (.post 31 (.short 1023) true)).isSome = true ∧ base.onSaffron = false ∧ base.core.whb.length < 256) ∧
    (postOp (setX base 6 1023) (.postr 3 (.x 6) none false) = none ∧ (setX base 6 1023).CanTrap) ∧
    (postOp (setX base 6 976) (.postr 3 (.x 6) none false)).isSome = true := by
  refine ⟨by decide +kernel, by decide +kernel, ⟨by decide +kernel, rfl, by decide +kernel⟩,
    ⟨by decide +kernel, canTrap_of (by decide +kernel)⟩, by decide +kernel⟩

def released (l : List Released) : State := { base with core := { base.core with rel := l } }
def aPost : Post := { key := 5, flag := 31, amt := 65535, set := false }
def bPost : Post := { key := 5, flag := 30, amt := 4, set := true }

theorem witness_ReleasedEntriesReachHome :
    ((released [.store 0x10000 [1, 2] base.acc]).core.rel[0]? = some (.store 0x10000 [1, 2] base.acc) ∧
      relFree (released [.store 0x10000 [1, 2] base.acc]).core.rel 0 = true ∧ memLoc (locate 0x10000) = true ∧
      (released [.store 0x10000 [1, 2] base.acc]).Inv) ∧
    ((released [.post bPost base.acc, .post aPost base.acc]).core.rel[1]? = some (.post aPost base.acc) ∧ aPost.flag < 32 ∧
      relFree (released [.post bPost base.acc, .post aPost base.acc]).core.rel 1 = true ∧
      ∀ e ∈ (released [.post bPost base.acc, .post aPost base.acc]).core.rel.take 1, ∃ q b, e = .post q b) := by
  refine ⟨⟨rfl, by decide +kernel, by decide +kernel, inv_of (by decide +kernel)⟩, rfl, by decide, by decide +kernel, ?_⟩
  intro e he
  have : e = .post bPost base.acc := by simpa [released] using he
  exact ⟨_, _, this⟩

/-- Barrier 63 of die 0: phase 0xFFFF, arrivals, expected; context 0. -/
def barrier (arr exp : Nat) (ctx : Nat) : State :=
  { base with dreg := assocSet base.dreg (offBAR 63) (w64 (ctx * 2 ^ 48 + 0xFFFF * 2 ^ 32 + arr * 2 ^ 16 + exp)) }
def yielded : State := { base with core := { base.core with once := base.core.once.set 1 { done := true } } }

theorem witness_BarriersAndYield :
    ((barrier 1 2 0).NoReplay ∧ (barrier 1 2 0).core.rel = [] ∧ (barrier 1 2 0).onSaffron = false ∧
      ((barrier 1 2 0).once 1).done = false ∧ natBits ((barrier 1 2 0).dget 0 (offBAR 63)).toNat 63 48 = (barrier 1 2 0).core.ctx ∧
      natBits ((barrier 1 2 0).dget 0 (offBAR 63)).toNat 31 16 + 1 = natBits ((barrier 1 2 0).dget 0 (offBAR 63)).toNat 15 0) ∧
    (natBits ((barrier 0 2 0).dget 0 (offBAR 63)).toNat 63 48 = (barrier 0 2 0).core.ctx ∧
      natBits ((barrier 0 2 0).dget 0 (offBAR 63)).toNat 31 16 < natBits ((barrier 0 2 0).dget 0 (offBAR 63)).toNat 15 0) ∧
    ((barrier 0 2 1).CanTrap ∧ ((barrier 0 2 1).once 1).done = false ∧
      natBits ((barrier 0 2 1).dget 0 (offBAR 63)).toNat 63 48 ≠ (barrier 0 2 1).core.ctx) ∧
    ((barrier 0 0 0).CanTrap ∧ natBits ((barrier 0 0 0).dget 0 (offBAR 63)).toNat 15 0 = 0) ∧
    (yielded.NoReplay ∧ yielded.onSaffron = false ∧ (yielded.once 1).done = true ∧ (base.once 1).done = false ∧
      ¬((yielded.once 1).val.toNat = natBits (yielded.dget 0 (offBAR 63)).toNat 47 32 ∧
        natBits (yielded.dget 0 (offBAR 63)).toNat 31 16 ≠ 0)) := by
  refine ⟨⟨noReplay_of (by decide +kernel), rfl, rfl, rfl, by decide +kernel, by decide +kernel⟩,
    by decide +kernel, ⟨canTrap_of (by decide +kernel), rfl, by decide +kernel⟩,
    ⟨canTrap_of (by decide +kernel), by decide +kernel⟩, noReplay_of (by decide +kernel), rfl, by decide +kernel, rfl, by decide +kernel⟩

/-- The same task where group 1 has no entry. -/
def memberless : State := running (inSlot base .y) (taskOf memberDesc)

theorem witness_AgreementInstructions :
    ((agreeOp (.agreep { cmb := .sum, pr := some 6, mb := 0, tc := 3, v := .x 7, site := 0xFFFFFFFF } true)).isSome = true ∧
      member.NoReplay ∧ member.onSaffron = false ∧ (member.once 1).done = false ∧ member.membership 0 = some (1, 0) ∧
      member.gValid 1 = true ∧ member.homeShut 1 = false ∧ member.homeAbsent 1 = false) ∧
    member.membership 1 = none ∧ member.curTask.isSome = true ∧
    (memberless.membership 0 = some (1, 0) ∧ memberless.gValid 1 = false) := by
  refine ⟨⟨rfl, noReplay_of (by decide +kernel), rfl, rfl, by decide +kernel, by decide +kernel, by decide +kernel, by decide +kernel⟩,
    by decide +kernel, by decide +kernel, by decide +kernel, by decide +kernel⟩

theorem witness_AgreementsOutsideTheTask :
    ((agreeOp (.agree { cmb := .sum, pr := some 14, mb := 1, tc := 3, v := .sq, site := 0 })).isSome = true ∧
      member.NoReplay ∧ member.onSaffron = false ∧ (member.once 1).done = false ∧ member.membership 1 = none) ∧
    ((agreeOp (.agreeT { cmb := .sum, pr := none, mb := 3, tc := 3, v := .sq, site := 0 })).isSome = true ∧
      (inSlot base .y).NoReplay ∧ (inSlot base .y).onSaffron = false ∧ ((inSlot base .y).once 1).done = false ∧
      (inSlot base .y).membership 3 = none ∧ (inSlot base .y).CanTrap) := by
  refine ⟨⟨rfl, noReplay_of (by decide +kernel), rfl, rfl, by decide +kernel⟩, rfl, noReplay_of (by decide +kernel), rfl, rfl,
    by decide +kernel, canTrap_of (by decide +kernel)⟩

/-! ### The statements' hypotheses are met: V slots -/

def vargs (ty : VTy) (b c : Fin 512) : VArgs := { ty := ty, mask := 16, d := 511, a := .row 1, b := .idx b, c := c }

theorem witness_VectorArithmetic : (arithOp base (.vfma (vargs .s16 2 3))).isSome = true ∧ base.fmOk (vargs .s16 2 3).ty = true ∧
    (arithOp base (.vadd (vargs (.fm 7) 2 0))).isSome = true ∧ base.fmOk (.fm 7) = false ∧ base.CanTrap := by
  refine ⟨rfl, by decide +kernel, rfl, by decide +kernel, base_traps⟩

theorem witness_VectorBitsAndCompares : (bitsOp base (.vsel (vargs .a80 2 3))).isSome = true ∧ base.fmOk .a80 = true ∧
    (compareOp (.vcle (vargs .f16 2 0))).isSome = true ∧ base.fmOk (.fm 3) = true := by
  refine ⟨rfl, by decide +kernel, rfl, by decide +kernel⟩

theorem witness_InvalidFormatsTrap :
    (typedOp (.vrot (vargs (.fm 7) 2 3))).isSome = true ∧ base.fmOk (.fm 7) = false ∧
    vcvtSrc (vargs .f32 0 63).c.val = some (.fm 7) ∧
    base.fmOk (.fm ⟨(vargs .f32 31 0).b.val / 4 % 8, by decide⟩) = false ∧ base.CanTrap := by
  refine ⟨rfl, by decide +kernel, by decide, by decide +kernel, base_traps⟩

theorem witness_VectorConversions :
    (vcvtSrc (vargs .s8 1 0x20).c.val = some .s16 ∧ base.fmOk .s8 = true ∧ base.fmOk .s16 = true) ∧
    ((vargs (.fm 3) 5 9).ty = .fm 3 ∧ base.fmOk (.fm 3) = true) ∧
    ((vargs .f16 3 9).ty.ffmt.isSome = true ∧ base.fmOk (.fm ⟨3 / 4 % 8, by decide⟩) = true) ∧
    (specialOp (.vsigm (vargs .bf16 0 0))).isSome = true ∧ (vargs .bf16 0 0).ty.ffmt.isSome = true := by
  refine ⟨⟨by decide, by decide +kernel, by decide +kernel⟩, ⟨rfl, by decide +kernel⟩, ⟨by decide, by decide +kernel⟩, rfl, by decide⟩

theorem witness_VectorReductions :
    ((reduceOp base (.vargmax (vargs .f32 0 0))).isSome = true ∧ base.fmOk .f32 = true) ∧
    ((vargs .s64 0 0).ty.ffmt = none ∧ base.fmOk .s64 = true) ∧
    ((vargs .bf16 0 0).ty.ffmt.isSome = true ∧ base.fmOk .bf16 = true) ∧
    (base.amount { vargs .f32 0 9 with b := .scal .sq } = 0 ∧ (vargs .f32 64 9).b = .idx 64) := by
  refine ⟨⟨rfl, by decide +kernel⟩, ⟨by decide, by decide +kernel⟩, ⟨by decide, by decide +kernel⟩, by decide +kernel, rfl⟩

theorem witness_VectorRowsAndScalars :
    (base.fmOk .n8 = true ∧ ({ vargs .n8 0 0 with a := .row 59 } : VArgs).a = .row 59 ∧ (Src.ofCode 59).isSome = true) ∧
    (0 < 80 ∧ (∀ p ∈ [(127, 2 ^ 80 - 1), (0, 0)], p.2 < 2 ^ 80 ∧ 80 * (p.1 + 1) ≤ 10240) ∧
      (([(127, 2 ^ 80 - 1), (0, 0)] : List (Nat × Nat)).map (·.1)).Nodup) := by
  refine ⟨⟨by decide +kernel, rfl, by decide⟩, by decide, by decide, by decide⟩


/-! ### The statements' hypotheses are met: engines -/

/-- The shadow registers of a start of 2 rows, 10 columns and K = 16. -/
def hset (mcoop asrc mout : Nat) : Vector Word 14 :=
  #v[w64 (asrc * 2 ^ 62 + 0x1000), 0x00200000, 0x00010002, w64 mout, 16, 0, 0, 0, 0, 0, 0, 0, 1, w64 mcoop]
def hearth (s : State) (g : Vector Word 14) : State := { s with core := { s.core with live := { s.core.live with hs := g } } }
def mOk : State := hearth (inSlot base .m) (hset 0 0 10)
/-- No column. -/
def mNone : State := hearth (inSlot base .m) (hset 0 0 0)
/-- A rendezvous that has completed, of cores 0 and 1: COOP, MASK 3, ID 1, JTO 1. -/
def mcoop : Nat := 2 ^ 63 + 3 * 2 ^ 48 + 2 ^ 40 + 2 ^ 32
def mJoin : State := hearth (inSlot base .m) (hset mcoop 0 10)
def joinOf (g : Vector Word 14) (tick : Nat) (go : Bool) : Join :=
  { tick := tick, op := 0x10, img := g, fa := 0x00013214, fb := 0x00013214, banks := 1, go := go }
def joined (s : State) (j : Join) : State := { s with core := { s.core with joinAt := some j } }

theorem witness_HearthStarts :
    (hearthStart (.mgoBf16 (some (1, .x 5))) = some (0x08, some (1, .x 5)) ∧ mOk.core.iss.again = false ∧
      hCheck 8 (startSet mOk (some (1, .x 5))) (startFmt mOk (startSet mOk (some (1, .x 5))) 0)
        (startFmt mOk (startSet mOk (some (1, .x 5))) 4) (mOk.here % 128 % 8) = some 1 ∧ mOk.CanTrap) ∧
    (hearthStart (.mjoinBf16 none) = some (0x10, none) ∧ mOk.core.joinAt = none ∧
      hCheck 0x10 (startSet mOk none) (startFmt mOk (startSet mOk none) 0)
        (startFmt mOk (startSet mOk none) 4) (mOk.here % 128 % 8) = some 5) ∧
    (hCheck 8 (startSet mOk none) (startFmt mOk (startSet mOk none) 0) (startFmt mOk (startSet mOk none) 4)
        (mOk.here % 128 % 8) = none ∧
      (State.mSet (leaveJoin mOk 8) 8 none).mPages 8 = .ok [] ∧ hM (startSet mOk none) ≠ 0 ∧ hN (startSet mOk none) ≠ 0) ∧
    (hCheck 8 (startSet mNone none) (startFmt mNone (startSet mNone none) 0) (startFmt mNone (startSet mNone none) 4)
        (mNone.here % 128 % 8) = none ∧ (State.mSet (leaveJoin mNone 8) 8 none).mPages 8 = .ok [] ∧
      hN (startSet mNone none) = 0 ∧ hShared 8 (hEff 8 (startSet mNone none)) = false) ∧
    (hCheck 0x18 (startSet mOk none) (startFmt mOk (startSet mOk none) 0) (startFmt mOk (startSet mOk none) 4)
        (mOk.here % 128 % 8) = none ∧ (State.mSet (leaveJoin mOk 0x18) 0x18 none).mPages 0x18 = .ok []) ∧
    (hCheck 0x10 (startSet mJoin none) (startFmt mJoin (startSet mJoin none) 0)
        (startFmt mJoin (startSet mJoin none) 4) (mJoin.here % 128 % 8) = none ∧ mJoin.core.joinAt = none ∧
      (joined mJoin (joinOf mJoin.core.live.hs 0 true)).core.joinAt = some (joinOf mJoin.core.live.hs 0 true) ∧
      (State.mSet (leaveJoin (joined mJoin (joinOf mJoin.core.live.hs 0 true)) 0x10) 0x10 none).mPages 0x10 = .ok []) := by
  refine ⟨⟨rfl, rfl, by decide +kernel, canTrap_of (by decide +kernel)⟩, ⟨rfl, rfl, by decide +kernel⟩,
    ⟨by decide +kernel, okIs_eq (by decide +kernel), by decide +kernel, by decide +kernel⟩,
    ⟨by decide +kernel, okIs_eq (by decide +kernel), by decide +kernel, by decide +kernel⟩,
    ⟨by decide +kernel, okIs_eq (by decide +kernel)⟩, by decide +kernel, rfl, rfl, okIs_eq (by decide +kernel)⟩

def hop (op : Nat) (latch : Option Nat) : HOp :=
  { seq := 0, pcb := 0, op := op, img := hset 0 0 10, fa := 0, fb := 0, banks := 1, acc := base.acc, hseq := 0, acq := 0,
    issued := 0, due := 24, latch := latch, pages := [], fwd := [], blk := 0, bfloor := [] }
def inFlight (o : HOp) : State := { base with core := { base.core with hops := [o] } }

/-- An operation of an image, and what its landing asks of it, as a test. -/
def hopOf (op : Nat) (g : Vector Word 14) : HOp := { hop op none with img := g }
def landsB (o : HOp) : Bool :=
  let g := hEff o.op o.img
  o.latch.isNone && ((decide (8 ≤ o.op) && decide (o.op ≤ 13)) || (decide (0x10 ≤ o.op) && decide (o.op ≤ 0x15)) || o.op == 0x18) &&
  decide (hM g ≤ 256) && decide (hN g ≤ (if hPair g = true then 256 else 128)) && (!hPair g || !(vget g 8).getLsbD 16) &&
  o.acc.key == base.here
theorem all_home (o : HOp) (h : o.fwd = [] ∧ o.got = []) : AllHome (inFlight o) o :=
  ⟨rfl, rfl, rfl, rfl, h.1, h.2, (by decide : 0 < 1024), (by decide : 0 % 128 < 72)⟩
/-- B shared, from the byte 64 of the scratchpad; A shared. -/
def sharedB : HOp := hopOf 0x10 (hset (mcoop + 64) 0 10)
def sharedA : HOp := hopOf 0x10 (hset (mcoop + 2 ^ 62 + 64) 0 10)
/-- 250 columns in both banks; both operands sparse; the latched tile. -/
def paired : HOp := hopOf 8 (((hset 0 0 10).set 3 250).set 10 2)
def sparse : HOp := hopOf 13 ((hset 0 0 10).set 10 0x30)
def latched : HOp := hopOf 0x18 (hset 0 0 10)

theorem witness_HearthLanding :
    ((inFlight (hop 5 (some 0x17FFFC0))).core.hops = [hop 5 (some 0x17FFFC0)] ∧ (hop 5 (some 0x17FFFC0)).acc.key = base.here ∧
      (hop 5 (some 0x17FFFC0)).blk = 0 ∧ AllHome (inFlight (hop 5 (some 0x17FFFC0))) (hop 5 (some 0x17FFFC0))) ∧
    (∀ o ∈ [hop 13 none, sharedA, sharedB, paired, sparse, latched],
      (inFlight o).core.hops = [o] ∧ landsB o = true ∧ hM (hEff o.op o.img) ≠ 0 ∧ hN (hEff o.op o.img) ≠ 0) ∧
    sharesA sharedA = true ∧ hN (hEff paired.op paired.img) = 250 ∧
    (sharesB sharedB = true ∧ hN (hEff sharedB.op sharedB.img) ≠ 0 ∧ sharedB.blk = 0 ∧ AllHome (inFlight sharedB) sharedB ∧
      let g := hEff sharedB.op sharedB.img
      let rows := if hBT g = true then hN g else hK g
      let len := (hWidth (hType sharedB.op) sharedB.fb * (if hBT g = true then hK g else hN g) + 7) / 8
      hBOFF g + (64 * hPITCH g * (rows - 1) + len) ≤ 2097152) := by
  refine ⟨⟨rfl, rfl, rfl, all_home _ ⟨rfl, rfl⟩⟩, ?_, by decide +kernel, by decide +kernel, by decide +kernel, by decide +kernel, rfl,
    all_home _ ⟨rfl, rfl⟩, by decide +kernel⟩
  intro o ho
  refine ⟨rfl, ?_⟩
  revert o
  decide +kernel

theorem witness_EngineRegisters :
    (inSlot base .c1).core.whb.length < 256 ∧
    (((inSlot (setX base 6 976) .c1).src .c1 (.x 6)).toNat < 1024 ∧ ((inSlot (setX base 6 976) .c1).src .c1 (.x 6)).toNat % 128 ≤ 80) ∧
    (State.CanTrap (inSlot (setX base 6 1024) .c0) ∧ 1024 ≤ ((inSlot (setX base 6 1024) .c0).src .c0 (.x 6)).toNat) ∧
    (State.CanTrap (inSlot (setX base 6 81) .c0) ∧ 80 < ((inSlot (setX base 6 81) .c0).src .c0 (.x 6)).toNat % 128) := by
  refine ⟨by decide +kernel, by decide +kernel, ⟨canTrap_of (by decide +kernel), by decide +kernel⟩,
    canTrap_of (by decide +kernel), by decide +kernel⟩

/-! ### The statements' hypotheses are met: copies -/

/-- The registers of a copy of n bytes of one row between kinds, with a landing post to flag 31 of core 0. -/
def cset (src dst n land : Nat) : Vector Word 9 :=
  #v[w64 src, w64 dst, w64 (n * 2 ^ 16), 0, 0, w64 (land * 2 ^ 31 + 5 * 32 + 31), BitVec.allOnes 64, 0, 0]
def copying (g : Vector Word 9) : State :=
  let s := inSlot base .c1
  { s with core := { s.core with live := { s.core.live with cs := #v[g, g] } } }
def full (s : State) (n : Nat) : State := { s with core := { s.core with whb := .replicate n (.cdis 0 0) } }

theorem witness_CopyStarts :
    (copyStart (.cgo 7 none) = some { op := .go, tok := 7 } ∧ (copying (cset 0 64 8 0)).core.iss.again = false) ∧
    (copyStart (.carm 0 31 0xFFFF) = some { op := .arm, tok := 0, flag := 31, thr := 0xFFFF } ∧
      cRefused .arm 0 (copySet (copying (cset 0 64 8 0)) { op := .arm, tok := 0, flag := 31, thr := 0xFFFF }) = true ∧
      (copying (cset 0 64 8 0)).CanTrap) ∧
    (cRefused .arm 7 (copySet (copying (cset 0 64 8 1)) { op := .arm, tok := 7 }) = false ∧
      256 < (full (copying (cset 0 64 8 1)) 255).core.whb.length +
        (startEntries (copying (cset 0 64 8 1)) { op := .arm, tok := 7 }).length ∧
      (full (copying (cset 0 64 8 1)) 255).CanTrap) ∧
    (full (copying (cset 0 64 8 1)) 254).core.whb.length +
        (startEntries (copying (cset 0 64 8 1)) { op := .arm, tok := 7 }).length ≤ 256 := by
  refine ⟨⟨rfl, rfl⟩, ⟨rfl, by decide +kernel, canTrap_of (by decide +kernel)⟩,
    ⟨by decide +kernel, by decide +kernel, canTrap_of (by decide +kernel)⟩, by decide +kernel⟩

def aCopy (op : CopyOp) (g : Vector Word 9) (st : CopyState) : Copy :=
  { id := 5, slot := 1, op := op, state := st, img := g, pat := 0, tok := some 7, code := 7, pcb := 0, acc := base.acc, task := 0,
    banks := 1, flag := 0, thr := 0, hit := false, ord := 5, row0 := 0, early := none, hseq := 0, acq := 0, fwd := [],
    sinceCk := true, disc := false, status := 0, faddr := 0, tokDone := false, wrote := [], land := none }
def withCopy (x : Copy) : State := { base with core := { base.core with copies := [x] } }
/-- The last eight bytes of the scratchpad. -/
def lastCopy : Copy := aCopy .go (cset 25165816 0 8 0) .running

theorem owns (x : Copy) (h : x.tok = some 7 ∧ x.disc = false ∧ x.task = 0 ∧ x.sinceCk = true) : OwnsCopy (withCopy x) x 7 := by
  obtain ⟨h1, h2, h3, h4⟩ := h
  refine ⟨by simp [withCopy], h1, h2, rfl, rfl, h3 ▸ rfl, h4, ?_, ?_, ?_, rfl⟩
  · intro y hy; simp [withCopy] at hy; simp [hy]
  · intro y hy; simp [withCopy] at hy; simp [hy]
  · intro k hk hn; simp [State.keys, withCopy, base, State.reset] at hk hn; omega

/-- A copy of two rows of 4 bytes, with an index list or metadata at 2000 of the scratchpad. -/
def rowsCopy (op : CopyOp) (src dst mode : Nat) : Copy :=
  aCopy op #v[w64 src, w64 dst, w64 (4 * 2 ^ 16 + 1), w64 (16 * 2 ^ 32 + 8), 2000, 0, BitVec.allOnes 64, w64 mode, 0] .running
theorem unseen (op : CopyOp) (src dst mode : Nat) (h : cRefused op 1 (rowsCopy op src dst mode).img = false) :
    Unseen (withCopy (rowsCopy op src dst mode)) (rowsCopy op src dst mode) :=
  ⟨⟨rfl, rfl, rfl⟩, ⟨rfl, rfl, rfl, rfl⟩, h, rfl, ⟨rfl, (by decide : 0 < 1024), (by decide : 0 % 128 < 72)⟩, rfl, rfl, rfl, rfl⟩

theorem on_die (op : CopyOp) (src dst mode er n : Nat) (k : AKind) (r b d : Nat) (hd : d = 0)
    (hl : LowMap (withCopy (rowsCopy op src dst mode)) base.acc) (hb : b + n < 2 ^ 30)
    (ha : cBase (rowsCopy op src dst mode).img er + r *
      (if er = 0 then cSStr (rowsCopy op src dst mode).img else cDStr (rowsCopy op src dst mode).img) = b) :
    OnDie (withCopy (rowsCopy op src dst mode)) (rowsCopy op src dst mode) er d r n k (List.range' b n) := by
  subst hd
  refine ⟨by rw [ha]; exact destOn_low hl (by decide +kernel : base.dieShut base.acc 0 = false) k b n 0 (by omega), ?_⟩
  intro a h
  rw [List.mem_range'_1] at h
  rw [locate_low (by omega)]; rfl

/-- Copies of two rows within the scratchpad, to die 0 by the hub, and a reduction there. -/
theorem witness_CopiesMove :
    (∀ op ∈ [CopyOp.go, .pfd, .arm, .fill, .gath, .scat, .dx, .kvc],
      (withCopy (rowsCopy op 25165820 0 0)).copyOf 5 = some (rowsCopy op 25165820 0 0) ∧
      OwnsCopy (withCopy (rowsCopy op 25165820 0 0)) (rowsCopy op 25165820 0 0) 7 ∧ (withCopy (rowsCopy op 25165820 0 0)).Inv ∧
      PadCopy (withCopy (rowsCopy op 25165820 0 0)) (rowsCopy op 25165820 0 0)) ∧
    (let x := rowsCopy .bcast 0 (2 ^ 62 + 0x10000) (2 ^ 56);
      OwnsCopy (withCopy x) x 7 ∧ Unseen (withCopy x) x ∧ cKind x.img 0 = 0 ∧
      ∀ j ∈ List.range (cRows x.img), ∀ d ∈ (List.range 8).filter (fun d => (natBits x.img[7].toNat 63 56).testBit d),
        OnDie (withCopy x) x 1 d j (cLen x.img) .wr (List.range' (0x10000 + 16 * j) 4)) ∧
    (let x := rowsCopy .mred (2 ^ 62 + 0x20000) (2 ^ 62 + 0x10000) (2 ^ 56 + 2 ^ 16);
      OwnsCopy (withCopy x) x 7 ∧ Unseen (withCopy x) x ∧
      ∀ j ∈ List.range (cRows x.img), ∀ d ∈ (List.range 8).filter (fun d => (natBits x.img[7].toNat 63 56).testBit d),
        OnDie (withCopy x) x 0 d j (cLen x.img) .rd (List.range' (0x20000 + 8 * j) 4) ∧
        OnDie (withCopy x) x 1 d j (4 / 2 * 4) .wr (List.range' (0x10000 + 16 * j) 8)) := by
  have low : ∀ x : Copy, lowB (withCopy x) base.acc 0 = true := by intro x; exact (by decide +kernel : lowB base base.acc 0 = true)
  have two : ∀ j, j ∈ List.range 2 → j = 0 ∨ j = 1 := by intro j; simp; omega
  have one : ∀ d, d ∈ (List.range 8).filter (fun d => Nat.testBit 1 d) → d = 0 := by decide
  refine ⟨?_, ⟨owns _ ⟨rfl, rfl, rfl, rfl⟩, unseen _ _ _ _ (by decide +kernel), by decide +kernel, ?_⟩,
    owns _ ⟨rfl, rfl, rfl, rfl⟩, unseen _ _ _ _ (by decide +kernel), ?_⟩
  · intro op ho
    refine ⟨rfl, owns _ ⟨rfl, rfl, rfl, rfl⟩, inv_of (by decide +kernel : Memory.wf base.mem = true), unseen _ _ _ _ ?_, ho, ?_, ?_, ?_⟩
    · revert op; decide +kernel
    · intro _; exact (by decide +kernel : cKind (rowsCopy .go 25165820 0 0).img 0 = 0)
    · exact (by decide +kernel : cKind (rowsCopy .go 25165820 0 0).img 1 = 0)
    · intro _; exact (by decide +kernel : cKind (rowsCopy .go 25165820 0 0).img 4 = 0)
  · intro j hj d hd
    exact on_die _ _ _ _ 1 4 .wr j (0x10000 + 16 * j) d (one d hd) (low_of (low _)).1 (by rcases two j hj with h | h <;> subst h <;> decide)
      (by rcases two j hj with h | h <;> subst h <;> decide +kernel)
  · intro j hj d hd
    exact ⟨on_die _ _ _ _ 0 4 .rd j (0x20000 + 8 * j) d (one d hd) (low_of (low _)).1 (by rcases two j hj with h | h <;> subst h <;> decide)
        (by rcases two j hj with h | h <;> subst h <;> decide +kernel),
      on_die _ _ _ _ 1 8 .wr j (0x10000 + 16 * j) d (one d hd) (low_of (low _)).1 (by rcases two j hj with h | h <;> subst h <;> decide)
        (by rcases two j hj with h | h <;> subst h <;> decide +kernel)⟩

theorem witness_CopiesComplete :
    ((withCopy lastCopy).copyOf lastCopy.id = some lastCopy ∧ OwnsCopy (withCopy lastCopy) lastCopy 7 ∧
      PlainCopy (withCopy lastCopy) lastCopy 25165816 0 8 ∧ (withCopy lastCopy).Inv) ∧
    (OwnsCopy (withCopy { lastCopy with early := some (-5) }) { lastCopy with early := some (-5) } 7 ∧
      lastCopy.state = .running ∧ lastCopy.op ≠ .mred ∧ lastCopy.op ≠ .net ∧ lastCopy.op ≠ .bgo) := by
  refine ⟨⟨rfl, owns _ ⟨rfl, rfl, rfl, rfl⟩, ⟨rfl, rfl, rfl, ⟨rfl, rfl, rfl⟩, rfl, by decide +kernel, ?_, ?_, ?_, ?_, rfl, ?_,
    ⟨rfl, rfl, rfl, rfl⟩⟩, inv_of (by decide +kernel)⟩, owns _ ⟨rfl, rfl, rfl, rfl⟩, rfl, ?_, ?_, ?_⟩ <;> decide +kernel

def netCopy : Copy := aCopy .net (cset 0 0 8 0) .running
def landed : Copy := { aCopy .go (cset 0 64 8 1) .ended with tokDone := true, land := some true }
def aCpost (amt : Nat) : CPost :=
  { id := 5, slot := 1, pcb := 0, post := { key := 0, flag := 31, amt := amt, set := false }, acc := base.acc, released := true,
    after := [5] }
def withCpost : State :=
  { base with core := { base.core with cposts := [aCpost 5], copies := [{ landed with id := 5 }] } }
/-- Both Chimneys of die 0 are up. -/
def linked (x : Copy) : State := { withCopy x with links := 3 }
def armed : Copy := { aCopy .arm (cset 0 64 8 0) .armed with hit := true }

theorem owns_more {x : Copy} (h : OwnsCopy (withCopy x) x 7) : OwnsCopy (linked x) x 7 := h

theorem witness_CopyEvents :
    ((withCopy netCopy).copyOf netCopy.id = some netCopy ∧ OwnsCopy (withCopy netCopy) netCopy 7 ∧
      (withCopy netCopy).cnetRows netCopy (cRows netCopy.img) 0 = .ok () ∧ (withCopy netCopy).cnetWays netCopy = []) ∧
    ((linked netCopy).copyOf netCopy.id = some netCopy ∧ OwnsCopy (linked netCopy) netCopy 7 ∧
      (linked netCopy).cnetRows netCopy (cRows netCopy.img) 0 = .ok () ∧ (linked netCopy).cnetWays netCopy ≠ []) ∧
    ((withCopy landed).copyOf landed.id = some landed ∧ landed.far = false ∧ (withCopy landed).core.rel = [] ∧
      (withCopy landed).engPostRefused landed.acc (landPost landed.img) = none) ∧
    (withCpost.core.cposts.find? (fun q => q.id == (aCpost 5).id) = some (aCpost 5) ∧
      (∀ i ∈ (aCpost 5).after, ∀ y ∈ withCpost.core.copies, y.id = i → y.tokDone = true) ∧
      withCpost.engPostRefused (aCpost 5).acc (aCpost 5).post = none ∧ withCpost.core.rel = [] ∧ (aCpost 5).post.flag < 32) ∧
    (armed.op = .arm ∧ (withCopy armed).armNext = some armed ∧ armed ∈ (withCopy armed).core.copies ∧
      (withCopy armed).armFree (withCopy armed).here armed = true) ∧
    (((withCopy { armed with hit := false }).coreOf 0).copies = [{ armed with hit := false }] ∧
      Copy.met { armed with hit := false } 0 5 = true ∧ (withCopy { armed with hit := false }).bankHeld 0 &&& armed.banks = 0) := by
  refine ⟨⟨rfl, owns _ ⟨rfl, rfl, rfl, rfl⟩, okIs_eq (by decide +kernel), by decide +kernel⟩,
    ⟨rfl, owns_more (owns _ ⟨rfl, rfl, rfl, rfl⟩), okIs_eq (by decide +kernel), by decide +kernel⟩,
    ⟨rfl, rfl, rfl, by decide +kernel⟩, ⟨rfl, ?_, by decide +kernel, rfl, by decide⟩,
    ⟨rfl, by decide +kernel, List.mem_singleton.2 rfl, by decide +kernel⟩, rfl, by decide +kernel, by decide +kernel⟩
  intro i _ y hy _
  have : y = { landed with id := 5 } := by simpa [withCpost] using hy
  subst this; rfl

/-! ### The statements' hypotheses are met: landings, traps, the scheduler -/

def aLanding (ws : List LWrite) : Landing := { seq := 0, pcb := 0x4000, slot := .v1, issued := 0, due := 4, landed := false, ws := ws }
def landing (ws : List LWrite) (en : Nat) : State :=
  { base with core := { base.core with
      land := [aLanding ws, { aLanding [.x 1 2] with issued := 4, due := 8, landed := true }]
      live := { base.core.live with fst := BitVec.ofNat 16 (en * 256) } } }

theorem witness_ResultsLand :
    ((landing [.x 55 1, .flags 0xFF] 0).core.land[0]? = some (aLanding [.x 55 1, .flags 0xFF]) ∧
      (aLanding [.x 55 1, .flags 0xFF]).landed = false ∧
      (∀ g ∈ (landing [.x 55 1, .flags 0xFF] 0).core.land, g.landed = true → g.meets (aLanding [.x 55 1, .flags 0xFF]) = false) ∧
      (∀ w ∈ (aLanding [.x 55 1, .flags 0xFF]).ws, enabledFlags (landing [.x 55 1, .flags 0xFF] 0) w = 0)) ∧
    ((aLanding [.x 55 1, .flags 1]).ws = [.x 55 1] ++ [.flags 1] ∧
      (∀ w ∈ [LWrite.x 55 1], enabledFlags (landing [.x 55 1, .flags 1] 0xFF) w = 0) ∧
      enabledFlags (landing [.x 55 1, .flags 1] 0xFF) (.flags 1) ≠ 0 ∧ (landing [.x 55 1, .flags 1] 0xFF).core.pend = none) := by
  refine ⟨⟨rfl, rfl, ?_, ?_⟩, rfl, ?_, ?_, rfl⟩ <;> decide +kernel

def aTrap : TrapInfo := { cause := 0x0E, slot := 5, pcb := 0x4000 }
def pending : State := { base with core := { base.core with pend := some aTrap } }

theorem witness_PendingTrapsAreTaken :
    (pending.core.pend = some aTrap ∧ State.CanTrap { pending with core := { pending.core with pend := none } } ∧
      aTrap.once = none ∧ aTrap.held = false ∧ aTrap.rdiv = false ∧ aTrap.slot < 16) ∧ base.CanTrap ∧ 4 % 16 ≠ 5 ∧
    (holdsData (locate 0x40000) = true ∧ memLoc (locate 0x40000) = true ∧ base.Inv) ∧
    holdsData (locate ((0xF * 2 ^ 48 + 0x800000) / 8 * 8)) = false :=
  ⟨⟨rfl, canTrap_of (by decide +kernel), rfl, rfl, rfl, by decide⟩, base_traps, by decide,
    ⟨by decide +kernel, by decide +kernel, inv_of (by decide +kernel)⟩, by decide +kernel⟩

/-- A task of context 0, AFF core 0, priority p; its spill region at 0x20000. -/
def plainDesc (p : Nat) : BitVec 512 :=
  BitVec.ofNat 512 (0x4000 * 2 ^ 64 + 0x9000 * 2 ^ 128 + 0x20000 * 2 ^ 192 + p * 2 ^ 240 + 2 ^ 264)
/-- Contexts of die 0: each enabled, with the tables of `base`, no ACCID. -/
def context (s : State) (ctx : Nat) : State :=
  let s := { s with dreg := assocSet s.dreg offCTXBASE 0x200000 }
  put64 (put64 s (0x200000 + 128 * ctx) 0x2000) (0x200008 + 128 * ctx) (2 ^ 63)
def busy : Task := { base.newTask 0 0 (plainDesc 1) none true with id := 7, state := .running }
def ready : Task := { base.newTask 0 63 (plainDesc 7) none true with id := 9, state := .ready }
/-- Task 7 runs on core 0; a cross-context request stands; ACNT is past PBOUND. -/
def crossed : State :=
  let s := context base 0
  { s with
    core := { s.core with task := some 7, pbound := 1, acnt := 2, req := some { cross := true, task := 7, tick := 0 } }
    tasks := [busy] }
def waitsFor (g m seq since : Nat) : AgWait :=
  { g := g, m := m, mb := 0, seq := seq, gqPhys := some (2, 1), trapping := false, hint := none, since := since, pcb := 0x4000,
    bseq := 0, on := true }
/-- The same task waits for an agreement past its group's YIELD, 1 tick. -/
def stalledLong : State :=
  let s := put64 (grouped (context base 0) 0 2 1 10 false) 0x100058 1
  { s with tick := 100, core := { s.core with task := some 7, agw := some (waitsFor 1 0 0 0) }, tasks := [busy] }

/-- What makes a save of `busy` at its last checkpoint possible, as a test. -/
def canSaveB (s : State) : Bool :=
  let r := s.rollback
  s.repMode == 0 && Memory.wf s.mem && decide (r.curTask = some busy) && lowB r { r.acc with priv := true } 0x20000 &&
  decide (r.probe { r.acc with priv := true } 0x20000 (spillSize s.rollback.core.livemask) = none) && decide (r.spillImage.length < 2 ^ 20)

theorem canSave_of {s : State} (h : canSaveB s = true) : ∃ ps, CanSave s busy ps := by
  simp only [canSaveB, Bool.and_eq_true, decide_eq_true_eq] at h
  obtain ⟨⟨⟨⟨⟨h2, h1⟩, h3⟩, h4⟩, hb⟩, hc⟩ := h
  obtain ⟨ps, _, hp, hm⟩ := places_low h4 .copy (2 ^ 35) s.rollback.spillImage.length hc
  have hs : busy.spill = 0x20000 := by decide +kernel
  exact ⟨ps, h1, noReplay_of h2, h3, by rw [hs]; exact hb, by rw [hs]; exact hp, hm⟩

def filling : State :=
  { base with core := { base.core with live := { base.core.live with tb := base.core.live.tb.set 7 { valid := true, filling := true } } } }

theorem witness_RollbacksAndFills :
    (base.core.phase = .run ∧ base.onSaffron = false ∧ base.NoReplay ∧ base.core.soft < 3 ∧ base.core.hops = []) ∧
    (State.CanTrap { base with core := { base.core with soft := 3 } }) ∧
    (crossed.pastBound = true ∧ ∃ ps, CanSave crossed busy ps) ∧
    (stalledLong.yieldDue = some (waitsFor 1 0 0 0) ∧ ∃ ps, CanSave stalledLong busy ps) ∧
    filling.core.live.tb[(7 : Fin 8)].filling = true := by
  refine ⟨⟨rfl, rfl, noReplay_of (by decide +kernel), by decide +kernel, rfl⟩, canTrap_of (by decide +kernel),
    ⟨by decide +kernel, canSave_of (by decide +kernel)⟩, ⟨by decide +kernel, canSave_of (by decide +kernel)⟩, by decide +kernel⟩

/-- Queue 63 of die 0 is enabled, with room for 4,096 and completion records; task 9 is its head. -/
def queued (s : State) : State := { s with dreg := assocSet s.dreg (offTQCTL 63) (w64 (2 ^ 63 + 2 ^ 62 + 4096)) }
def idleCore (s : State) : State := { s with core := { s.core with phase := .idle, task := none, semap := 0x77, iss := {} } }
def dispatchable : State :=
  let s := idleCore (queued (context base 0))
  { s with tasks := [ready] }
def ended (s : State) : State :=
  let s := { s with dreg := assocSet (assocSet s.dreg offCRBASE (w64 0x300001)) offCRPTR (w64 (2 ^ 32)) }
  { s with core := { s.core with phase := .ending, task := some 9 }, tasks := [{ ready with state := .running }] }
def endedTask : Task := { ready with state := .running }

/-- Task 9 was saved with LIVEMASK naming rows 0 and 1 and the first B-store quarter. -/
def aHeld : HeldSt :=
  { once := .replicate 2 {}, hs := hset 0 0 10, ha := hset 0 0 10, hf := .replicate 2 0, cs := .replicate 2 (.replicate 9 0),
    ca := .replicate 2 (.replicate 9 0), ftok := [], pc := 0x4010, agw := none, icnt := 3, soft := 0, poison := [], poisonB := [], ran := 1 }
def savedTask : Task := { ready with begun := true, held := some aHeld }
def resumable : State := { put64 (put64 dispatchable 0x21000 1) 0x21030 1 with tasks := [savedTask] }

theorem spill_low (n : Nat) (hn : n < 2 ^ 20) : SpillAt resumable savedTask n (fun i => 0x20000 + i) := by
  have hl := (low_of (s := resumable) (a := resumable.ctxAcc resumable.here (descCtx savedTask.desc) true) (va := 0x20000)
    (by decide +kernel)).1
  have hs : savedTask.spill = 0x20000 := by decide +kernel
  intro i hi
  have hv : (savedTask.spill + w64 i).toNat = 0x20000 + i := by
    rw [hs, w64, BitVec.toNat_add, BitVec.toNat_ofNat]
    have : (0x20000 : Word).toNat = 0x20000 := rfl
    omega
  refine ⟨_, access_low hl .rd .copy _ _ (by omega), hv, ?_⟩
  simp only [hv]
  rw [locate_low (by omega)]; rfl

/-- Task 9 as member 0 of group 1. -/
def joinedTask : Task := { ready with desc := plainDesc 7 ||| memberDesc }
def memberReady : State := { grouped dispatchable 0 2 1 10 false with tasks := [joinedTask] }

theorem witness_TasksDispatch :
    (Picks dispatchable ready ∧ ready.held = none ∧ descMembs ready.desc = []) ∧
    (Picks resumable savedTask ∧ savedTask.held = some aHeld ∧ descMembs savedTask.desc = [] ∧
      let mask := liveMask (BitVec.ofNat 512 (spillWord resumable (fun i => 0x20000 + i) 4096 64))
      (maskRows mask).length = 2 ∧ maskQuarters mask = [0] ∧ SpillAt resumable savedTask (spillSize mask) (fun i => 0x20000 + i)) ∧
    (Picks memberReady joinedTask ∧ joinedTask.held = none ∧ descMembs joinedTask.desc = [(0, 1, 0)] ∧
      EntriesApart memberReady joinedTask 1 0 ∧ memberReady.Inv) := by
  refine ⟨⟨⟨by decide +kernel, by decide +kernel, by decide +kernel, noReplay_of (by decide +kernel)⟩, rfl, by decide +kernel⟩,
    ⟨⟨by decide +kernel, by decide +kernel, by decide +kernel, noReplay_of (by decide +kernel)⟩, rfl, by decide +kernel,
      by decide +kernel, by decide +kernel, spill_low _ (by decide +kernel)⟩,
    ⟨by decide +kernel, by decide +kernel, by decide +kernel, noReplay_of (by decide +kernel)⟩, rfl, by decide +kernel,
    by unfold EntriesApart; decide +kernel, inv_of (by decide +kernel)⟩

/-- The member's task has ended: on the home's device, and on device 5. -/
def memberEnded (dev : Nat) : State :=
  let s := grouped (context base 0) 0 2 1 10 false
  { s with device := dev
           core := { s.core with phase := .ending, task := some 9 }, tasks := [{ joinedTask with state := .running }] }

theorem witness_TasksRetire :
    (CanRetire (ended base) endedTask ∧ NoRecord (ended base) endedTask) ∧
    (CanRetireAs (memberEnded 0) { joinedTask with state := .running } [(0, 1, 0)] none ∧
      NoRecord (memberEnded 0) { joinedTask with state := .running } ∧
      EntriesApart (memberEnded 0) { joinedTask with state := .running } 1 0 ∧ (memberEnded 0).Inv ∧ (memberEnded 0).gValid 1 = true ∧
      (memberEnded 0).gHome 1 = (memberEnded 0).device ∧ (memberEnded 0).memState 1 0 = 0 ∧ ∀ h ∈ (memberEnded 0).homes, h.g ≠ 1) ∧
    (CanRetireAs (memberEnded 5) { joinedTask with state := .running } [(0, 1, 0)] none ∧
      NoRecord (memberEnded 5) { joinedTask with state := .running } ∧
      EntriesApart (memberEnded 5) { joinedTask with state := .running } 1 0 ∧ (memberEnded 5).Inv ∧ (memberEnded 5).gValid 1 = true ∧
      (memberEnded 5).gHome 1 ≠ (memberEnded 5).device) ∧
    (CanRetire (ended (queued base)) endedTask ∧ (ended (queued base)).Inv ∧
      ((ended (queued base)).dget endedTask.die (offTQCTL endedTask.queue)).getLsbD 62 = true ∧
      (1 + 2 ^ 32 - 0) % 2 ^ 32 ≠ 2 ^ natBits ((ended (queued base)).dget endedTask.die offCRBASE).toNat 4 0 ∧
      ((ended (queued base)).dget endedTask.die offCRPTR).toNat / 2 ^ 32 = 1 ∧
      ((ended (queued base)).dget endedTask.die offCRPTR).toNat % 2 ^ 32 = 0) := by
  refine ⟨⟨⟨by decide +kernel, rfl, rfl, rfl, rfl, by decide +kernel, rfl, by decide +kernel⟩, by unfold NoRecord; decide +kernel⟩,
    ⟨⟨by decide +kernel, by decide +kernel, by decide +kernel, by decide +kernel, by decide +kernel, by decide +kernel, rfl, by decide +kernel⟩,
      by unfold NoRecord; decide +kernel, by unfold EntriesApart; decide +kernel, inv_of (by decide +kernel), by decide +kernel,
      by decide +kernel, by decide +kernel, by intro h hh; cases hh⟩,
    ⟨⟨by decide +kernel, by decide +kernel, by decide +kernel, by decide +kernel, by decide +kernel, by decide +kernel, rfl, by decide +kernel⟩,
      by unfold NoRecord; decide +kernel, by unfold EntriesApart; decide +kernel, inv_of (by decide +kernel), by decide +kernel,
      by decide +kernel⟩,
    ⟨by decide +kernel, rfl, rfl, rfl, rfl, by decide +kernel, rfl, by decide +kernel⟩, inv_of (by decide +kernel),
    by decide +kernel, by decide +kernel, by decide +kernel, by decide +kernel⟩

/-- Task 9 asks for core 0, where task 7 of context 1 runs. -/
def asked : State :=
  let s := queued base
  { s with core := { s.core with semap := 0x77, task := some 7, tcw := w64 (2 ^ 48 + 1) }, tasks := [busy, ready] }
def saving : State :=
  { base with core := { base.core with phase := .saving, task := some 7, saveTo := 1 }, tasks := [busy] }
def aBal : Bal := { die := 0, ctx := 0, b := 2, en := true, cap := 8, rate := 3, bal := 5, part := 0 }
def balanced : State := { crossed with core := { crossed.core with req := none }, bals := [aBal] }
def stopped : State := { base with core := { base.core with phase := .stopped } }

theorem witness_SchedulerEvents :
    asked.requester (keyDie asked.here) 63 = some (ready, 0) ∧
    (saving.core.phase = .saving ∧ saving.curTask = some busy ∧ saving.NoReplay ∧
      State.pick { saving.saved busy with core := { saving.core with phase := .idle, task := none, req := none, iss := {} } }
        saving.here = none ∧ ∀ j, keyDie j = keyDie saving.here → ¬j < saving.here) ∧
    (balanced.bals.find? (fun x => x.die == keyDie balanced.here && x.ctx == aBal.ctx && x.b == aBal.b) = some aBal ∧
      balanced.NoReplay ∧ aBal.holds = false ∧ aBal.bal ≤ (5 : Nat) ∧ balanced.core.runsTask = true ∧
      aBal.en = true ∧ balanced.core.taskCtx = aBal.ctx) ∧
    (stopped.core.phase = .stopped ∧ stopped.owesToken = false) := by
  refine ⟨by decide +kernel, ⟨rfl, by decide +kernel, noReplay_of (by decide +kernel), by decide +kernel, fun j _ => Nat.not_lt_zero j⟩,
    ⟨by decide +kernel, noReplay_of (by decide +kernel), by decide +kernel, by decide +kernel, by decide +kernel,
      rfl, by decide +kernel⟩, rfl, by decide +kernel⟩

/-- Queue 127 enabled, its ring one short of full. -/
def queue127 : State :=
  { base with dreg := assocSet base.dreg (offMQCTL 127) (w64 (2 ^ 63))
              mqs := [{ die := 0, q := 127, ring := .replicate 63 { ctx := 0, val := 0 }, flue := [] }] }
/-- Its ring full, with a Flue ring of two at 0x50000 and a quota of one. -/
def spilled : State :=
  let s := put64 queue127 0x60078 1
  { s with dreg := assocSet (assocSet s.dreg (offMQFLUE 127) 0x50001) offCTXBASE 0x60000
           mqs := [{ die := 0, q := 127, ring := .replicate 64 { ctx := 0, val := 0 }, flue := [] }] }
/-- Saffron 72 idle, with a request whose descriptor lies at `at'`. -/
def asking (at' : Nat) : State :=
  let s := context saff 0
  let s := put64 (put64 (put64 s 0x30000 0x5000) 0x30008 0x6000) 0x30010 0x1234
  { s with dreg := assocSet s.dreg (offMQCTL 112) (w64 (2 ^ 63))
           core := { s.core with phase := .idle }
           mqs := [{ die := 0, q := 112, ring := [{ ctx := 0, val := w64 at' }], flue := [] }] }
def aMsg (at' : Nat) : Msg := { ctx := 0, val := w64 at' }
def descBytes : List Byte := leBytes 8 0x5000 ++ leBytes 8 0x6000 ++ leBytes 8 0x1234 ++ .replicate 40 0

theorem witness_QueuesAndRequests :
    (queue127.qEnabled (keyDie queue127.here) 127 = true ∧ queue127.qRoom (keyDie queue127.here) 127 0 (queue127.ctxQuota (keyDie queue127.here) 0) = true ∧
      (queue127.mq (keyDie queue127.here) 127).ring.length < 64 ∧ (queue127.mq (keyDie queue127.here) 127).flue = []) ∧
    (spilled.qEnabled 0 127 = true ∧ spilled.qRoom 0 127 0 (spilled.ctxQuota 0 0) = true ∧ ¬((spilled.mq 0 127).ring.length < 64 ∧ (spilled.mq 0 127).flue = []) ∧
      memLoc (locate (spilled.flueAt 0 127)) = true ∧ spilled.Inv) ∧
    ((asking 1).onSaffron = true ∧ (asking 1).core.phase = .idle ∧
      (asking 1).qEnabled (keyDie (asking 1).here) (112 + keyCluster (asking 1).here) = true ∧ (aMsg 1).ctx < 2 ^ 16 ∧
      ((asking 1).mq (keyDie (asking 1).here) (112 + keyCluster (asking 1).here)).ring = [aMsg 1] ∧
      ((asking 1).mq (keyDie (asking 1).here) (112 + keyCluster (asking 1).here)).flue = [] ∧ (aMsg 1).val.toNat % 64 ≠ 0) ∧
    ((asking 0x30000).onSaffron = true ∧ (asking 0x30000).core.phase = .idle ∧
      (asking 0x30000).qEnabled (keyDie (asking 0x30000).here) (112 + keyCluster (asking 0x30000).here) = true ∧
      (aMsg 0x30000).val.toNat % 64 = 0 ∧
      ((asking 0x30000).mq (keyDie (asking 0x30000).here) (112 + keyCluster (asking 0x30000).here)).ring = [aMsg 0x30000] ∧
      (requestMaster (asking 0x30000) (aMsg 0x30000) []).vread (requestMaster (asking 0x30000) (aMsg 0x30000) []).acc
        (.lslot true) (aMsg 0x30000).val 64 (2 ^ 46) = .ok descBytes ∧
      requestOk (leNat descBytes) = true ∧ natBits (leNat descBytes) 191 128 ≠ 0) := by
  refine ⟨by decide +kernel, ⟨by decide +kernel, by decide +kernel, by decide +kernel, by decide +kernel, inv_of (by decide +kernel)⟩,
    ⟨rfl, rfl, by decide +kernel, by decide, by decide +kernel, by decide +kernel, by decide +kernel⟩, rfl, rfl,
    by decide +kernel, by decide +kernel, by decide +kernel, okIs_eq (by decide +kernel), by decide +kernel, by decide +kernel⟩

/-- The tables, and a bundle of `mjoin.bf16` alone in M: template bit 24 of the header, then bits 30:23 = 0x10 with the stop bit. -/
def joinMem : List Host.Cell := [(8192, 1), (8194, 12), (12288, 231), (12289, 1), (16387, 1), (16391, 0x88)]

/-- Cores 0 and 1 wait at rendezvous 1 with one `mjoin.bf16` each; core 1's start has this register MK. -/
def memberCore (s : State) (mk : Nat) : Core :=
  let g := (hset mcoop 0 10).set 4 (w64 mk)
  { Core.reset.placed 0 0 0 with
    live := { s.core.live with hs := g }, joinAt := some { joinOf g 0 false with banks := 1 } }
def waiting (mk : Nat) : State :=
  { base with
    mem := joinMem
    core := memberCore base 16
    parked := [(1, memberCore base mk)] }
def joinOf0 : Join := { joinOf ((hset mcoop 0 10).set 4 16) 0 false with banks := 1 }
def joinOf1 (mk : Nat) : Join := { joinOf ((hset mcoop 0 10).set 4 (w64 mk)) 0 false with banks := 1 }
def waitedLong : State := { joined mJoin (joinOf mJoin.core.live.hs 0 false) with tick := 1025 }

/-- A core whose plan issues a cooperative start in its first repeat. -/
def plansJoin (s : State) : Bool := match s.plan with
  | .go t _ ops _ => match t.joinOp ops with
    | some (i, _, _) => !i.again
    | none => false
  | _ => false
theorem plans_join {s : State} (h : plansJoin s = true) :
    ∃ t b ops tk i op w, s.plan = .go t b ops tk ∧ t.joinOp ops = some (i, op, w) ∧ i.again = false := by
  revert h
  rw [plansJoin]
  cases hp : s.plan with
  | go t b ops tk =>
    intro h
    cases hj : t.joinOp ops with
    | none => simp [hj] at h
    | some w => obtain ⟨i, op, w⟩ := w; exact ⟨t, b, ops, tk, i, op, w, rfl, hj, by simpa [hj] using h⟩
  | _ => intro h; cases h

theorem waits (mk : Nat) (h : (waiting mk).joinsNow.waitersAt 0 1 = [(0, joinOf0), (1, joinOf1 mk)] ∧ joinOf0.id = 1 ∧
      (waiting mk).joinsNow.here = 0) :
    (waiting mk).joinsNow.waitersAt (waiting mk).joinsNow.here joinOf0.id = [(0, joinOf0), (1, joinOf1 mk)] := by
  rw [h.2.1, h.2.2]; exact h.1

theorem witness_Rendezvous :
    (((waiting 16).coreOf 1).joinAt = some (joinOf1 16) ∧ (joinOf1 16).go = false ∧
      ∃ t b ops tk i op w, ((waiting 16).focus 1).plan = .go t b ops tk ∧ t.joinOp ops = some (i, op, w) ∧ i.again = false) ∧
    Meets (waiting 16).joinsNow joinOf0 [0, 1] ∧
    (Disagree (waiting 32).joinsNow joinOf0 [0, 1] ∧ ∀ k ∈ [0, 1], ((waiting 32).focus k).CanTrap) ∧
    (waitedLong.core.joinAt = some (joinOf mJoin.core.live.hs 0 false) ∧ waitedLong.CanTrap ∧
      natBits (joinOf mJoin.core.live.hs 0 false).img[13].toNat 39 32 = 1 ∧ 0 + 1 * 1024 < waitedLong.tick) := by
  have w1 := waits 16 ⟨by decide +kernel, by decide +kernel, by decide +kernel⟩
  have w2 := waits 32 ⟨by decide +kernel, by decide +kernel, by decide +kernel⟩
  have n1 : (waiting 16).joinsNow.here = 0 := by decide +kernel
  have n2 : (waiting 32).joinsNow.here = 0 := by decide +kernel
  have a : ∀ i, i < 8 → joinOf0.mask.testBit i = true → 0 / 8 * 8 + i ∈ [0, 1] := by decide +kernel
  refine ⟨⟨by decide +kernel, rfl, plans_join (by decide +kernel)⟩,
    ⟨⟨by decide +kernel, rfl, by decide +kernel⟩, by rw [w1]; rfl, by rw [w1]; unfold Shares; decide +kernel, by rw [n1]; exact a,
      by rw [w1]; decide +kernel, by decide +kernel⟩,
    ⟨⟨⟨by decide +kernel, rfl, by decide +kernel⟩, by rw [w2]; rfl,
      .inr ⟨by rw [n2]; exact a, (1, joinOf1 32), by rw [w2]; simp, by unfold Shares; decide +kernel⟩⟩, ?_⟩,
    rfl, canTrap_of (by decide +kernel), by decide +kernel, by decide +kernel⟩
  intro k hk
  simp only [List.mem_cons, List.not_mem_nil, or_false] at hk
  rcases hk with rfl | rfl <;> exact canTrap_of (by decide +kernel)

/-! ### The statements' hypotheses are met: agreements -/

def aContrib : Contrib := { seq := 0, site := 3, cmb := .sum, tc := 3, t := -1, v := 2 }
def aHome (contr : List (Nat × Int × BitVec 32)) (key : BitVec 32) : AgHome :=
  { AgHome.fresh 1 0 0 (key, .sum, 3, -1) with contr := contr }
/-- Member 1's contribution has come to group 1's home; its record of the number stands as given. -/
def contributed (nmem quorum : Nat) (hs : List AgHome) : State :=
  let s := grouped base 0 nmem quorum 10 false
  { s with agMail := [(1, 1, aContrib)], homes := hs }

/-- The premises of the statement's first clause. -/
def arrives (s : State) (h0 : AgHome) : Bool :=
  s.gHome 1 == s.device && s.gValid 1 && decide (s.agMail.find? (fun p => p.1 == 1 && p.2.1 == 1) = some (1, 1, aContrib)) &&
  s.homes.all (fun h => h.g != 1 || !s.limitPast h) && s.goneAt.isEmpty && decide ((homeOf s 1 0).getD (AgHome.fresh 1 0 s.tick aContrib.key) = h0) &&
  h0.decided.isNone && !h0.expired && h0.key.isSome && (s.setMemSeq 1 1 1).memState 1 1 == 0

/-- Member 1 has departed before its contribution came. -/
def departed : State := put64 (contributed 2 2 []) 0x110018 (2 ^ 32)

/-- Number 0 was decided, AGREED over member 0 alone, reported at 0x40000 and delivered; then member 1's contribution came. -/
def settledHome (own : Nat) (report : Word) : AgHome :=
  let o : AgOut :=
    { own := own, decided := own, c := 5, cond := false, missing := true, clamped := false, ncontr := 1, seq := 0, report := report }
  { aHome [(0, 5, 3)] 3 with wrote := true, decided := some o }
def late' (own : Nat) (report : Word) : State :=
  { context (contributed 2 1 [settledHome own report]) 0 with grpCtx := [(1, 0, 0)] }
def answered (s : State) (h : AgHome) : Bool :=
  s.gHome 1 == s.device && s.gValid 1 && decide (s.agMail.find? (fun p => p.1 == 1 && p.2.1 == 1) = some (1, 1, aContrib)) &&
  s.homes.all (fun h => h.g != 1 || !s.limitPast h) && s.goneAt.isEmpty && decide (homeOf s 1 0 = some h) && h.decided.isSome

theorem witness_AgreementsDecide_late :
    (answered (late' 0 0) (settledHome 0 0) = true ∧ ((late' 0 0).setMemSeq 1 1 1).memState 1 1 = 0) ∧
    (answered (late' 2 0x40000) (settledHome 2 0x40000) = true ∧ (settledHome 2 0x40000).wrote = true ∧
      ∃ a ps, ((late' 2 0x40000).setMemSeq 1 1 1).rptAcc 1 = some a ∧
        Places ((late' 2 0x40000).setMemSeq 1 1 1) a .copy (0x40000 + w64 (64 + 8 * 1)) (2 ^ 61) 8 ps) ∧
    (answered { departed with homes := [settledHome 0 0] } (settledHome 0 0) = true ∧
      (State.setMemSeq { departed with homes := [settledHome 0 0] } 1 1 1).memState 1 1 ≠ 0) := by
  obtain ⟨ps, h⟩ := places_low (s := (late' 2 0x40000).setMemSeq 1 1 1) (a := ((late' 2 0x40000).setMemSeq 1 1 1).ctxAcc 0 0 true)
    (va := 0x40000 + w64 (64 + 8 * 1)) (by decide +kernel) .copy (2 ^ 61) 8 (by decide)
  exact ⟨⟨by decide +kernel, by decide +kernel⟩, ⟨by decide +kernel, rfl, _, ps, by decide +kernel, h⟩, by decide +kernel, by decide +kernel⟩

/-- A group whose only home record is past its late limit, member 1 of 2 not having contributed. -/
def latePast (quorum : Nat) (strict : Bool) : State :=
  let s := grouped base 0 2 quorum 10 strict
  { s with homes := [aHome [(0, 5, 3)] 3], tick := 11 }
def lateOk (s : State) : Bool :=
  s.limitPast (aHome [(0, 5, 3)] 3) && s.gRpt 1 == 0 && decide (s.qe 1 ≤ (s.presents 1).length) && (s.presents 1).contains 1
def invalidated : State :=
  { base with homes := [aHome [(0, 5, 3)] 3], agMail := [(1, 1, { seq := 0, site := 3, cmb := .sum, tc := 0, t := 0, v := 6 })] }

/-- The entry has read VALID 0, and what was open is set apart; the group was formed again, and number 0 is open. -/
def apart : AgHome := { aHome [(0, 5, 3)] 3 with seq := 2 ^ 32 }
def reformed : State := { grouped base 0 2 1 10 false with homes := [apart, aHome [] 3], invSeen := [(1, 0)] }

theorem witness_AgreementsDecide_apart :
    (1, 0) ∈ reformed.invSeen ∧
    State.gRpt { reformed with mem := reformed.memBack (((reformed.invSeen.find? fun p => p.1 == 1).map (·.2)).getD reformed.wseq) } 1 = 0 ∧
    apart ∈ reformed.homes ∧ apart.decided = none ∧ 2 ^ 32 ≤ apart.seq ∧
    (∀ h2 ∈ reformed.homes, h2.g = 1 → h2.seq = apart.seq → h2 = apart) ∧ aHome [] 3 ∈ reformed.homes ∧ (aHome [] 3).seq < 2 ^ 32 := by
  refine ⟨by decide +kernel, by decide +kernel, .head _, rfl, by decide +kernel, by decide +kernel, .tail _ (.head _), by decide +kernel⟩

theorem witness_AgreementsDecide :
    arrives (contributed 2 3 []) (aHome [] 3) = true ∧ arrives (contributed 2 2 [aHome [(0, 5, 4)] 4]) (aHome [(0, 5, 4)] 4) = true ∧
    arrives (contributed 2 2 [aHome [(0, 5, 3)] 3]) (aHome [(0, 5, 3)] 3) = true ∧
    arrives (contributed 2 2 []) (aHome [] 3) = true ∧
    (departed.gHome 1 = departed.device ∧ departed.gValid 1 = true ∧ departed.homes = [] ∧
      departed.agMail.find? (fun p => p.1 == 1 && p.2.1 == 1) = some (1, 1, aContrib) ∧
      (departed.setMemSeq 1 1 (aContrib.seq + 1)).memState 1 1 ≠ 0) ∧
    (homeOf (latePast 1 false) 1 0 = some (aHome [(0, 5, 3)] 3) ∧ lateOk (latePast 1 true) = true ∧
      lateOk (latePast 1 false) = true ∧ lateOk (latePast 2 false) = true) ∧
    departed.goneAt = [] ∧ invalidated.gValid 1 = false ∧ State.gRpt { invalidated with mem := invalidated.memBack invalidated.wseq } 1 = 0 ∧
    invalidated.invSeen = [] ∧
    (aHome [(0, 5, 3)] 3 ∈ invalidated.homes ∧ (∀ h2 ∈ invalidated.homes, h2.g = 1 → h2.seq = 0 → h2 = aHome [(0, 5, 3)] 3) ∧
      (1, 1, { seq := 0, site := 3, cmb := .sum, tc := 0, t := 0, v := 6 }) ∈ invalidated.agMail) := by
  refine ⟨by decide +kernel, by decide +kernel, by decide +kernel, by decide +kernel,
    ⟨by decide +kernel, by decide +kernel, rfl, by decide +kernel, by decide +kernel⟩, ⟨rfl, by decide +kernel, by decide +kernel, by decide +kernel⟩, rfl, by decide +kernel, by decide +kernel, rfl,
    .head _, fun _ h _ _ => ?_, .head _⟩
  simpa [invalidated] using h

/-- A core waits for sequence number 0xFFFFFFFF of group 1, whose home is device 5. -/
def far (trapping : Bool) : State :=
  let s := grouped (context base 0) 5 2 1 10 false
  { s with core := { s.core with agw := some { waitsFor 1 0 0xFFFFFFFF 0 with trapping := trapping } }, links := 1 }
/-- And this device has its copy of the record of that number. -/
def copied : State := { far false with rptGot := [((1, 0xFFFFFFFF), true)] }
def anOut (own decided : Nat) : AgOut :=
  { own := own, decided := decided, c := -1, cond := true, missing := false, clamped := true, ncontr := 2, seq := 0xFFFFFFFF,
    report := 0 }
/-- Group 1 with a report region of 4 KiB, whose member here is of context 0. -/
def reporting : State :=
  { put64 (grouped (context base 0) 5 2 1 10 false) 0x100068 0x40000 with links := 1, grpCtx := [(1, 0, 0)] }
/-- Group 1's only member is bound to device 7. -/
def lone : State := { put64 (grouped base 0 1 1 10 false) 0x110000 (2 ^ 63 + 7) with tick := 400000 }
def noGroups : State := { base with dreg := assocSet base.dreg offGRPBASE 0x100000, tick := 400000 }

theorem not_member {s : State} {dev : Nat} (P : Nat → Prop) (h : ∀ g, g < 256 → P g → s.gValid g = false) :
    ∀ g, g < 256 → P g → ∀ m, ¬memberOn s dev g m := by
  intro g hg hp m hm
  have := hm.1
  rw [h g hg hp] at this
  cases this

theorem memGet_unlisted (a : Nat) : ∀ m : List Host.Cell, (∀ c ∈ m, c.1 ≠ a) → memGet m a = memDefault
  | [], _ => rfl
  | c :: m, h => by
    have h1 := h c (by simp)
    have h2 := memGet_unlisted a m fun d hd => h d (by simp [hd])
    unfold memGet at *
    rw [cellGet, if_neg h1]
    split
    · rfl
    · exact h2

/-- No group but group 1 has an entry. -/
theorem groups_of (s : State) (h : (s.dget 0 offGRPBASE == 0x100000 &&
    s.mem.all fun c => decide (c.1 < 0x100000) || decide (0x104000 ≤ c.1) || c.1 / 64 == 0x4001) = true) :
    ∀ g, g < 256 → g ≠ 1 → s.gValid g = false := by
  intro g hg h1
  simp only [Bool.and_eq_true, beq_iff_eq, List.all_eq_true, Bool.or_eq_true, decide_eq_true_eq] at h
  have ha : s.grpAt g = 0x100000 + 64 * g := by
    have : ((0x100000 : Word).toNat) = 0x100000 := rfl
    simp only [State.grpAt, h.1, this, Nat.mod_eq_of_lt hg]
  have hz : ∀ i, i < 8 → memGet s.mem (s.grpAt g + i) = memDefault := by
    intro i hi
    refine memGet_unlisted _ _ fun c hc => ?_
    have := h.2 c hc
    omega
  simp only [State.gValid, State.gctl, rdNat, rdBytes]
  rw [List.map_congr_left (g := fun _ => memDefault) fun i hi => hz i (List.mem_range.1 hi)]
  rfl

/-- Die 0 is open and its first Chimney's link is up. -/
def heard : State := { State.reset.setFence 0 false with links := 1 }

theorem witness_AgreementsReachMembers :
    ((far false).core.agw = some (waitsFor 1 0 0xFFFFFFFF 0) ∧ (far false).gHome 1 ≠ (far false).device ∧
      (far false).NoReplay ∧ (far false).onSaffron = false ∧ (far false).core.phase = .run ∧ (far false).core.runAhead = false ∧
      (far false).core.heldTrap = none ∧ (∀ h ∈ (far false).homes, h.g ≠ 1) ∧ (anOut 0 0).states = [] ∧ (anOut 0 0).late = none ∧
      (anOut 0 0).report = 0 ∧ ¬outFails (anOut 0 0) ∧ (waitsFor 1 0 0xFFFFFFFF 0).mb < 4) ∧
    copied.copyOfRpt 1 0xFFFFFFFF = some true ∧ (heard.pathUp = true ∧ (far false).pathUp = true) ∧
    ((far true).core.agw = some { waitsFor 1 0 0xFFFFFFFF 0 with trapping := true } ∧ outFails (anOut 1 3) ∧ outFails (anOut 4 0) ∧ (far true).CanTrap ∧
      (far true).gHome 1 ≠ (far true).device) ∧
    (reporting.gRpt 1 ≠ 0 ∧ reporting.pathUp = true ∧ reporting.rptAccIn 1 0 = some (reporting.ctxAcc reporting.here 0 true) ∧
      ∃ ps, Places reporting (reporting.ctxAcc reporting.here 0 true) .copy (reporting.rptAddr 1 3) (2 ^ 61) 64 ps) ∧
    ((far false).gRpt 1 = 0 ∧ base.rptAccIn 1 0 = none) ∧
    (noGroups.beatTick + noGroups.hbInt ≤ noGroups.tick ∧ 7 ≠ noGroups.device ∧ 7 ∉ noGroups.lost ∧
      assocGet 0 noGroups.beats 7 + noGroups.hbMiss * noGroups.hbInt ≤ noGroups.tick ∧
      ∀ g, g < 256 → ∀ m, ¬memberOn noGroups 7 g m) ∧
    (assocGet 0 lone.beats 7 + lone.hbMiss * lone.hbInt ≤ lone.tick ∧ (∀ h ∈ lone.homes, h.g ≠ 1) ∧
      (∀ k, memberOn lone 7 1 k ↔ k = 0) ∧
      ∀ v ∈ [lone, lone.setMemState 1 0 2], ∀ k, k < 256 → k ≠ 1 → ∀ j, ¬memberOn v 7 k j) := by
  refine ⟨⟨rfl, by decide +kernel, noReplay_of (by decide +kernel), rfl, rfl, rfl, rfl, by decide +kernel, rfl, rfl, rfl,
      by simp [outFails, failing, anOut], by decide⟩, by decide +kernel, by decide +kernel,
    ⟨rfl, .inr ⟨rfl, .inr (.inl rfl)⟩, .inl (.inr (.inr rfl)), canTrap_of (by decide +kernel), by decide +kernel⟩,
    ⟨by decide +kernel, by decide +kernel, by decide +kernel, places_low (by decide +kernel) _ _ _ (by decide)⟩,
    by decide +kernel,
    ⟨by decide +kernel, by decide +kernel, by decide +kernel, by decide +kernel, ?_⟩,
    by decide +kernel, by decide +kernel, ?_, ?_⟩
  · have h : ∀ g, g < 256 → noGroups.gValid g = false := by
      intro g hg
      by_cases h1 : g = 1
      · subst h1; decide +kernel
      · exact groups_of _ (by decide +kernel) g hg h1
    exact fun g hg => not_member (fun _ => True) (fun g hg _ => h g hg) g hg trivial
  · intro k
    have hn : lone.gNmem 1 = 1 := by decide +kernel
    have h0 : lone.gValid 1 = true ∧ lone.gHome 1 = lone.device ∧ lone.memState 1 0 = 0 ∧ (lone.memWhere 1 0).testBit 63 = true ∧
      natBits (lone.memWhere 1 0) 11 0 = 7 := by decide +kernel
    constructor
    · intro h; have := h.2.2.1; omega
    · rintro rfl; exact ⟨h0.1, h0.2.1, by omega, h0.2.2.1, h0.2.2.2.1, h0.2.2.2.2⟩
  · intro v hv k hk hk1
    simp only [List.mem_cons, List.not_mem_nil, or_false] at hv
    rcases hv with rfl | rfl
    · have h : ∀ g, g < 256 → g ≠ 1 → lone.gValid g = false := groups_of _ (by decide +kernel)
      exact not_member (fun g => g ≠ 1) h k hk hk1
    · have h : ∀ g, g < 256 → g ≠ 1 → (lone.setMemState 1 0 2).gValid g = false := groups_of _ (by decide +kernel)
      exact not_member (fun g => g ≠ 1) h k hk hk1

/-! ### The statements' hypotheses are met: graphs -/

/-- A graph of five nodes at 0x40000, handle 255 of a table at 0x50000: 0 JOIN, 1 COND, 2 WHILE, 3 END, 4 TASKSET of a task at
0x42000; the word at 0x41000; context 0. -/
def graphMem (compl word : List Host.Cell) : List Host.Cell :=
  baseMem ++ [(0x40000, 5)] ++ compl ++
  [(0x40040, 4), (0x40042, 1), (0x40044, 1), (0x40046, 255), (0x40047, 255), (0x40048, 2), (0x4004A, 255), (0x4004B, 255)] ++
  [(0x40080, 2), (0x40082, 2), (0x40086, 255), (0x40087, 255), (0x40088, 3), (0x4008A, 255), (0x4008B, 255), (0x40091, 16),
   (0x40092, 4)] ++
  [(0x400C0, 3), (0x400C2, 1), (0x400C4, 2), (0x400C6, 255), (0x400C7, 255), (0x400C8, 3), (0x400CA, 255), (0x400CB, 255),
   (0x400D1, 16), (0x400D2, 4), (0x400D8, 1)] ++
  [(0x40100, 5), (0x40102, 1), (0x40104, 255), (0x40105, 255), (0x40106, 255), (0x40107, 255), (0x40108, 255), (0x40109, 255),
   (0x4010A, 255), (0x4010B, 255)] ++
  [(0x40140, 1), (0x40142, 2), (0x40144, 3), (0x40146, 255), (0x40147, 255), (0x40148, 255), (0x40149, 255), (0x4014A, 255),
   (0x4014B, 255), (0x40151, 32), (0x40152, 4), (0x40158, 1), (0x4015C, 63)] ++ word ++
  [(0x42009, 64), (0x42011, 144), (0x4201A, 2), (0x4201E, 7), (0x42021, 1), (0x50FF2, 4), (0x50FFF, 128), (0x200001, 32),
   (0x20000F, 128)]
def graph (compl word : Nat) : State :=
  let s := queued base
  { s with dreg := assocSet (assocSet s.dreg offCTXBASE 0x200000) offGTBASE (w64 0x50000)
           mem := graphMem (cellsAt 0x40010 (leBytes 8 compl)) (cellsAt 0x41000 (leBytes 8 word)) }
def aLaunch (arr iters acts : List (Nat × Nat)) : Launch :=
  { id := 3, h := 255, gaddr := 0x40000, ctx := 0, arr := arr, iters := iters, acts := acts, left := [], todo := [], ended := false,
    fault := false, runs := 0 }
def walked (compl word : Nat) (l : Launch) : State := { graph compl word with launches := [(0, l)], nextId := 4 }
def aNode (kind npred s0 s2 addr count qsel : Nat) : GNode :=
  { kind := kind, npred := npred, succ := [s0, 0xFFFF, s2, 0xFFFF], addr := w64 addr, count := count, qsel := qsel }

/-- Launches in progress change nothing of what the walker reads. -/
theorem low_launches (s : State) (ls : List (Nat × Launch)) (n : Nat) (h : LowMap s (s.wAcc 0 0)) :
    LowMap { s with launches := ls, nextId := n } (State.wAcc { s with launches := ls, nextId := n } 0 0) :=
  ⟨h.hist, h.root, h.top, h.leaf, h.runs, h.open', h.acc, h.priv⟩

theorem low_walked {c w : Nat} (h : lowB (graph c w) ((graph c w).wAcc 0 0) 0x40000 = true) (l : Launch) :
    LowMap (walked c w l) ((walked c w l).wAcc 0 0) := low_launches (graph c w) _ _ (low_of h).1

/-- Node and header from the bytes of memory. -/
def headBytes (bs : List Byte) : GHead :=
  let n := leNat bs
  let nn := natBits n 31 0
  { nnode := nn, compl := BitVec.ofNat 64 (natBits n 191 128), runs := natBits n 351 320, drops := natBits n 383 352,
    ok := natBits n 63 32 == 0 && natBits n 511 384 == 0 && decide (1 ≤ nn) && decide (nn ≤ 65535) }

theorem wRead_low {s : State} {ctx : Nat} (h : LowMap s (s.wAcc 0 ctx)) (va : Word) (n : Nat) (hn : va.toNat + n < 2 ^ 30) :
    s.wRead 0 ctx va n = some (rdBytes s.mem va.toNat n) := by
  rw [State.wRead, vread_low h _ va n _ hn]

theorem gHead_low {s : State} {l : Launch} {hd : GHead} (h : LowMap s (s.wAcc 0 0)) (ha : l.gaddr = 0x40000) (hc : l.ctx = 0)
    (hb : headBytes (rdBytes s.mem 0x40000 64) = hd) : s.gHead 0 l = some hd := by
  rw [State.gHead, ha, hc, if_neg (by decide), wRead_low h _ _ (by decide)]
  exact congrArg some hb

/-- What a node of the first gigabyte reads, from the bytes of memory, as a test. -/
def nodeB (s : State) (i : Nat) (g : GNode) (nnode : Nat) : Bool :=
  let n := leNat (rdBytes s.mem (0x40040 + 64 * i) 64)
  decide (g = { kind := natBits n 7 0, npred := natBits n 31 16,
                succ := [0, 1, 2, 3].map fun k => natBits n (47 + 16 * k) (32 + 16 * k),
                addr := BitVec.ofNat 64 (natBits n 191 128), count := natBits n 223 192, qsel := natBits n 255 224 }) &&
  !(g.kind == 0 || decide (5 < g.kind) || natBits n 15 8 != 0 || natBits n 127 96 != 0 || natBits n 511 256 != 0 ||
    g.npred == 0 || ((i == 0 || g.kind == 3) && g.npred != 1) || g.succ.any (fun j => j != 0xFFFF && decide (nnode ≤ j)) ||
    (g.kind == 1 && (g.count == 0 || decide (4096 < g.count) || natBits g.qsel 31 9 != 0)))

theorem gNode_low {s : State} {l : Launch} {hd : GHead} {g : GNode} {i : Nat} (h : LowMap s (s.wAcc 0 0)) (ha : l.gaddr = 0x40000)
    (hc : l.ctx = 0) (hh : s.gHead 0 l = some hd) (hi : i < 8) (hb : nodeB s i g hd.nnode = true) : s.gNode 0 l i = .ok g := by
  have hv : (l.gaddr + BitVec.ofNat 64 (64 + 64 * i)).toNat = 0x40040 + 64 * i := by
    rw [ha, BitVec.toNat_add, BitVec.toNat_ofNat]
    have : (0x40000 : Word).toNat = 0x40000 := rfl
    omega
  simp only [nodeB, Bool.and_eq_true, decide_eq_true_eq, Bool.not_eq_true'] at hb
  obtain ⟨h1, h2⟩ := hb
  subst h1
  have hr := wRead_low h (l.gaddr + BitVec.ofNat 64 (64 + 64 * i)) 64 (by omega)
  rw [hv] at hr
  simp only [State.gNode, hh, hc, hr]
  exact if_neg (by rw [h2]; decide)

theorem atNode_low {s : State} {l : Launch} {hd : GHead} {g : GNode} {i : Nat} (h : LowMap s (s.wAcc 0 0)) (ha : l.gaddr = 0x40000)
    (hc : l.ctx = 0) (hh : s.gHead 0 l = some hd) (hi : i < 8) (hk : keyDie s.here = 0) (hl : s.launchOf 0 l.h = some l)
    (hb : nodeB s i g hd.nnode = true) : AtNode s l i g.kind g := by
  unfold AtNode
  rw [hk]
  exact ⟨hl, gNode_low h ha hc hh hi hb, rfl⟩

def joinL : Launch := aLaunch [(0, 1)] [] []
def condL : Launch := aLaunch [(1, 2)] [] []
def whileL (it : Nat) : Launch := aLaunch [(2, 1)] [(2, it)] []
def endL : Launch := aLaunch [(3, 1)] [] []
def setL (it : Nat) : Launch := aLaunch [(4, 2)] [(4, it)] []
def aHead (compl : Word) (runs : Nat) : GHead := { nnode := 5, compl := compl, runs := runs, drops := 0, ok := true }

theorem low00 : lowB (graph 0 0) ((graph 0 0).wAcc 0 0) 0x40000 = true := by decide +kernel
theorem low07 : lowB (graph 0 7) ((graph 0 7).wAcc 0 0) 0x40000 = true := by decide +kernel
theorem lowC7 : lowB (graph 0x43000 7) ((graph 0x43000 7).wAcc 0 0) 0x40000 = true := by decide +kernel
theorem walked_mem (c w : Nat) (l : Launch) : (walked c w l).mem = (graph c w).mem := by simp only [walked]
theorem bytes00 : headBytes (rdBytes (graph 0 0).mem 0x40000 64) = aHead 0 0 := by decide +kernel
theorem head00 (l : Launch) (ha : l.gaddr = 0x40000) (hc : l.ctx = 0) : (walked 0 0 l).gHead 0 l = some (aHead 0 0) :=
  gHead_low (low_walked low00 l) ha hc (by rw [walked_mem]; exact bytes00)
theorem bytes07 : headBytes (rdBytes (graph 0 7).mem 0x40000 64) = aHead 0 0 := by decide +kernel
theorem head07 (l : Launch) (ha : l.gaddr = 0x40000) (hc : l.ctx = 0) : (walked 0 7 l).gHead 0 l = some (aHead 0 0) :=
  gHead_low (low_walked low07 l) ha hc (by rw [walked_mem]; exact bytes07)
theorem bytesC7 : headBytes (rdBytes (graph 0x43000 7).mem 0x40000 64) = aHead 0x43000 0 := by decide +kernel
theorem headC7 (l : Launch) (ha : l.gaddr = 0x40000) (hc : l.ctx = 0) : (walked 0x43000 7 l).gHead 0 l = some (aHead 0x43000 0) :=
  gHead_low (low_walked lowC7 l) ha hc (by rw [walked_mem]; exact bytesC7)

theorem word_low {s : State} {l : Launch} {n : GNode} {w : Nat} (h : LowMap s (s.wAcc 0 0)) (hc : l.ctx = 0) (ha : n.addr = 0x41000)
    (hb : rdNat s.mem 0x41000 8 = w) : s.gWord 0 l n = some w := by
  rw [State.gWord, ha, hc, if_neg (by decide), wRead_low h _ _ (by decide)]
  exact congrArg some hb

theorem header_low {s : State} {l : Launch} (off n : Nat) (h : (lowB s (s.wAcc (keyDie s.here) l.ctx) (l.gaddr + w64 off)) = true)
    (hn : n < 2 ^ 20) : ∃ ps, HeaderPlaces s l off n ps := places_low h _ _ _ hn

theorem witness_GraphsLaunch :
    (State.reset.bar0Up = false ∧ (graph 0 0).bar0Up = true) ∧
    natBits (rdNat (graph 0 0).mem 0x50018 8) 63 63 = 0 ∧
    (natBits ((graph 0 0).dget 0 offGTBASE).toNat 51 12 * 4096 + 16 * (255 % 256) = 0x50FF0 ∧
      rdNat (graph 0 0).mem 0x50FF0 8 = 0x40000 ∧ rdNat (graph 0 0).mem 0x50FF8 8 = 2 ^ 63 ∧
      (graph 0 0).ctxOk 0 0 = true) ∧
    ((walked 0 0 joinL).launches.find? (fun p => p.1 == 0 && p.2.h == 255) = some (0, joinL) ∧
      (walked 0 0 joinL).gHead 0 joinL = some (aHead 0 0) ∧ ∃ ps, HeaderPlaces (walked 0 0 joinL) joinL 0x2C 4 ps) ∧
    ((walked 0 0 joinL).launches.find? (fun p => p.1 == 0 && p.2.h == 254) = none ∧ joinL.gaddr = w64 0x40000 ∧
      (aHead 0 0).ok = true ∧ ∃ ps, HeaderPlaces (walked 0 0 joinL) joinL 0x08 8 ps) := by
  refine ⟨by decide +kernel, by decide +kernel, ⟨by decide +kernel, by decide +kernel, by decide +kernel, by decide +kernel⟩,
    ⟨by decide +kernel, head00 joinL rfl rfl, header_low _ _ (by decide +kernel) (by decide)⟩,
    by decide +kernel, by decide +kernel, rfl, header_low _ _ (by decide +kernel) (by decide)⟩

theorem alone_of {s : State} {l : Launch} (h : s.launches = [(0, l)] ∧ s.notes = [] ∧ l.ended = false ∧ keyDie s.here = 0) :
    Alone s l := by
  obtain ⟨h1, h2, h3, h4⟩ := h
  refine ⟨?_, ?_, by rw [h2]; simp⟩
  · intro p hp _; rw [h1] at hp; have := List.mem_singleton.1 hp; subst this; exact h3
  · intro p hp _; rw [h1] at hp; rw [h4]; exact List.mem_singleton.1 hp

/-- The state after the walker has stored FAULT, and after it has stored RUNS. -/
def faulted : State := (walked 0 7 (whileL 1)).wStore 0 0 (0x40000 + 0x18) (leBytes 8 (2 ^ 63 + 3 * 2 ^ 48 + 2))
def counted : State := (walked 0x43000 7 endL).wStore 0 0 (0x40000 + 0x28) (leBytes 4 1)

theorem witness_GraphNodesActivate :
    (1 ≤ joinL.arrivals 0 ∧ AtNode (walked 0 0 joinL) joinL 0 4 (aNode 4 1 1 2 0 0 0)) ∧
    (2 ≤ condL.arrivals 1 ∧ AtNode (walked 0 7 condL) condL 1 2 (aNode 2 2 0 3 0x41000 0 0) ∧
      (walked 0 7 condL).gWord 0 condL (aNode 2 2 0 3 0x41000 0 0) = some 7) ∧
    (1 ≤ (whileL 0).arrivals 2 ∧ AtNode (walked 0 7 (whileL 0)) (whileL 0) 2 3 (aNode 3 1 2 3 0x41000 1 0) ∧
      (walked 0 7 (whileL 0)).gWord 0 (whileL 0) (aNode 3 1 2 3 0x41000 1 0) = some 7 ∧ (whileL 0).iterOf 2 + 1 ≤ 1 ∧
      (walked 0 0 (whileL 1)).gWord 0 (whileL 1) (aNode 3 1 2 3 0x41000 1 0) = some 0) ∧
    (AtNode (walked 0 7 (whileL 1)) (whileL 1) 2 3 (aNode 3 1 2 3 0x41000 1 0) ∧ 1 < (whileL 1).iterOf 2 + 1 ∧
      Alone (walked 0 7 (whileL 1)) (whileL 1) ∧ (∃ ps, HeaderPlaces (walked 0 7 (whileL 1)) (whileL 1) 0x18 8 ps) ∧
      faulted.gHead 0 (whileL 1) = some (aHead 0 0)) ∧
    (1 ≤ endL.arrivals 3 ∧ AtNode (walked 0 7 endL) endL 3 5 (aNode 5 1 0xFFFF 0xFFFF 0 0 0) ∧ Alone (walked 0 7 endL) endL ∧
      (walked 0 7 endL).gHead 0 endL = some (aHead 0 0) ∧ ∃ ps, HeaderPlaces (walked 0 7 endL) endL 0x28 4 ps) ∧
    (AtNode (walked 0x43000 7 endL) endL 3 5 (aNode 5 1 0xFFFF 0xFFFF 0 0 0) ∧
      (walked 0x43000 7 endL).gHead 0 endL = some (aHead 0x43000 0) ∧ (∃ ps, HeaderPlaces (walked 0x43000 7 endL) endL 0x28 4 ps) ∧
      ∃ qs, Places counted (counted.wAcc 0 0) (.lslot true) (aHead 0x43000 0).compl (2 ^ 36) 8 qs) := by
  refine ⟨⟨by decide +kernel, atNode_low (low_walked low00 _) rfl rfl (head00 _ rfl rfl) (by decide) rfl (by decide +kernel) (by decide +kernel)⟩,
    ⟨by decide +kernel, atNode_low (low_walked low07 _) rfl rfl (head07 _ rfl rfl) (by decide) rfl (by decide +kernel) (by decide +kernel),
      word_low (low_walked low07 _) rfl rfl (by decide +kernel)⟩,
    ⟨by decide +kernel, atNode_low (low_walked low07 _) rfl rfl (head07 _ rfl rfl) (by decide) rfl (by decide +kernel) (by decide +kernel),
      word_low (low_walked low07 _) rfl rfl (by decide +kernel), by decide +kernel, word_low (low_walked low00 _) rfl rfl (by decide +kernel)⟩,
    ⟨atNode_low (low_walked low07 _) rfl rfl (head07 _ rfl rfl) (by decide) rfl (by decide +kernel) (by decide +kernel), by decide +kernel,
      alone_of ⟨rfl, rfl, rfl, rfl⟩, header_low _ _ (by decide +kernel) (by decide),
      gHead_low (low_of (va := 0x40000) (by decide +kernel)).1 rfl rfl (by decide +kernel)⟩,
    ⟨by decide +kernel, atNode_low (low_walked low07 _) rfl rfl (head07 _ rfl rfl) (by decide) rfl (by decide +kernel) (by decide +kernel),
      alone_of ⟨rfl, rfl, rfl, rfl⟩, head07 _ rfl rfl, header_low _ _ (by decide +kernel) (by decide)⟩,
    atNode_low (low_walked lowC7 _) rfl rfl (headC7 _ rfl rfl) (by decide) rfl (by decide +kernel) (by decide +kernel),
    headC7 _ rfl rfl, header_low _ _ (by decide +kernel) (by decide), places_low (by decide +kernel) _ _ _ (by decide)⟩

/-- The set's queue lies on die 1, of partition 1. -/
def otherPart : State :=
  let s := (walked 0 0 (setL 0)).dset 1 offPARTCTL 1
  { s with mem := s.mem.map fun c => if c.1 == 0x4015C then (c.1, 127) else c }
/-- The set's second descriptor is all zero. -/
def twoDescs : State :=
  let s := walked 0 0 (setL 0)
  { s with mem := s.mem.map fun c => if c.1 == 0x40158 then (c.1, 2) else c }
def twoFault : State := twoDescs.wStore 0 0 0x40018 (leBytes 8 (2 ^ 63 + 1 * 2 ^ 48 + 4))
theorem lowOther : LowMap otherPart (otherPart.wAcc 0 0) := (low_of (va := 0x40000) (by decide +kernel)).1
theorem lowTwo : LowMap twoDescs (twoDescs.wAcc 0 0) := (low_of (va := 0x40000) (by decide +kernel)).1
theorem headOther : otherPart.gHead 0 (setL 0) = some (aHead 0 0) := gHead_low lowOther rfl rfl (by decide +kernel)
theorem headTwo : twoDescs.gHead 0 (setL 0) = some (aHead 0 0) := gHead_low lowTwo rfl rfl (by decide +kernel)

theorem witness_TasksetsEnqueueAndActivate :
    (AtNode (walked 0 0 (setL 0)) (setL 0) 4 1 (aNode 1 2 3 0xFFFF 0x42000 1 63) ∧ 0 < (setL 0).arrivals 4 ∧
      (∀ x ∈ (setL 0).todo, x.1 ≠ 4) ∧ (setL 0).iterOf 4 < (setL 0).needed 4 2 ∧ (setL 0).actsOf 4 ≤ (setL 0).iterOf 4 ∧
      (walked 0 0 (setL 0)).readSet 0 (setL 0) (aNode 1 2 3 0xFFFF 0x42000 1 63) = .ok [plainDesc 7] ∧
      (walked 0 0 (setL 0)).queueCount 0 63 + 1 ≤ natBits ((walked 0 0 (setL 0)).dget 0 (offTQCTL 63)).toNat 12 0 ∧
      (walked 0 0 (setL 0)).dieCount 0 + 1 ≤ 4096) ∧
    (AtNode (walked 0 0 (setL 1)) (setL 1) 4 1 (aNode 1 2 3 0xFFFF 0x42000 1 63) ∧ 2 ≤ (setL 1).arrivals 4 ∧
      (setL 1).actsOf 4 < (setL 1).iterOf 4) ∧
    (AtNode otherPart (setL 0) 4 1 (aNode 1 2 3 0xFFFF 0x42000 1 127) ∧
      otherPart.readSet 0 (setL 0) (aNode 1 2 3 0xFFFF 0x42000 1 127) = .error (5, none, []) ∧ Alone otherPart (setL 0) ∧
      (∃ ps, HeaderPlaces otherPart (setL 0) 0x18 8 ps) ∧
      (otherPart.wStore 0 0 0x40018 (leBytes 8 (2 ^ 63 + 5 * 2 ^ 48 + 4))).gHead 0 (setL 0) = some (aHead 0 0)) ∧
    (AtNode twoDescs (setL 0) 4 1 (aNode 1 2 3 0xFFFF 0x42000 2 63) ∧
      twoDescs.readSet 0 (setL 0) (aNode 1 2 3 0xFFFF 0x42000 2 63) = .error (1, some 0, [plainDesc 7]) ∧
      Alone twoDescs (setL 0) ∧ twoDescs.queueCount 0 63 + 1 ≤ natBits (twoDescs.dget 0 (offTQCTL 63)).toNat 12 0 ∧
      twoDescs.dieCount 0 + 1 ≤ 4096 ∧ (∃ ps, HeaderPlaces twoDescs (setL 0) 0x18 8 ps) ∧
      (∃ qs, HeaderPlaces twoFault (setL 0) 0x20 8 qs) ∧
      (twoFault.wStore 0 0 0x40020 (leBytes 8 0)).gHead 0 (setL 0) = some (aHead 0 0)) := by
  refine ⟨⟨atNode_low (low_walked low00 _) rfl rfl (head00 _ rfl rfl) (by decide) rfl (by decide +kernel) (by decide +kernel),
    by decide +kernel, by decide +kernel, by decide +kernel, by decide +kernel,
    okIs_eq (by decide +kernel), by decide +kernel, by decide +kernel⟩,
    ⟨atNode_low (low_walked low00 _) rfl rfl (head00 _ rfl rfl) (by decide) rfl (by decide +kernel) (by decide +kernel),
      by decide +kernel, by decide +kernel⟩,
    ⟨atNode_low lowOther rfl rfl headOther (by decide) rfl (by decide +kernel) (by decide +kernel), errIs_eq (by decide +kernel),
      alone_of ⟨rfl, rfl, rfl, rfl⟩, header_low _ _ (by decide +kernel) (by decide),
      gHead_low (low_of (va := 0x40000) (by decide +kernel)).1 rfl rfl (by decide +kernel)⟩,
    ⟨atNode_low lowTwo rfl rfl headTwo (by decide) rfl (by decide +kernel) (by decide +kernel), errIs_eq (by decide +kernel),
      alone_of ⟨rfl, rfl, rfl, rfl⟩, by decide +kernel, by decide +kernel, header_low _ _ (by decide +kernel) (by decide),
      header_low _ _ (by decide +kernel) (by decide),
      gHead_low (low_of (va := 0x40000) (by decide +kernel)).1 rfl rfl (by decide +kernel)⟩⟩
/-- Two tasks of an activation are left, or one: task 9 ends, of queue 5. -/
def lastL (n : Nat) : Launch := { setL 1 with left := [(4, 0, n)] }
def graphTask : Task := { ready with queue := 5, state := .running, node := some (3, 4, 0) }
def graphEnded (n : Nat) : State :=
  let s := walked 0 0 (lastL n)
  { s with core := { s.core with phase := .ending, task := some 9 }, tasks := [graphTask] }

theorem witness_TasksRetire_graph :
    (∀ n ∈ [1, 2], CanRetireAs (graphEnded n) graphTask [] (some (3, 4, 0)) ∧ NoRecord (graphEnded n) graphTask ∧
      (graphEnded n).launches.filter (fun p => p.2.id == 3) = [(0, lastL n)] ∧ (lastL n).ended = false ∧
      (lastL n).left.filter (fun q => q.1 == 4 && q.2.1 == 0) = [(4, 0, n)]) ∧
    (graphEnded 1).gNode 0 (lastL 1) 4 = .ok (aNode 1 2 3 0xFFFF 0x42000 1 63) := by
  constructor
  · intro n hn
    simp only [List.mem_cons, List.not_mem_nil, or_false] at hn
    rcases hn with rfl | rfl <;>
      exact ⟨⟨by decide +kernel, rfl, rfl, rfl, rfl, by decide +kernel, rfl, by decide +kernel⟩, by unfold NoRecord; decide +kernel,
        by decide +kernel, rfl, by decide +kernel⟩
  · have hl := (low_of (s := graphEnded 1) (a := (graphEnded 1).wAcc 0 0) (va := 0x40000) (by decide +kernel)).1
    exact gNode_low hl rfl rfl (gHead_low (hd := aHead 0 0) hl rfl rfl (by decide +kernel)) (by decide) (by decide +kernel)

/-! ### The statements' hypotheses are met: arrivals from other devices -/

/-- Segment 15 is a frame ring of context 0: its words at 0x60000, 64-byte frames at 0x70000 in one entry; TAIL as given. -/
def ringed (tail : Nat) : State :=
  { context base 0 with
    dreg := (offCTXBASE, 0x200000) :: (0x41F0, w64 (3 * 2 ^ 62 + 0x60000)) :: (0x41F8, w64 (0x70000 + 6)) :: base.dreg
    mem := baseMem ++ cellsAt 0x6001C [BitVec.ofNat 8 tail] ++ [(0x60022, 6), (0x200001, 32), (0x20000F, 128)] }
/-- Segment 15 is memory of context 0 from 0x60000. -/
def segment : State :=
  { ringed 0 with dreg := (offCTXBASE, 0x200000) :: (0x41F0, w64 (2 * 2 ^ 62 + 0x60000)) :: base.dreg }

theorem vaddrs_any {s : State} {a : Acc} (h : LowMap s a) (by' : By) (va : Word) (tag : Nat) : ∀ n i, va.toNat + i + n < 2 ^ 30 →
    ∃ ps, s.vaddrs a .rd by' va tag n i = .ok ps ∧ ∀ p ∈ ps, memLoc (locate p) = true
  | 0, _, _ => ⟨[], rfl, by simp⟩
  | n + 1, i, hi => by
    have hv : (va + BitVec.ofNat 64 i).toNat = va.toNat + i := by
      rw [BitVec.toNat_add, BitVec.toNat_ofNat]; omega
    obtain ⟨ps, h1, h2⟩ := vaddrs_any h by' va tag n (i + 1) (by omega)
    have hl : (va + BitVec.ofNat 64 i).toNat < 2 ^ 30 := by omega
    refine ⟨(va + BitVec.ofNat 64 i).toNat :: ps, ?_, ?_⟩
    · rw [State.vaddrs, access_low h .rd by' _ (tag + i) hl]
      simp only [AKind.writes, Bool.false_and, Bool.false_eq_true, if_false, h1]
    · intro p hp
      cases List.mem_cons.1 hp with
      | inl e => rw [e, locate_low hl]; rfl
      | inr e => exact h2 p e

/-- The eight bytes that an arrival at offset 8 of the segment names. -/
def eightAt : List Nat := (List.range 8).map (0x60008 + ·)
theorem eight_at : okIs (segment.vaddrs (segAcc segment 15) .wr .copy 0x60008 (2 ^ 48) 8 0) eightAt = true := by decide +kernel
/-- A program of die 0 in progress; staging with room for four bytes. -/
def hearing : State :=
  { base with bruns := [(0, { id := 4, key := 0, copy := 5, acc := base.acc, prog := 0x40000, step := 0, blc := .replicate 4 (1, 0, 0),
                              hopovf := false, hop := 0, nonfinite := false, sent := [], inbox := [] })]
              stageCap := 4 }
def words (n : Nat) : BMsg := { src := 1, dst := 0, tag := 0, data := .replicate n 0, hopovf := false, hop := 0, hops := 0 }

theorem witness_FabricArrivals_posts_and_messages :
    (State.reset.fenced (keyDie State.reset.here) = true ∧ segment.fenced (keyDie segment.here) = false) ∧
    (natBits (segLo segment 15) 63 62 = 2 ∧ Places segment (segAcc segment 15) .copy (segVa segment 0xF00000008) (2 ^ 48) 8 eightAt ∧
      (segment.putAt eightAt (leBytes 8 1)).engPostRefused (segAcc (segment.putAt eightAt (leBytes 8 1)) 15)
        { key := 79, flag := 31, amt := 65535, set := true } = none) ∧
    (hearing.bruns.any (fun p => p.1 == keyDie hearing.here && p.2.id == 4) = true ∧
      hearing.bruns.any (fun p => p.1 == keyDie hearing.here && p.2.id == 3) = false ∧
      hearing.bRoom (keyDie hearing.here) (words 4) = true ∧ hearing.bRoom (keyDie hearing.here) (words 5) = false) := by
  have hv : segVa segment 0xF00000008 = 0x60008 := by decide +kernel
  refine ⟨by decide +kernel, ⟨by decide +kernel, ⟨inv_of (by decide +kernel), by rw [hv]; exact okIs_eq eight_at, by decide +kernel⟩,
    by decide +kernel⟩, by decide +kernel, by decide +kernel, by decide +kernel, by decide +kernel⟩

theorem witness_FabricArrivals :
    (natBits (segLo (ringed 1) 15) 63 62 = 3 ∧ 72 - 8 ≤ 2 ^ natBits (segHi (ringed 1) 15) 4 0 ∧
      (ringed 1).access (segAcc (ringed 1) 15) .rw (.lslot true) (va48 (segLo (ringed 1) 15)) (2 ^ 50) =
        .ok { pa := 0x60000, pte := pteGig 0 } ∧ (ringed 1).Inv ∧
      (∀ f ∈ (ringed 1).frames, f.pa ≠ 0x60000) ∧
      (((ringed 1).sctx 0x60000).tail + 2 ^ 32 - ((ringed 1).sctx 0x60000).head) % 2 ^ 32 = 2 ^ ((ringed 1).sctx 0x60000).frl) ∧
    (natBits (segLo (ringed 0) 15) 63 62 = 3 ∧
      (((ringed 0).sctx 0x60000).tail + 2 ^ 32 - ((ringed 0).sctx 0x60000).head) % 2 ^ 32 ≠ 2 ^ ((ringed 0).sctx 0x60000).frl ∧
      (∃ ps, Places (ringed 0) (segAcc (ringed 0) 15) .copy (0x70000 + w64 (2 ^ 6 * (0 % 2 ^ 0))) (2 ^ 49) 64 ps) ∧
      ∃ es, Places (ringed 0) (segAcc (ringed 0) 15) .copy
        (((ringed 0).sctx 0x60000).frb + w64 (16 * (((ringed 0).sctx 0x60000).tail % 2 ^ ((ringed 0).sctx 0x60000).frl))) (2 ^ 48) 16 es) ∧
    (natBits (segLo segment 15) 63 62 = 2 ∧ (∃ ps, Places segment (segAcc segment 15) .copy (segVa segment 0xF00000008) (2 ^ 48) 8 ps) ∧
      ∃ ps, segment.vaddrs (segAcc segment 15) .rd .copy (segVa segment 0xF00000008) (2 ^ 48) 8 0 = .ok ps ∧
        ∀ p ∈ ps, memLoc (locate p) = true) ∧
    natBits (segLo segment 14) 63 62 ≠ 2 ∧
    (natBits (segLo segment 14) 63 62 ≠ 3 ∧ 2 ^ natBits (segHi (ringed 1) 15) 4 0 < 8 + 2 ^ 31 - 8) := by
  have hv : va48 (segLo (ringed 1) 15) = 0x60000 := by decide +kernel
  have hs : (segVa segment 0xF00000008).toNat = 0x60008 := by decide +kernel
  refine ⟨⟨by decide +kernel, by decide +kernel, ?_, inv_of (by decide +kernel), nofun, by decide +kernel⟩,
    ⟨by decide +kernel, by decide +kernel, places_low (by decide +kernel) _ _ _ (by decide),
      places_low (by decide +kernel) _ _ _ (by decide)⟩,
    ⟨by decide +kernel, places_low (by decide +kernel) _ _ _ (by decide),
      vaddrs_any (low_of (va := 0x60000) (by decide +kernel)).1 _ _ _ _ _ (by omega)⟩, by decide +kernel, by decide +kernel⟩
  rw [hv]
  exact access_low (low_of (va := 0x60000) (by decide +kernel)).1 _ _ _ _ (by decide)

/-- Two bytes of a frame on their way to the ring's memory, as the agent that lands them sees the die. -/
def framing : State :=
  { base with here := 127, frames := [{ die := 0, ctx := 0, rest := { at0 := 0, step := 0, ws := [(0x70000, 1), (0x70001, 2)] }, pa := 0x60000, tail := 1 }] }

theorem witness_FabricArrivals_parts :
    framing.here % 128 = 127 ∧ framing.core.rel = [] ∧ (∀ p ∈ framing.bruns, p.2.rest = []) ∧
      ∃ f, framing.frames = [f] ∧ f.die = keyDie framing.here ∧ framing.Inv ∧
        (∀ w ∈ f.rest.ws, memLoc (locate w.1) = true) ∧ (f.rest.ws.map (·.1)).Nodup :=
  ⟨by decide +kernel, by decide +kernel, nofun, _, rfl, by decide +kernel, inv_of (by decide +kernel), by decide +kernel, by decide +kernel⟩

/-! ### The statements' hypotheses are met: Bellows -/

def stepNum (op rty fin k len addr addr2 tag : Nat) : Nat :=
  op + rty * 2 ^ 8 + fin * 2 ^ 24 + k * 2 ^ 32 + 2 ^ 64 + tag * 2 ^ 96 + len * 2 ^ 128 + addr * 2 ^ 160 + addr2 * 2 ^ 208
def aMessage : BMsg := { src := 1, dst := 0, tag := 0xFFFFFFFF, data := leBytes 4 0x3F800000, hopovf := true, hop := 5, hops := 2 }
def aRun (inbox : List BMsg) (step : Nat) : BRun :=
  { id := 4, key := 0, copy := 5, acc := base.acc, prog := 0x40000, step := step, blc := .replicate 4 (1, 0, 0), hopovf := false,
    hop := 0, nonfinite := false, sent := [], inbox := inbox }
def bgoCopy : Copy := { aCopy .bgo (cset 0 0 8 0) .running with pat := 0x40000 }
/-- A program of rank 0 of 2, whose steps stand at 0x40040; peers at 0x44000, both on die 0; its record at 0x45000. -/
def program (steps : List Nat) (r : BRun) : State :=
  { withCopy bgoCopy with
    mem := baseMem ++ [(0x40004, 2), (0x40009, 64), (0x4000A, 4), (0x40011, 80), (0x40012, 4), (0x40018, 3)] ++
      cellsAt 0x40040 (steps.flatMap (leBytes 32)) ++ [(0x46000, 128), (0x46001, 63)]
    bruns := [(0, r)] }
def progHead : BHead := { rank := 0, nr := 2, peers := 0x44000, rec' := 0x45000, nstep := 3, ok := true }

/-- What a program's header and a step read, as tests. -/
def headB (s : State) (r : BRun) (h : BHead) : Bool :=
  let n := leNat (rdBytes s.mem 0x40000 64)
  let rank := natBits n 31 0
  let nr := natBits n 63 32
  r.prog == 0x40000 && decide (h = { rank := rank, nr := nr, peers := BitVec.ofNat 64 (natBits n 127 64),
                                     rec' := BitVec.ofNat 64 (natBits n 191 128), nstep := natBits n 223 192,
                                     ok := decide (rank < nr) && decide (nr ≤ 65536) && natBits n 511 224 == 0 })
def stepB (s : State) (k : Nat) (t : BStep) : Bool := decide (BStep.of (leNat (rdBytes s.mem (0x40040 + 32 * k) 32)) = t)

theorem bView_whole {s : State} {r : BRun} (hr : r.rest = []) : s.bView r = s := by rw [State.bView, hr]; rfl

theorem bHead_low {s : State} {r : BRun} {h : BHead} (hl : LowMap s r.acc) (hw : r.rest = []) (hb : headB s r h = true) : s.bHead r = .ok h := by
  simp only [headB, Bool.and_eq_true, beq_iff_eq, decide_eq_true_eq] at hb
  obtain ⟨h1, h2⟩ := hb
  have hr : s.bRead r r.prog 64 = .ok (rdBytes s.mem 0x40000 64) := by
    rw [State.bRead, bView_whole hw, h1, vread_low hl .copy 0x40000 64 _ (by decide)]; rfl
  rw [State.bHead, if_neg (by rw [h1]; decide), hr, h2]
  rfl

theorem bStep_low {s : State} {r : BRun} {t : BStep} {k : Nat} (hl : LowMap s r.acc) (hw : r.rest = []) (hp : r.prog = 0x40000) (hk : k < 8)
    (hb : stepB s k t = true) : s.bStepAt r k = .ok t := by
  have hv : (r.prog + BitVec.ofNat 64 (0x40 + 32 * k)).toNat = 0x40040 + 32 * k := by
    rw [hp, BitVec.toNat_add, BitVec.toNat_ofNat]
    have : (0x40000 : Word).toNat = 0x40000 := rfl
    omega
  have hr : s.bRead r (r.prog + BitVec.ofNat 64 (0x40 + 32 * k)) 32 = .ok (rdBytes s.mem (0x40040 + 32 * k) 32) := by
    rw [State.bRead, bView_whole hw, vread_low hl .copy _ 32 _ (by omega), hv]
  rw [State.bStepAt, hr]
  exact congrArg Except.ok (by simpa [stepB] using hb)

/-- Whether a step's program waits. -/
def stays (s : State) (r : BRun) (h : BHead) (t : BStep) : Bool :=
  if t.op == 9 then (s.bHalt r h).isNone
  else (t.op == 1 || t.op == 2 || t.op == 3 || t.op == 5) && (match s.bDo r h t with
    | .ok x => x.2.2 == r.step
    | .error _ => false)

theorem atStep_low {s : State} {r : BRun} {h : BHead} {t : BStep} {op : Nat} (hl : LowMap s r.acc) (hp : headB s r h = true)
    (hs : s.bruns = [(0, r)]) (hk : keyDie s.here = 0) (h8 : r.step < 8) (ht : stepB s r.step t = true)
    (hc : (h.ok && decide (r.step < h.nstep) && decide (1 ≤ t.op) && decide (t.op ≤ 9) && t.am != 3 &&
      !((t.op == 1 || t.op == 2 || t.op == 3) && t.code && decide (2 ≤ t.rty)) && !(t.op == 3 && (t.rty == 3 || t.rop == 3)) &&
      t.op == op && !stays s r h t) = true) (hq : r.rest = [] := by rfl) :
    AtStep s r h t op := by
  have hpr : r.prog = 0x40000 := by simp only [headB, Bool.and_eq_true, beq_iff_eq] at hp; exact hp.1
  simp only [Bool.and_eq_true, decide_eq_true_eq, Bool.not_eq_true', bne_iff_ne, beq_iff_eq] at hc
  obtain ⟨⟨⟨⟨⟨⟨⟨⟨h1, h2⟩, h3⟩, h4⟩, h5⟩, h6⟩, h7⟩, h9⟩, hw⟩ := hc
  have hn : s.bNow r = .ok (h, t) := by
    rw [State.bNow, bHead_low hl hq hp]
    simp only [h1, Bool.not_true, Bool.false_eq_true, if_false, bStep_low hl hq hpr h8 ht]
    rw [if_neg (by omega), if_neg (by simp; omega), if_neg (by rw [← Bool.not_eq_true] at h6; simpa using h6),
      if_neg (by rw [← Bool.not_eq_true] at h7; simpa using h7)]
  have hkind : s.bKind r = op := by rw [State.bKind, hn]; exact h9
  have hready : s.bReady r = true := by
    rw [State.bReady, hn]
    simp only [stays] at hw
    by_cases h0 : t.op = 9
    · simp only [h0, beq_self_eq_true, if_true] at hw
      simp only [h0, if_true]
      cases hh : s.bHalt r h with
      | none => rw [hh] at hw; cases hw
      | some e => rfl
    · rw [if_neg (by simpa using h0)] at hw
      simp only [h0, if_false]
      by_cases ho : ((t.op = 1 ∨ t.op = 2) ∨ t.op = 3) ∨ t.op = 5
      · have hd : (t.op == 1 || t.op == 2 || t.op == 3 || t.op == 5) = true := by simpa using ho
        simp only [hd, Bool.true_and] at hw
        simp only [Bool.or_eq_true, decide_eq_true_eq, ho, if_true]
        revert hw
        cases s.bDo r h t with
        | error e => intro _; rfl
        | ok x => obtain ⟨a, b, c⟩ := x; intro hw; simpa using hw
      · simp only [Bool.or_eq_true, decide_eq_true_eq, ho, if_false]
  refine ⟨hq, ?_, hn, h9⟩
  rw [hs, hk]
  simp [List.find?, hkind, hready]

def step1 (op rty fin k len : Nat) : BStep := BStep.of (stepNum op rty fin k len 0x46000 0x47000 0xFFFFFFFF)
def postStep : BStep := BStep.of (stepNum 6 0 0 0 0xFFFF 0 0 31)
def withStep (op rty fin k len : Nat) (inbox : List BMsg) : State :=
  program [stepNum op rty fin k len 0x46000 0x47000 0xFFFFFFFF] (aRun inbox 0)
theorem low_withStep {st : List Nat} {r : BRun} (h : lowB (program st r) base.acc 0x40000 = true) (hr : r.acc = base.acc) :
    LowMap (program st r) r.acc := hr ▸ (low_of h).1

/-- A LOOP of count 0 whose ENDL is the third step. -/
def looped : State := program [stepNum 7 0 0 0 0 0 0 0, stepNum 6 0 0 0 0 0 0 0, stepNum 8 0 0 0 0 0 0 0] (aRun [] 0)
/-- A program that has come to HALT, and one whose step has no meaning. -/
def halted : State := program [stepNum 9 0 0 0 0 0 0 0] (aRun [] 0)
def failed : State := program [stepNum 10 0 0 0 0 0 0 0] (aRun [] 0)

theorem stepLow (op rty fin k len : Nat) (ib : List BMsg) (h : lowB (withStep op rty fin k len ib) base.acc 0x40000 = true) :
    LowMap (withStep op rty fin k len ib) (aRun ib 0).acc := (low_of h).1

theorem atStep_of (op rty fin k len : Nat) (ib : List BMsg) (hd : (lowB (withStep op rty fin k len ib) base.acc 0x40000 &&
    headB (withStep op rty fin k len ib) (aRun ib 0) progHead && stepB (withStep op rty fin k len ib) 0 (step1 op rty fin k len) &&
    (let t := step1 op rty fin k len
     decide (1 ≤ t.op) && decide (t.op ≤ 9) && t.am != 3 && !((t.op == 1 || t.op == 2 || t.op == 3) && t.code && decide (2 ≤ t.rty)) &&
     !(t.op == 3 && (t.rty == 3 || t.rop == 3)) && t.op == op) &&
    !stays (withStep op rty fin k len ib) (aRun ib 0) progHead (step1 op rty fin k len)) = true) :
    AtStep (withStep op rty fin k len ib) (aRun ib 0) progHead (step1 op rty fin k len) op := by
  simp only [Bool.and_eq_true] at hd
  obtain ⟨⟨⟨⟨h1, h2⟩, h3⟩, h4⟩, h5⟩ := hd
  exact atStep_low (stepLow _ _ _ _ _ _ h1) h2 rfl (show keyDie 0 = 0 from rfl) (show 0 < 8 by decide) h3 (by
    simp only [Bool.and_eq_true]
    exact ⟨⟨⟨⟨⟨⟨⟨⟨rfl, rfl⟩, h4.1.1.1.1.1⟩, h4.1.1.1.1.2⟩, h4.1.1.1.2⟩, h4.1.1.2⟩, h4.1.2⟩, h4.2⟩, h5⟩)

theorem witness_BellowsSteps_send :
    AtStep (withStep 1 0 0 1 4 []) (aRun [] 0) progHead (step1 1 0 0 1 4) 1 ∧
    (withStep 1 0 0 1 4 []).bRead (aRun [] 0) (stepVa (aRun [] 0) progHead (step1 1 0 0 1 4) (step1 1 0 0 1 4).addr) 4 =
      .ok [128, 63, 0, 0] ∧
    (withStep 1 0 0 1 4 []).bPath (aRun [] 0) progHead (peerOf progHead (step1 1 0 0 1 4) 1) = .ok (.die 0) := by
  refine ⟨atStep_of _ _ _ _ _ _ (by decide +kernel), okIs_eq (by decide +kernel), okIs_eq (by decide +kernel)⟩

/-- Rank 1 stands on device 7, whose fabric entry is at 0x70; both Chimneys of die 0 as given. -/
def farPeer (links : BitVec 16) (st : List Nat) (r : BRun) : State :=
  { put64 (put64 (program st r) 0x70 1) 0x44008 7 with links := links }
def farSend : State := farPeer 3 [stepNum 1 0 0 1 4 0x46000 0x47000 0xFFFFFFFF] (aRun [] 0)
/-- HALT, with a message to rank 1 not acknowledged and no way left to it. -/
def unacked : BRun := { aRun [] 0 with sent := [1] }
def cutOff : State := farPeer 0 [stepNum 9 0 0 0 0 0 0 0] unacked

theorem witness_BellowsSteps_far :
    (AtStep farSend (aRun [] 0) progHead (step1 1 0 0 1 4) 1 ∧
      farSend.bRead (aRun [] 0) (stepVa (aRun [] 0) progHead (step1 1 0 0 1 4) (step1 1 0 0 1 4).addr) 4 = .ok [128, 63, 0, 0] ∧
      farSend.bPath (aRun [] 0) progHead (peerOf progHead (step1 1 0 0 1 4) 1) = .ok .far) ∧
    (AtStep cutOff unacked progHead (BStep.of (stepNum 9 0 0 0 0 0 0 0)) 9 ∧ unacked.sent.head? = some 1 ∧
      (∃ e, cutOff.bPath unacked progHead 1 = .error e) ∧
      ∃ ps, Places cutOff unacked.acc .copy progHead.rec' (2 ^ 37) 64 ps) := by
  refine ⟨⟨atStep_low (low_of (va := 0x40000) (by decide +kernel)).1 (by decide +kernel) rfl rfl (by decide) (by decide +kernel)
      (by decide +kernel), okIs_eq (by decide +kernel), okIs_eq (by decide +kernel)⟩,
    ⟨atStep_low (low_of (va := 0x40000) (by decide +kernel)).1 (by decide +kernel) rfl rfl (by decide) (by decide +kernel)
      (by decide +kernel), rfl, ⟨{ cause := 1, status := -4, peer := 1 }, errIs_eq (by decide +kernel)⟩,
      places_low (by decide +kernel) _ _ _ (by decide)⟩⟩

/-- A message to the rank of a program that runs on the die, with room in the staging. -/
theorem witness_FabricArrivals_known : ∃ (s : State) (m : BMsg), s.bRoom (keyDie s.here) m = true ∧ m.ack = false ∧
    ∃ p ∈ s.bruns, (p.1 == keyDie s.here && p.2.id == 4) = true ∧ ∃ h, s.bHead p.2 = .ok h ∧ h.rank = m.dst := by
  refine ⟨{ withStep 2 1 0 1 4 [] with stageCap := 4 }, aMessage, by decide +kernel, rfl, (0, aRun [] 0), .head _, by decide +kernel,
    progHead, bHead_low (low_of (va := 0x40000) (by decide +kernel)).1 rfl (by decide +kernel), rfl⟩

theorem witness_BellowsSteps_recv :
    AtStep (withStep 2 1 0 1 4 [aMessage]) (aRun [aMessage] 0) progHead (step1 2 1 0 1 4) 2 ∧
    (withStep 2 1 0 1 4 [aMessage]).bFind (aRun [aMessage] 0) (peerOf progHead (step1 2 1 0 1 4) 1) 0 0xFFFFFFFF = some aMessage ∧
    ∃ ps, Places (withStep 2 1 0 1 4 [aMessage]) (aRun [aMessage] 0).acc .copy
      (stepVa (aRun [aMessage] 0) progHead (step1 2 1 0 1 4) (step1 2 1 0 1 4).addr) (2 ^ 37) 4 ps := by
  refine ⟨atStep_of _ _ _ _ _ _ (by decide +kernel), by decide +kernel, places_low (by decide +kernel) _ _ _ (by decide)⟩

theorem witness_BellowsSteps_rrs :
    (AtStep (withStep 3 1 0 1 4 [aMessage]) (aRun [aMessage] 0) progHead (step1 3 1 0 1 4) 3 ∧
      (withStep 3 1 0 1 4 [aMessage]).bFind (aRun [aMessage] 0) (peerOf progHead (step1 3 1 0 1 4) (-1)) 0 0xFFFFFFFF = some aMessage ∧
      (withStep 3 1 0 1 4 [aMessage]).bRead (aRun [aMessage] 0)
        (stepVa (aRun [aMessage] 0) progHead (step1 3 1 0 1 4) (step1 3 1 0 1 4).addr) 4 = .ok [128, 63, 0, 0] ∧
      (withStep 3 1 0 1 4 [aMessage]).bPath (aRun [] 0) progHead (peerOf progHead (step1 3 1 0 1 4) 1) = .ok (.die 0)) ∧
    (AtStep (withStep 3 1 1 1 4 [aMessage]) (aRun [aMessage] 0) progHead (step1 3 1 1 1 4) 3 ∧ (step1 3 1 1 1 4).fin = true ∧
      ∃ ps, Places (withStep 3 1 1 1 4 [aMessage]) (aRun [aMessage] 0).acc .copy
        (stepVa (aRun [aMessage] 0) progHead (step1 3 1 1 1 4) (step1 3 1 1 1 4).addr2) (2 ^ 37) 4 ps) := by
  refine ⟨⟨atStep_of _ _ _ _ _ _ (by decide +kernel), by decide +kernel, okIs_eq (by decide +kernel), okIs_eq (by decide +kernel)⟩,
    atStep_of _ _ _ _ _ _ (by decide +kernel), by decide +kernel, places_low (by decide +kernel) _ _ _ (by decide)⟩

/-- An RRS whose peer is on another device, and one that ends the ring as bf16. -/
def farSum : State := farPeer 3 [stepNum 3 1 0 1 4 0x46000 0x47000 0xFFFFFFFF] (aRun [aMessage] 0)
def halfSum : State := withStep 3 0 1 1 2 [aMessage]

theorem witness_BellowsSteps_rrs_far_half :
    (AtStep farSum (aRun [aMessage] 0) progHead (step1 3 1 0 1 4) 3 ∧ (step1 3 1 0 1 4).fin = false ∧
      farSum.bFind (aRun [aMessage] 0) (peerOf progHead (step1 3 1 0 1 4) (-1)) 0 0xFFFFFFFF = some aMessage ∧
      farSum.bRead (aRun [aMessage] 0) (stepVa (aRun [aMessage] 0) progHead (step1 3 1 0 1 4) (step1 3 1 0 1 4).addr) 4 =
        .ok [128, 63, 0, 0] ∧
      (let r1 := stepped (taken farSum (aRun [aMessage] 0) aMessage) (hopAfter (aRun [aMessage] 0) true 5)
       let r2 := stepped (taken farSum (aRun [aMessage] 0) aMessage)
         (hopAfter r1 (overflowed (step1 3 1 0 1 4) aMessage.data [128, 63, 0, 0]) 3)
       State.bPath { farSum with staging := farSum.staging.erase (keyDie 0, aMessage) } r2 progHead
         (peerOf progHead (step1 3 1 0 1 4) 1) = .ok .far)) ∧
    (AtStep halfSum (aRun [aMessage] 0) progHead (step1 3 0 1 1 2) 3 ∧ (step1 3 0 1 1 2).fin = true ∧ (step1 3 0 1 1 2).rty = 0 ∧
      halfSum.bRead (aRun [aMessage] 0) (stepVa (aRun [aMessage] 0) progHead (step1 3 0 1 1 2) (step1 3 0 1 1 2).addr) 2 =
        .ok [128, 63] ∧ (reduced (step1 3 0 1 1 2) aMessage.data [128, 63]).length = 1 ∧
      ∃ ps, Places halfSum (aRun [aMessage] 0).acc .copy
        (stepVa (aRun [aMessage] 0) progHead (step1 3 0 1 1 2) (step1 3 0 1 1 2).addr2) (2 ^ 37) (2 * 1) ps) := by
  refine ⟨⟨atStep_low (low_of (va := 0x40000) (by decide +kernel)).1 (by decide +kernel) rfl rfl (by decide) (by decide +kernel)
      (by decide +kernel), by decide +kernel, by decide +kernel, okIs_eq (by decide +kernel), okIs_eq (by decide +kernel)⟩,
    atStep_of _ _ _ _ _ _ (by decide +kernel), by decide +kernel, by decide +kernel, okIs_eq (by decide +kernel), by decide +kernel,
    places_low (by decide +kernel) _ _ _ (by decide)⟩

/-- A program with two bytes of a step on their way, as the agent that lands them sees the die. -/
def passing : BRun := { aRun [] 1 with rest := [{ at0 := 0, step := 0, ws := [(0x47000, 1), (0x47001, 2)] }] }

theorem witness_BellowsSteps_parts :
    let s := { program [] passing with here := 127, frames := [] }
    s.here % 128 = 127 ∧ s.core.rel = [] ∧ s.bruns = [(keyDie s.here, passing)] ∧ s.frames = [] ∧ s.Inv ∧
      ∃ q, passing.rest = [q] ∧ (∀ w ∈ q.ws, memLoc (locate w.1) = true) ∧ (q.ws.map (·.1)).Nodup :=
  ⟨by decide +kernel, by decide +kernel, by decide +kernel, rfl, inv_of (by decide +kernel), _, rfl, by decide +kernel, by decide +kernel⟩

theorem witness_BellowsSteps_copy_wait_post :
    (AtStep (withStep 4 0 0 0 4 []) (aRun [] 0) progHead (step1 4 0 0 0 4) 4 ∧
      (withStep 4 0 0 0 4 []).bRead (aRun [] 0) (stepVa (aRun [] 0) progHead (step1 4 0 0 0 4) (step1 4 0 0 0 4).addr) 4 =
        .ok [128, 63, 0, 0] ∧
      ∃ ps, Places (withStep 4 0 0 0 4 []) (aRun [] 0).acc .copy
        (stepVa (aRun [] 0) progHead (step1 4 0 0 0 4) (step1 4 0 0 0 4).addr2) (2 ^ 37) 4 ps) ∧
    (AtStep (withStep 5 0 0 0 0x3F80 []) (aRun [] 0) progHead (step1 5 0 0 0 0x3F80) 5 ∧
      (withStep 5 0 0 0 0x3F80 []).vread (aRun [] 0).acc (.lslot true)
        (stepVa (aRun [] 0) progHead (step1 5 0 0 0 0x3F80) (step1 5 0 0 0 0x3F80).addr) 8 (2 ^ 37) = .ok [128, 63, 0, 0, 0, 0, 0, 0] ∧
      (step1 5 0 0 0 0x3F80).len ≤ leNat [128, 63, 0, 0, 0, 0, 0, 0]) ∧
    (AtStep (withStep 6 0 0 0 7 []) (aRun [] 0) progHead (step1 6 0 0 0 7) 6 ∧ AtStep looped (aRun [] 0) progHead
        (BStep.of (stepNum 7 0 0 0 0 0 0 0)) 7 ∧
      (program [stepNum 6 0 0 0 0xFFFF 0 0 31] (aRun [] 0)).engPostRefused base.acc
        { key := 0, flag := 31, amt := 0xFFFF, set := false } = none ∧
      AtStep (program [stepNum 6 0 0 0 0xFFFF 0 0 31] (aRun [] 0)) (aRun [] 0) progHead postStep 6) := by
  refine ⟨⟨atStep_of _ _ _ _ _ _ (by decide +kernel), okIs_eq (by decide +kernel), places_low (by decide +kernel) _ _ _ (by decide)⟩,
    ⟨atStep_of _ _ _ _ _ _ (by decide +kernel), okIs_eq (by decide +kernel), by decide +kernel⟩,
    atStep_of _ _ _ _ _ _ (by decide +kernel),
    atStep_low (low_withStep (by decide +kernel) rfl) (by decide +kernel) rfl rfl (by decide) (by decide +kernel) (by decide +kernel),
    by decide +kernel,
    atStep_low (low_withStep (by decide +kernel) rfl) (by decide +kernel) rfl rfl (by decide) (by decide +kernel) (by decide +kernel)⟩

theorem witness_BellowsSteps_loop :
    (AtStep (withStep 7 0 0 0 0xFFFF []) (aRun [] 0) progHead (step1 7 0 0 0 0xFFFF) 7 ∧ (step1 7 0 0 0 0xFFFF).len ≠ 0) ∧
    (looped.bStepAt (aRun [] 0) 2 = .ok (BStep.of (stepNum 8 0 0 0 0 0 0 0)) ∧
      looped.bStepAt (aRun [] 0) 1 = .ok (BStep.of (stepNum 6 0 0 0 0 0 0 0)) ∧
      (BStep.of (stepNum 8 0 0 0 0 0 0 0)).lc = (BStep.of (stepNum 7 0 0 0 0 0 0 0)).lc) ∧
    (AtStep (withStep 8 0 0 0 0 []) (aRun [] 0) progHead (step1 8 0 0 0 0) 8 ∧
      (aRun [] 0).blc[(step1 8 0 0 0 0).lc] = (1, 0, 0)) := by
  have hl : LowMap looped (aRun [] 0).acc := low_withStep (by decide +kernel) rfl
  refine ⟨⟨atStep_of _ _ _ _ _ _ (by decide +kernel), by decide +kernel⟩,
    ⟨bStep_low hl rfl rfl (by decide) (by decide +kernel), bStep_low hl rfl rfl (by decide) (by decide +kernel), by decide +kernel⟩,
    atStep_of _ _ _ _ _ _ (by decide +kernel), by decide +kernel⟩

theorem owns_bgo (st : List Nat) (r : BRun) : OwnsCopy ((program st r).focus 0) bgoCopy 7 := by
  refine ⟨List.mem_singleton.2 rfl, rfl, rfl, rfl, rfl, rfl, rfl, ?_, ?_, ?_, rfl⟩
  · exact fun y hy _ => List.mem_singleton.1 hy
  · exact fun y hy h => absurd (List.mem_singleton.1 hy) h
  · intro k hk hn
    simp [State.keys, State.focus, program, withCopy, base, State.reset] at hk hn
    omega

theorem witness_BellowsSteps_halt :
    (AtStep halted (aRun [] 0) progHead (BStep.of (stepNum 9 0 0 0 0 0 0 0)) 9 ∧
      (aRun [] 0).rest = [] ∧
      (∃ ps, Places halted (aRun [] 0).acc .copy progHead.rec' (2 ^ 37) 64 ps) ∧ bgoCopy.id = (aRun [] 0).copy ∧
      OwnsCopy (halted.focus (aRun [] 0).key) bgoCopy 7 ∧ ∀ k ∈ halted.keys, k = (aRun [] 0).key) ∧
    (failed.bruns.find? (fun p => p.1 == keyDie failed.here && failed.bKind p.2 == 9 && failed.bReady p.2) = some (0, aRun [] 0) ∧
      failed.bNow (aRun [] 0) = .error { cause := 4, status := -3, peer := 0 } ∧ failed.bHead (aRun [] 0) = .ok progHead ∧
      ∃ ps, Places failed (aRun [] 0).acc .copy progHead.rec' (2 ^ 37) 64 ps) := by
  have hl : LowMap failed (aRun [] 0).acc := low_withStep (by decide +kernel) rfl
  have hh : failed.bHead (aRun [] 0) = .ok progHead := bHead_low hl rfl (by decide +kernel)
  have hn : failed.bNow (aRun [] 0) = .error { cause := 4, status := -3, peer := 0 } := by
    rw [State.bNow, hh]
    simp only [bStep_low (t := BStep.of (stepNum 10 0 0 0 0 0 0 0)) hl rfl rfl (show (aRun [] 0).step < 8 by decide) (by decide +kernel)]
    rw [if_neg (by decide), if_neg (by decide), if_pos (by decide +kernel)]
    rfl
  refine ⟨⟨atStep_low (low_withStep (by decide +kernel) rfl) (by decide +kernel) rfl rfl (by decide) (by decide +kernel) (by decide +kernel),
    rfl, places_low (by decide +kernel) _ _ _ (by decide), rfl, owns_bgo _ _, by decide +kernel⟩, ?_, hn, hh,
    places_low (by decide +kernel) _ _ _ (by decide)⟩
  have hk : failed.bKind (aRun [] 0) = 9 := by rw [State.bKind, hn]
  have hr : failed.bReady (aRun [] 0) = true := by rw [State.bReady, hn]
  have hs : failed.bruns = [(0, aRun [] 0)] := rfl
  have hd : keyDie failed.here = 0 := rfl
  rw [hs, hd]
  simp [List.find?, hk, hr]

/-! ### The statements' hypotheses are met: control registers, the package, the host -/

def regSet (s : State) (off : Nat) (v : Nat) : State := { s with dreg := (off, w64 v) :: s.dreg }
/-- A valid log of slot 1 of core 0: opcode 0x0D, its copy ended with −2, its task 7 off its core. -/
def faultedCopy : Copy := { aCopy .bcast (cset 0 0 8 0) .ended with status := -2, task := 8, logged := true }
def logged : State :=
  { regSet base (offEFLOG 0 1 + 0x58) (2 ^ 63 + 0x0D * 2 ^ 48) with
    core := { base.core with copies := [faultedCopy] }, tasks := [{ busy with state := .saved }] }
def mailbox (op : Nat) : State := { base with mbcmd := w64 (2 ^ 62 + op) }
/-- The address of x55 in core 1's register page, and of core 0's duplicate page, which needs it idle. -/
def page1 : BitVec 52 := BitVec.ofNat 52 (0xF * 2 ^ 48 + 2 ^ 38 + 0x800000 + 8 * 55)
def page0 : BitVec 52 := BitVec.ofNat 52 (0xF * 2 ^ 48 + 0x810000)
def restart : Word := w64 (2 ^ 63 + 2 ^ 7)

theorem witness_ControlWrites :
    (base.dget (keyDie base.here) offTLBINV).getLsbD 0 = false ∧
    (((regSet base offTLBINV 1).dget 0 offTLBINV).getLsbD 0 = true ∧
      (∀ k ∈ (regSet base offTLBINV 1).keys, ((regSet base offTLBINV 1).coreOf k).tlbOpen 1 = false) ∧
      (regSet base offTLBINV 1).bruns = [] ∧ (regSet base offTLBINV 1).frames = []) ∧
    (restart.getLsbD 63 = true ∧ base.restarting 0 = false ∧ (base.dget 0 (offEFLOG 0 1 + 0x58)).getLsbD 63 = false ∧
      ((0 : Word).getLsbD 63 = false)) ∧
    (restart.getLsbD 63 = true ∧ logged.restarting 0 = false ∧ natBits restart.toNat 6 0 = 0 ∧ natBits restart.toNat 7 7 = 1 ∧
      (logged.dget 0 (offEFLOG 0 1 + 0x58)).getLsbD 63 = true ∧
      natBits (logged.dget 0 (offEFLOG 0 1 + 0x58)).toNat 55 48 ∈ [0x08, 0x09, 0x0A, 0x0B, 0x0D] ∧
      (logged.coreOf 0).copies.find? (fun y => y.slot == 1 && y.state == .ended && y.logged) = some faultedCopy ∧
      (∀ y ∈ (logged.coreOf 0).copies, y.slot = 1 → y.state ≠ .running) ∧
      ∃ k ∈ logged.tasks, k.id + 1 = faultedCopy.task ∧ k.state = .saved) ∧
    ((mailbox 1).mbBusy = true ∧ base.mbBusy = false ∧ base.bar0Up = true ∧ State.reset.bar0Up = false ∧ 0x1008 < bar0) ∧
    ((∀ i, i < 8 → locate (page1.toNat + i) = .win (.regs 1 false (8 * 55 + i))) ∧ base.pendingTok 1 55 = false) ∧
    base.idleRange page0.toNat = true := by
  refine ⟨by decide +kernel, ⟨by decide +kernel, by decide +kernel, rfl, rfl⟩, by decide +kernel,
    ⟨by decide +kernel, by decide +kernel, by decide +kernel, by decide +kernel, by decide +kernel, by decide +kernel, by decide +kernel, by decide +kernel, { busy with state := .saved }, List.mem_singleton.2 rfl,
    rfl, rfl⟩, by decide +kernel, ⟨by decide +kernel, by decide +kernel⟩, by decide +kernel⟩

theorem no_member (s : State) (h1 : s.gValid 1 = false) (h : ∀ g, g < 256 → g ≠ 1 → s.gValid g = false) (d : Nat) :
    NoMember s d := by
  intro g hg m hm
  have hv : s.gValid g = false := by
    by_cases hg1 : g = 1
    · exact hg1 ▸ h1
    · exact h g hg hg1
  have := hm.1.1
  rw [hv] at this
  cases this

theorem idle_reset : Core.reset.rel = [] ∧ Core.reset.outst = [] ∧ Core.reset.hops = [] ∧ Core.reset.copies = [] :=
  ⟨rfl, rfl, rfl, rfl⟩
theorem no_rest {c : Core} (h : c.rel = [] ∧ c.outst = [] ∧ c.hops = [] ∧ c.copies = []) :
    c.rel = [] ∧ c.outst = [] ∧ c.hops = [] ∧ ∀ x ∈ c.copies, x.rest = none :=
  ⟨h.1, h.2.1, h.2.2.1, fun _ hx => absurd (h.2.2.2 ▸ hx) (List.not_mem_nil)⟩

theorem port_idle (s : State) (hp : s.parked = []) (hc : s.core.rel = [] ∧ s.core.outst = [] ∧ s.core.hops = [] ∧ s.core.copies = [] ∧ s.bruns = [] ∧ s.frames = []) :
    PortIdle s := by
  obtain ⟨h1, h2, h3, h4, h5, h6⟩ := hc
  refine ⟨fun k => no_rest ?_, fun p hx => absurd (h5 ▸ hx) List.not_mem_nil, h6⟩
  rw [State.coreOf, hp]
  split
  · exact ⟨h1, h2, h3, h4⟩
  · exact idle_reset

/-- A store to die 1 has been accepted by die 0's port. -/
def crossing : State := { noGroups with core := { noGroups.core with rel := [.store (2 ^ 36) [1, 2] base.acc] } }

theorem witness_PackageEvents :
    keyDie base.here < 8 ∧ (∀ d, NoMember noGroups d) ∧ PortIdle noGroups ∧
    (crossing.core.rel = [.store (2 ^ 36) [1, 2] base.acc] ∧
      PortIdle { crossing with core := { crossing.core with rel := [] } } ∧
      NoMember (crossing.homeWrite (2 ^ 36) [1, 2]) 0 ∧ portCross 0 crossing.here (2 ^ 36) = true ∧ crossing.Inv ∧
      ∀ i, i < [(1 : Byte), 2].length → memLoc (locate (2 ^ 36 + i)) = true) ∧
    ({ base with hubDown := 1 } : State).hubDown.getLsbD 0 = true ∧ base.hubDown.getLsbD 0 = false ∧ base.hot.getLsbD 0 = false ∧
    base.mayOpen 0 = true ∧ ({ base with hubDown := 1 } : State).mayOpen 0 = false :=
  ⟨by decide +kernel, no_member _ (by decide +kernel) (groups_of _ (by decide +kernel)), port_idle _ rfl ⟨rfl, rfl, rfl, rfl, rfl, rfl⟩,
    ⟨rfl, port_idle _ rfl ⟨rfl, rfl, rfl, rfl, rfl, rfl⟩, no_member _ (by decide +kernel) (groups_of _ (by decide +kernel)) 0, by decide +kernel,
      inv_of (by decide +kernel), by decide +kernel⟩, rfl, by decide +kernel, rfl, by decide +kernel, by decide +kernel⟩

def noted : State := { base with notes := [{ die := 0, word := w64 (2 ^ 63) }] }
def anOutst : Outst :=
  { seq := 0, pcb := 0x4000, ld := none, xd := some 7, val := 0x40, lq := none, pair := none, fault := none, host := true }
def outstanding : State := { base with core := { base.core with outst := [anOutst] } }
def withheldStore : State := full base 0
def hostStore : State := { base with core := { base.core with whb := [.store 0x40 (0xE * 2 ^ 48) [1, 2] false base.acc] } }

/-- A copy from a page of the host: the second gigabyte maps there. -/
def hostCopy : Copy := aCopy .go (cset (2 ^ 62 + 2 ^ 30) 64 8 0) .running
def hosted : State := put64 (withCopy hostCopy) 0x3008 (pteGig (0xE * 2 ^ 48))
theorem owns_hosted : OwnsCopy hosted hostCopy 7 := owns hostCopy ⟨rfl, rfl, rfl, rfl⟩
theorem witness_HostAccesses_late : hosted.core.copies[0]? = some hostCopy ∧ OwnsCopy hosted hostCopy 7 ∧ hostCopy.state = .running ∧
    hostCopy.early = none ∧ hostCopy.op ≠ .pfd ∧ hosted.cHosted hostCopy = true := by
  refine ⟨rfl, owns_hosted, rfl, rfl, by decide, by decide +kernel⟩

theorem witness_HostAccesses :
    ((∀ p ∈ hdmAddrs (48 * 2 ^ 30 - 1) 2, memLoc (locate p) = true) ∧ base.Inv ∧
      State.hostRefused .reset .wr (hdmAddrs (384 * 2 ^ 30 - 1) 1) = true) ∧
    (∀ p ∈ bar2Addrs (BitVec.ofNat 52 (0xF * 2 ^ 48 + 127 * 2 ^ 38)) 2, memLoc (locate p) = true) ∧
    ((BitVec.ofNat 52 (0xF * 2 ^ 48 + 127 * 2 ^ 38)).toNat / 2 ^ 48 = 0xF ∧ base.bar0Up = true ∧ State.reset.bar0Up = false) ∧
    (base.notes.find? (fun n => n.die == 0) = none ∧ noted.notes.find? (fun n => n.die == 0) = some { die := 0, word := w64 (2 ^ 63) } ∧
      ∀ p ∈ noted.launches, p.1 = 0 → p.2.ended = false) ∧
    (outstanding.core.outst[0]? = some anOutst ∧ (∀ x ∈ outstanding.core.outst, x.fault = none) ∧
      State.CanTrap { outstanding with core := { outstanding.core with outst := [] } }) ∧
    (hostStore.core.whb[0]? = some (.store 0x40 (0xE * 2 ^ 48) [1, 2] false base.acc) ∧ isHostPa (0xE * 2 ^ 48) = true) := by
  refine ⟨⟨by decide +kernel, inv_of (by decide +kernel), by decide +kernel⟩, by decide +kernel, by decide +kernel,
    ⟨by decide +kernel, by decide +kernel, by decide +kernel⟩, ⟨rfl, by decide +kernel, canTrap_of (by decide +kernel)⟩, rfl, by decide +kernel⟩

theorem witness_HostAccesses_granted : ∃ s : State, s.hostRefused .wr (hdmAddrs 0 2) = false ∧ s.hostRefused .rd (bar2Addrs (BitVec.ofNat 52 (0xF * 2 ^ 48)) 2) = false ∧
    s.Inv := ⟨base, by decide +kernel, by decide +kernel, inv_of (by decide +kernel)⟩

/-- A manifest of one entry at 0x40000: SRC 0x50000, LEN 4, DST 0x60000, written by this device or another. -/
def manifest (who : Byte) : State :=
  { mailbox 2 with
    mbarg := 0x40000
    mem := baseMem ++ [(0x40000, 1), (0x4000A, 5), (0x40010, 4), (0x4001A, 6)] ++ cellsAt 0x40024 [who] }

theorem witness_MailboxAndBringUp :
    ((mailbox 1).mbBusy = true ∧ (mailbox 1).mbOpc = 1) ∧
    ((mailbox 255).mbBusy = true ∧ (mailbox 255).mbOpc ≠ 1 ∧ (mailbox 255).mbOpc ≠ 2) ∧
    ((manifest 0).mbBusy = true ∧ (manifest 0).mbOpc = 2 ∧ OneEntry (manifest 0) ∧
      rdNat (manifest 0).mem (0x40008 + 28) 4 = (manifest 0).device ∧ rdNat (manifest 0).mem 0x40010 8 = 4 ∧
      (∀ i, i < 4 → memLoc (locate (0x50000 + i)) = true) ∧ (∀ i, i < 4 → memLoc (locate (0x60000 + i)) = true)) ∧
    (OneEntry (manifest 5) ∧ rdNat (manifest 5).mem (0x40008 + 28) 4 ≠ (manifest 5).device) ∧
    (natBits (w64 0x601).toNat 7 0 ≠ 0 ∧ State.reset.bootstat.getLsbD 63 = false ∧ natBits State.reset.bootstat.toNat 7 0 = 0 ∧
      natBits State.reset.bootstat.toNat 15 8 + 1 = 1 ∧ natBits (w64 0x500).toNat 15 8 + 1 = 6) := by
  refine ⟨by decide +kernel, by decide +kernel, ⟨by decide +kernel, by decide +kernel,
    ⟨by decide +kernel, by decide +kernel, by decide +kernel, inv_of (by decide +kernel)⟩, by decide +kernel, by decide +kernel,
    by decide +kernel, by decide +kernel⟩, ⟨⟨by decide +kernel, by decide +kernel, by decide +kernel, inv_of (by decide +kernel)⟩,
    by decide +kernel⟩, by decide +kernel⟩

/-! ### The statements' hypotheses are met: a step -/

/-- The bundle of `base`, and one with K, about to be fetched. -/
def about (m : List Host.Cell) : State := { base with mem := m, core := { base.core with iss := {} } }
def addWords : List Syl := placeSyls 32 0x0080A30E
/-- A bundle of `sysc` alone, which needs K: spec/07 R197. -/
def sysMem : List Host.Cell := placeMem [] 0 32 0x2E000013
def sysWords : List Syl := placeSyls 32 0x2E000013

def bundleOf (ws : List Syl) : Bundle := got (decodeBundle false ws) { hdr := hdrOf 0, ops := [], len := 0 }
def addOp : IOp := { slot := .s, guard := 0, op := .add 5 (.x 6) (.reg (.x 7)), again := false, thr := 0, on := true }
def sysOp : IOp := { slot := .s, guard := 0, op := .sysc (.short 9), again := false, thr := 0, on := true }

/-- The parts of `Enters` but its start, and what the slots of the bundle come to, as a test. -/
def entersB (s : State) (ws : List Syl) (u : State) (is : List IOp) : Bool :=
  let b := bundleOf ws
  !s.issueShut && !s.core.iss.live && decide (s.settle = s) && !s.core.fillWait && s.core.pend.isNone && s.core.task.isNone &&
  u.repMode == 0 && okIs (s.fetch s.core.pc) ws && okIs (u.decoded ws) b && (u.privTrap b).isNone &&
  (u.preemptNow b).isNone && b.hdr.rc == 0 && !b.hdr.w &&
  (match u.planSlots b with
    | .go t c l tk => decide (t = u) && decide (c = b) && decide (l = is) && !tk
    | _ => false)

theorem enters_of {s u : State} {ws : List Syl} {is : List IOp} (h : entersB s ws u is = true)
    (hs : if (hdrOf (ws.headD 0)).k = true ∧ s.onSaffron = false then
        s.Quiet ∧ (s.begin ws).pushesFit = true ∧
        (let r := (s.begin ws).checkpoint s.core.pc
        refusedTrap s.core.seq s.core.pc r.2 = none ∧
        u = { r.1 with core := { r.1.core with
          iss := { r.1.core.iss with ck := true }, acnt := if (hdrOf (ws.headD 0)).a then 0 else r.1.core.acnt } })
      else u = s.begin ws) :
    Enters s ws (bundleOf ws) u ∧ u.planSlots (bundleOf ws) = .go u (bundleOf ws) is false ∧ (bundleOf ws).hdr.rc = 0 ∧
      (bundleOf ws).hdr.w = false := by
  simp only [entersB, Bool.and_eq_true, Bool.not_eq_true', decide_eq_true_eq, Option.isNone_iff_eq_none, beq_iff_eq] at h
  obtain ⟨⟨⟨⟨⟨⟨⟨⟨⟨⟨⟨⟨⟨h1, h2⟩, h3⟩, h4⟩, h5⟩, h6⟩, h7⟩, h8⟩, h9⟩, ha⟩, hb⟩, hc⟩, hd⟩, he⟩ := h
  refine ⟨⟨⟨h1, h2, h3, h4, h5⟩, by simpa [State.NoReplay] using h7, okIs_eq h8, okIs_eq h9, ha, fun _ => hb, hs⟩, ?_, hc, hd⟩
  · revert he
    cases u.planSlots (bundleOf ws) with
    | stall t => intro he; cases he
    | stop t => intro he; cases he
    | go t c l tk =>
      intro he
      simp only [Bool.and_eq_true, decide_eq_true_eq, Bool.not_eq_true'] at he
      obtain ⟨⟨⟨e1, e2⟩, e3⟩, e4⟩ := he
      rw [e1, e2, e3, e4]

def adding : State := about baseMem
def syscalling : State := about sysMem
def checked (s : State) (ws : List Syl) : State :=
  let r := (s.begin ws).checkpoint s.core.pc
  { r.1 with core := { r.1.core with iss := { r.1.core.iss with ck := true }, acnt := if (hdrOf (ws.headD 0)).a then 0 else r.1.core.acnt } }

theorem witness_Enters_add :
    Enters adding addWords (bundleOf addWords) (adding.begin addWords) ∧
    (adding.begin addWords).planSlots (bundleOf addWords) = .go (adding.begin addWords) (bundleOf addWords) [addOp] false ∧
    (bundleOf addWords).hdr.rc = 0 ∧ (bundleOf addWords).hdr.w = false :=
  enters_of (by decide +kernel) (by rw [if_neg (by decide +kernel)])

/-- A bundle without an operation: a header with E = 1. -/
def noWords : List Syl := [0x80000000]
def baseMem0 : List Host.Cell := [(8192, 1), (8194, 12), (12288, 231), (12289, 1), (16387, 128)]
theorem witness_Enters_nothing :
    Enters (about baseMem0) noWords (bundleOf noWords) ((about baseMem0).begin noWords) ∧
    ((about baseMem0).begin noWords).planSlots (bundleOf noWords) =
      .go ((about baseMem0).begin noWords) (bundleOf noWords) [] false ∧
    (bundleOf noWords).hdr.rc = 0 ∧ (bundleOf noWords).hdr.w = false :=
  enters_of (by decide +kernel) (by rw [if_neg (by decide +kernel)])

theorem witness_Enters_sysc :
    Enters syscalling sysWords (bundleOf sysWords) (checked syscalling sysWords) ∧
    (checked syscalling sysWords).planSlots (bundleOf sysWords) = .go (checked syscalling sysWords) (bundleOf sysWords) [sysOp] false ∧
    (bundleOf sysWords).hdr.rc = 0 ∧ (bundleOf sysWords).hdr.w = false :=
  enters_of (by decide +kernel) (by
    rw [if_pos (by decide +kernel)]
    exact ⟨⟨rfl, rfl, rfl, rfl, rfl, rfl⟩, by decide +kernel, by decide +kernel, rfl⟩)

/-- Group 1 reads VALID 0 while a number of it is open. -/
def departing : State := { base with homes := [aHome [] 3] }
/-- An addition leaves its bundle open, and a system call taken ends it: both ends of the statement are met. -/
theorem witness_StepRunsTheDecodedInstruction :
    next (exec addOp.op (atOp (adding.begin addWords) addOp)) (fun v => v.core.iss.live && v.core.iss.leave.isNone &&
      v.core.iss.ending == 0 && v.core.cyc == (adding.begin addWords).core.cyc) = true ∧
    next (exec sysOp.op (atOp (checked syscalling sysWords) sysOp)) (fun v => !v.core.iss.live) = true ∧
    (addOp.on = true ∧ addOp.op.slotOp = true ∧ (addOp.op.mStart.all fun p => !hIsJoin p.1) = true ∧ sysOp.op.slotOp = true) ∧
    (({ base with agenda := [{ who := 208, ev := .bundleIssue }] } : State).forced = none ∧ agentExists 208 = true ∧ agentExists 209 = false) ∧
    ((departing).fencing = 0 ∧ departing.invalidated = some 1 ∧ agentExists departing.here = true) ∧
    (({ base with fencing := 128 } : State).fencing ≠ 0) ∧
    (crossed.fencing = 0 ∧ crossed.invalidated = none ∧ crossed.keys.find? (fun k => (crossed.focus k).pastBound) = some 0) ∧
    (waitedLong.fencing = 0 ∧ waitedLong.invalidated = none ∧ (∀ j ∈ waitedLong.keys, (waitedLong.focus j).pastBound = false) ∧
      waitedLong.keys.find? (fun k => (waitedLong.focus k).joinLate) = some 0) ∧
    ((withCopy armed).fencing = 0 ∧ (withCopy armed).invalidated = none ∧
      (∀ j ∈ (withCopy armed).keys, ((withCopy armed).focus j).pastBound = false) ∧
      (∀ j ∈ (withCopy armed).keys, ((withCopy armed).focus j).joinLate = false) ∧
      (withCopy armed).keys.findSome? (fun k => ((withCopy armed).focus k).armNext.map (k, ·)) = some (0, armed)) ∧
    base.agenda = [] ∧ Unpinned base ∧
    (State.chosen { State.reset with ctr := 1 } = none ∧ base.events ≠ [] ∧ ∀ e ∈ base.events, agentExists e.who = true) := by
  refine ⟨by decide +kernel, by decide +kernel, ⟨rfl, rfl, rfl, rfl⟩, ⟨by decide +kernel, by decide, by decide⟩,
    ⟨rfl, by decide +kernel, by decide⟩, by decide, ⟨rfl, by decide +kernel, by decide +kernel⟩,
    ⟨rfl, by decide +kernel, by decide +kernel, by decide +kernel⟩,
    ⟨rfl, by decide +kernel, by decide +kernel, by decide +kernel, by decide +kernel⟩, rfl, fun _ hk _ => absurd hk List.not_mem_nil,
    by decide +kernel, by decide +kernel, by decide +kernel⟩

theorem witness_EncodedOperationsDecode :
    (Instr.add 5 (.x 6) (.reg (.x 7))).wf = true ∧ (Instr.add 5 (.x 6) (.reg (.x 7))).slotOp = true ∧
    encode .s true 15 (.add 5 (.x 6) (.reg (.x 7))) = some [0x80F8A30E] := ⟨rfl, rfl, rfl⟩

theorem witness_StepsKeepTheMemoryForm : base.Inv ∧
    (next (step { base with agenda := [{ who := 0, ev := .bundleIssue }] }) fun _ => true) = true ∧ State.reset.Inv :=
  ⟨inv_of (by decide +kernel), by decide +kernel, rfl⟩

theorem witness_NothingStops : base.AgentsExist ∧ State.reset.AgentsExist :=
  ⟨⟨by decide, by decide, by decide⟩, by decide, by decide, by decide⟩

end Sys2Proof.Tests
end

/-!
The memory keeps its canonical form (O58). Each function of the model that answers a state either leaves the memory alone
(`f_mem`) or keeps its form (`f_inv`); one that may answer nothing has the same as a rule about what it answers. The rules stand
in the order of the definitions; those of the instructions are put together in `runSlot_inv` and `exec_inv`.
-/
namespace Sys2Proof.MemoryForm
open Machine Laws

/-- The machine goes on, to a state of which `P` holds. -/
def Answers (P : State → Prop) (r : Res) : Prop := ∃ t, r = .next t ∧ P t

@[simp] theorem answers_next (P : State → Prop) (t : State) : Answers P (.next t) ↔ P t :=
  ⟨fun ⟨_, e, h⟩ => by cases e; exact h, fun h => ⟨t, rfl, h⟩⟩

theorem Answers.form_of_mem {s : State} {r : Res} (hr : Answers (fun t => t.mem = s.mem) r) (h : Memory.wf s.mem = true) :
    Answers (fun t => Memory.wf t.mem = true) r := by
  obtain ⟨t, e, ht⟩ := hr
  exact ⟨t, e, by simpa [ht] using h⟩

theorem foldl_wf {α : Type} (f : State → α → State) (hf : ∀ s a, Memory.wf s.mem = true → Memory.wf (f s a).mem = true)
    (l : List α) (s : State) (h : Memory.wf s.mem = true) : Memory.wf (l.foldl f s).mem = true :=
  foldl_inv (fun t : State => Memory.wf t.mem = true) f hf l s h

/-! ### The laws of the memory, for `simp` -/

@[simp] theorem wf_wrByte (s : State) (a : Nat) (v : Byte) (h : Memory.wf s.mem = true) : Memory.wf (s.wrByte a v).mem = true :=
  wrByte_inv s a v h

@[simp] theorem wf_wrBytes (s : State) (a : Nat) (bs : List Byte) (h : Memory.wf s.mem = true) :
    Memory.wf (s.wrBytes a bs).mem = true := wrBytes_inv bs s a h

@[simp] theorem wf_homeWrite (s : State) (pa : Nat) (bs : List Byte) (h : Memory.wf s.mem = true) :
    Memory.wf (s.homeWrite pa bs).mem = true := homeWrite_inv s pa bs h

@[simp] theorem wf_qAppend (s : State) (d q : Nat) (m : Msg) (h : Memory.wf s.mem = true) :
    Memory.wf (s.qAppend d q m).mem = true := qAppend_inv s d q m h

@[simp] theorem wf_performStore (s : State) (k pa : Nat) (bs : List Byte) (h : Memory.wf s.mem = true) :
    Memory.wf (s.performStore k pa bs).mem = true := performStore_inv s k pa bs h

@[simp] theorem wf_performRel (s : State) (k : Nat) (e : Released) (h : Memory.wf s.mem = true) :
    Memory.wf (s.performRel k e).mem = true := performRel_inv s k e h

@[simp] theorem wf_flushRel (s : State) (k : Nat) (h : Memory.wf s.mem = true) : Memory.wf (s.flushRel k).mem = true :=
  flushRel_inv s k h

@[simp] theorem wf_putAt (s : State) (as : List Nat) (bs : List Byte) (h : Memory.wf s.mem = true) :
    Memory.wf (s.putAt as bs).mem = true := putAt_inv s as bs h

@[simp] theorem mem_landAt (s : State) (i : Nat) : (s.landAt i).mem = s.mem := landAt_mem s i

@[simp] theorem mem_landLoop (lim n : Nat) (s : State) : (landLoop lim n s).mem = s.mem := landLoop_mem lim n s

/-! ### Machine/Access -/

@[simp] theorem wrNat_inv (s : State) (a n v : Nat) (h : Memory.wf s.mem = true) :
    Memory.wf (s.wrNat a n v).mem = true := by simp [State.wrNat, h]

/-! ### Machine/Flags -/

@[simp] theorem draw_mem (s : State) (n : Nat) : (s.draw n).2.mem = s.mem := by
  unfold State.draw
  split <;> simp

@[simp] theorem draw1_mem (s : State) : s.draw1.2.mem = s.mem := by simp [State.draw1]

/-! ### Machine/Hearth -/

@[simp] theorem hPanel_mem (s : State) (o : HOp) : (s.hPanel o).1.mem = s.mem := by
  unfold State.hPanel
  simp [foldl_mem]

@[simp] theorem hLandTo_mem (s : State) (o : HOp) (hi : Nat) : (s.hLandTo o hi).1.mem = s.mem := by
  unfold State.hLandTo
  repeat' split
  all_goals simp

@[simp] theorem hLand_mem (s : State) (o : HOp) : (s.hLand o).mem = s.mem := by simp [State.hLand]

@[simp] theorem hLandFirst_mem (s : State) : s.hLandFirst.mem = s.mem := by
  unfold State.hLandFirst
  split <;> simp

@[simp] theorem hStepFirst_mem (s : State) : s.hStepFirst.mem = s.mem := by
  unfold State.hStepFirst
  dsimp only
  repeat' split
  all_goals simp

@[simp] theorem hLandAll_mem (s : State) : s.hLandAll.mem = s.mem := by
  simp [State.hLandAll, foldl_mem]

/-! ### Machine/Copy -/

@[simp] theorem cnetFire_mem (s : State) (key id : Nat) : (s.cnetFire key id).mem = s.mem := by simp [State.cnetFire]

@[simp] theorem coreTok_mem (s : State) (k r : Nat) (x : Copy) (live dup : Bool) :
    (s.coreTok k r x live dup).mem = s.mem := by simp [State.coreTok]

@[simp] theorem writeTok_inv (s : State) (key : Nat) (x : Copy) (h : Memory.wf s.mem = true) :
    Memory.wf (s.writeTok key x).mem = true := by
  unfold State.writeTok
  dsimp only
  repeat' split
  all_goals simp [h]

@[simp] theorem logFault_mem (s : State) (key slot : Nat) (img : CImg) (row : Nat) (status : Int) (faddr : Word)
    (op code ctx : Nat) : (s.logFault key slot img row status faddr op code ctx).mem = s.mem := by
  unfold State.logFault
  dsimp only
  rw [dset_mem, dset_mem, dset_mem, foldl_mem _ (fun s i => dset_mem s _ _ _), modCore_mem]

@[simp] theorem putList_inv (s : State) (ws : List (Nat × Byte)) (h : Memory.wf s.mem = true) :
    Memory.wf (s.putList ws).mem = true := by simp [State.putList, h]

@[simp] theorem settleTok_inv (s : State) (key : Nat) (x : Copy) (h : Memory.wf s.mem = true) :
    Memory.wf (s.settleTok key x).mem = true := by
  simp only [State.settleTok, foldl_mem, modCore_mem, implies_true]
  exact foldl_wf _ (fun s p h => by simp [h]) _ _ h

@[simp] theorem noteDirect_mem (s : State) (key : Nat) (as : List Nat) :
    (s.noteDirect key as).mem = s.mem := by simp [State.noteDirect]

@[simp] theorem asOf_mem (s : State) (n step : Nat) : (s.asOf n step).mem = s.mem := by simp [State.asOf]

@[simp] theorem putRest_inv (s : State) (at0 : Nat) (ws : List (Nat × Byte)) (h : Memory.wf s.mem = true) :
    Memory.wf (s.putRest at0 ws).mem = true := by simp [State.putRest, h]

@[simp] theorem restPart_inv (s : State) (bad : Nat → Bool) (q : Rest) (h : Memory.wf s.mem = true) :
    Memory.wf (s.restPart bad q).1.mem = true := by simp [State.restPart, h]

@[simp] theorem frameTail_inv (s : State) (f : Frame) (h : Memory.wf s.mem = true) :
    Memory.wf (s.frameTail f).mem = true := by simp [State.frameTail, h]

@[simp] theorem placeCopy_inv (s : State) (key : Nat) (x : Copy) (ws : List (Nat × Byte)) (h : Memory.wf s.mem = true) :
    Memory.wf (s.placeCopy key x ws).1.mem = true := by
  unfold State.placeCopy
  repeat' split
  all_goals simp [h]

@[simp] theorem setCopy_mem (s : State) (key : Nat) (x : Copy) : (s.setCopy key x).mem = s.mem := by simp [State.setCopy]

@[simp] theorem endCopy_inv (s : State) (key : Nat) (x : Copy) (r : CRes) (h : Memory.wf s.mem = true) :
    Memory.wf (s.endCopy key x r).mem = true := by
  unfold State.endCopy
  split <;> simp [h]

@[simp] theorem copyPart_inv (s : State) (key : Nat) (x : Copy) (r : CRes) (h : Memory.wf s.mem = true) :
    Memory.wf (s.copyPart key x r).mem = true := by simp [State.copyPart, h]

@[simp] theorem copyPartAt_inv (s : State) (i : Nat) (h : Memory.wf s.mem = true) : Memory.wf (s.copyPartAt i).mem = true := by
  unfold State.copyPartAt
  split
  · exact h
  · split <;> simp [h]

@[simp] theorem portCopy_inv (s : State) (cross : Nat → Bool) (key : Nat) (x : Copy) (h : Memory.wf s.mem = true) :
    Memory.wf (s.portCopy cross key x).mem = true := by
  unfold State.portCopy
  split
  · exact h
  · split
    · exact h
    · split
      · simp [h]
      · split <;> simp [h]

@[simp] theorem copyLate_inv (s : State) (x : Copy) (h : Memory.wf s.mem = true) :
    Memory.wf (s.copyLate x).mem = true := by simp [State.copyLate, h]

/-! ### Machine/Ops -/

@[simp] theorem writeResult_mem (s : State) (o : Outst) : (s.writeResult o).mem = s.mem := by simp [State.writeResult]

@[simp] theorem performHeld_inv (s : State) (key pa : Nat) (data : List Byte) (h : Memory.wf s.mem = true) :
    Memory.wf (s.performHeld key pa data).mem = true := by simp [State.performHeld, h]

@[simp] theorem relAt_inv (s : State) (key i : Nat) (h : Memory.wf s.mem = true) : Memory.wf (s.relAt key i).mem = true := by
  unfold State.relAt
  dsimp only
  split
  · exact h
  · split <;> simp [h]
  · split
    · rw [doPost_mem]
      exact foldl_wf _ (fun s e h => by simp [h]) _ _ (by simpa using h)
    · exact h

theorem qTake_mem {s : State} {die q : Nat} {m : Msg} {t : State} (e : s.qTake die q = some (m, t)) : t.mem = s.mem := by
  unfold State.qTake at e
  dsimp only at e
  split at e
  · cases e
  · cases e; rfl

@[simp] theorem disarm_inv (s : State) (key : Nat) (x : Copy) (h : Memory.wf s.mem = true) :
    Memory.wf (s.disarm key x).mem = true := by simp [State.disarm, h]

@[simp] theorem startNow_inv (s : State) (key : Nat) (x : Copy) (h : Memory.wf s.mem = true) :
    Memory.wf (s.startNow key x).mem = true := by
  unfold State.startNow
  split <;> simp [h]

@[simp] theorem startHeld_inv (s : State) (key id : Nat) (h : Memory.wf s.mem = true) :
    Memory.wf (s.startHeld key id).mem = true := by
  unfold State.startHeld
  split
  · exact h
  · split <;> simp [h]

@[simp] theorem releaseOne_inv (s : State) (key : Nat) (late : Bool) (e : WEntry) (h : Memory.wf s.mem = true) :
    Memory.wf (s.releaseOne key late e).1.mem = true := by
  cases e with
  | store ea pa data strong a =>
    simp only [State.releaseOne]
    split
    · exact h
    · split
      · exact performHeld_inv _ _ _ _ (foldl_wf _ (fun s e h => by simp [h]) _ _ (by simpa using h))
      · simpa using h
  | push qv msg a => simp only [State.releaseOne]; split <;> simp [h]
  | post xt own p a => simp only [State.releaseOne]; split <;> simp [h]
  | cdis _ tok => exact foldl_wf _ (fun s y h => by simp [h]) _ _ h
  | land _ | cpost _ | carm _ | cnet _ | bgo _ => simp [State.releaseOne, h]

@[simp] theorem releaseList_inv (key : Nat) (late : List Nat) (es : List WEntry) : ∀ (i : Nat) (p : State × List Refused),
    Memory.wf p.1.mem = true → Memory.wf (releaseList key late i es p).1.mem = true := by
  induction es with
  | nil => intro i p h; exact h
  | cons e es ih => intro i p h; exact ih _ _ (releaseOne_inv _ _ _ e (by simpa using h))

@[simp] theorem release_inv (s : State) (h : Memory.wf s.mem = true) :
    Memory.wf s.release.1.mem = true := by simp [State.release, h]

@[simp] theorem saffronDone_inv (s : State) (cause : Nat) (pcb : Word) (h : Memory.wf s.mem = true) :
    Memory.wf (s.saffronDone cause pcb).mem = true := by
  unfold State.saffronDone
  dsimp only
  repeat' split
  all_goals simp [h]

@[simp] theorem landEverything_mem (s : State) : s.landEverything.mem = s.mem := by simp [State.landEverything]

@[simp] theorem rollback_mem (s : State) : s.rollback.mem = s.mem := by simp [State.rollback]

@[simp] theorem enterTrap_mem (s : State) (t : TrapInfo) : (s.enterTrap t).mem = s.mem := by
  unfold State.enterTrap
  dsimp only
  repeat' split
  all_goals simp

@[simp] theorem takeTrap_inv (s : State) (t : TrapInfo) (h : Memory.wf s.mem = true) : Memory.wf (s.takeTrap t).mem = true := by
  unfold State.takeTrap
  dsimp only
  repeat' split
  all_goals simp [h]

@[simp] theorem trap_inv (s : State) (cause detail : Nat) (addr : Word) (h : Memory.wf s.mem = true) :
    Memory.wf (s.trap cause detail addr).mem = true := by simp [State.trap, h]

@[simp] theorem returnTrap_mem (s : State) : s.returnTrap.mem = s.mem := by simp [State.returnTrap]

@[simp] theorem poison_inv (s : State) (h : Memory.wf s.mem = true) : Memory.wf s.poison.mem = true := by
  unfold State.poison
  dsimp only
  split
  · exact h
  · exact foldl_wf _ (fun s p h => by simp [h]) _ _ h

@[simp] theorem checkpoint_inv (s : State) (pcb : Word) (h : Memory.wf s.mem = true) :
    Memory.wf (s.checkpoint pcb).1.mem = true := by
  unfold State.checkpoint
  dsimp only
  repeat' split
  all_goals simp [h]

/-! ### Machine/Replay -/

@[simp] theorem logAt_inv (s : State) (die tag icnt place ctx kind value aux pair : Nat) (h : Memory.wf s.mem = true) :
    Memory.wf (s.logAt die tag icnt place ctx kind value aux pair).mem = true := by
  unfold State.logAt
  dsimp only
  repeat' split
  all_goals simp [h]

@[simp] theorem logRec_inv (s : State) (kind value aux pair : Nat) (h : Memory.wf s.mem = true) :
    Memory.wf (s.logRec kind value aux pair).mem = true := by simp [State.logRec, h]

@[simp] theorem consume_inv (s : State) (r : Rec) (h : Memory.wf s.mem = true) : Memory.wf (s.consume r).mem = true := by
  unfold State.consume
  exact wrByte_inv _ _ _ h

/-- A record taken is marked consumed. The kernel must open `replayed` before the `match` in it: it would else run the
search for the record. -/
theorem replayed_eq {s : State} {kind : Nat} {r : Rec} {t : State} (e : s.replayed kind = some (r, t)) : t = s.consume r := by
  generalize hf : State.replayed = f at e
  delta State.replayed at hf
  subst hf
  dsimp only at e
  split at e
  · split at e
    · cases e; rfl
    · cases e
  · cases e

theorem replayed_inv {s : State} {kind : Nat} {r : Rec} {t : State} (e : s.replayed kind = some (r, t))
    (h : Memory.wf s.mem = true) :
    Memory.wf t.mem = true := by
  rw [replayed_eq e]; exact consume_inv s r h

@[simp] theorem diverge_inv (s : State) (h : Memory.wf s.mem = true) :
    Memory.wf s.diverge.mem = true := by simp [State.diverge, h]

/-! ### Machine/Scalar -/

@[simp] theorem toX_mem (s : State) (lat : Nat) (d : XReg) (v : Word) (f : Fl) :
    (s.toX lat d v f).mem = s.mem := by simp [State.toX]

@[simp] theorem toPair_mem (s : State) (lat : Nat) (p : Pair) (b : Bool) (f : Fl) :
    (s.toPair lat p b f).mem = s.mem := by simp [State.toPair]

@[simp] theorem sqLands_mem (s : State) : s.sqLands.mem = s.mem := by simp [State.sqLands]

@[simp] theorem bin_mem (s : State) (lat : Nat) (f : Word → Word → Word) (d : XReg) (a : Src) (b : Opnd) :
    Answers (fun t => t.mem = s.mem) (s.bin lat f d a b) := by simp [State.bin]

@[simp] theorem una_mem (s : State) (lat : Nat) (f : Word → Word) (d : XReg) (a : Src) :
    Answers (fun t => t.mem = s.mem) (s.una lat f d a) := by simp [State.una]

@[simp] theorem cmp_mem (s : State) (f : Word → Word → Bool) (p : Pair) (a : Src) (b : Opnd) :
    Answers (fun t => t.mem = s.mem) (s.cmp f p a b) := by simp [State.cmp]

@[simp] theorem plog_mem (s : State) (f : Bool → Bool → Bool) (d a : Fin 16) (na : Bool) (b : Fin 16) (nb : Bool) :
    Answers (fun t => t.mem = s.mem) (s.plog f d a na b nb) := by simp [State.plog]

@[simp] theorem atEnd_mem (s : State) (w : EobWrite) : (s.atEnd w).mem = s.mem := by simp [State.atEnd]

@[simp] theorem bprep_mem (s : State) (t : Fin 8) (b : Imm) (link : Bool) :
    Answers (fun t => t.mem = s.mem) (s.bprep t b link) := by simp [State.bprep]

@[simp] theorem bprepI_mem (s : State) (t : Fin 8) (a : Src) (link : Bool) :
    Answers (fun t => t.mem = s.mem) (s.bprepI t a link) := by simp [State.bprepI]

@[simp] theorem callTrap_inv (s : State) (cause : Nat) (b : Imm) (h : Memory.wf s.mem = true) :
    Answers (fun t => Memory.wf t.mem = true) (s.callTrap cause b) := by
  unfold State.callTrap
  dsimp only
  repeat' split
  all_goals simp [h]

theorem privileged_inv (s : State) {r : Res} (h : Memory.wf s.mem = true) (hr : Answers (fun t => Memory.wf t.mem = true) r) :
    Answers (fun t => Memory.wf t.mem = true) (s.privileged r) := by
  unfold State.privileged
  split
  · exact hr
  · simp [h]

@[simp] theorem execRfe_inv (s : State) (h : Memory.wf s.mem = true) :
    Answers (fun t => Memory.wf t.mem = true) (execRfe s) := by
  unfold execRfe
  exact privileged_inv s h (by simp [h])

@[simp] theorem execRdcr_inv (d : XReg) (n : Imm) (s : State) (h : Memory.wf s.mem = true) :
    Answers (fun t => Memory.wf t.mem = true) (execRdcr d n s) := by
  unfold execRdcr
  apply privileged_inv s h
  split <;> simp [h]

@[simp] theorem execWrcr_inv (n : Imm) (a : Src) (s : State) (h : Memory.wf s.mem = true) :
    Answers (fun t => Memory.wf t.mem = true) (execWrcr n a s) := by
  unfold execWrcr
  apply privileged_inv s h
  split <;> simp [h]

@[simp] theorem execHalt_inv (s : State) (h : Memory.wf s.mem = true) :
    Answers (fun t => Memory.wf t.mem = true) (execHalt s) := by
  unfold execHalt
  exact privileged_inv s h (by simpa using h)

/-! ### Machine/Tasks -/

@[simp] theorem setMemState_inv (s : State) (g m st : Nat) (h : Memory.wf s.mem = true) :
    Memory.wf (s.setMemState g m st).mem = true := by simp [State.setMemState, h]

@[simp] theorem setMemSeq_inv (s : State) (g m n : Nat) (h : Memory.wf s.mem = true) :
    Memory.wf (s.setMemSeq g m n).mem = true := by simp [State.setMemSeq, h]

@[simp] theorem rebind_inv (s : State) (g m die core : Nat) (h : Memory.wf s.mem = true) :
    Memory.wf (s.rebind g m die core).mem = true := by simp [State.rebind, h]

@[simp] theorem unbind_inv (s : State) (g m : Nat) (h : Memory.wf s.mem = true) :
    Memory.wf (s.unbind g m).mem = true := by simp [State.unbind, h]

@[simp] theorem enqueue_mem (s : State) (die q : Nat) (d : BitVec 512) (node : Option (Nat × Nat × Nat)) (act : Bool) :
    (s.enqueue die q d node act).mem = s.mem := by simp [State.enqueue]

@[simp] theorem accept_mem (s : State) (die q : Nat) (d : BitVec 512) (node : Option (Nat × Nat × Nat)) (act : Bool) :
    (s.accept die q d node act).2.mem = s.mem := by
  unfold State.accept
  split
  · rfl
  · split <;> simp

/-! ### Machine/Memory -/

@[simp] theorem setOnce_mem (s : State) (i : Fin 2) (r : OnceRec) : (s.setOnce i r).mem = s.mem := by
  unfold State.setOnce
  repeat' split
  all_goals simp

@[simp] theorem deliver_mem (s : State) (d : Option XReg) (v : Word) (lq : Option Word) (pair : Option (Pair × Bool)) :
    (s.deliver d v lq pair).mem = s.mem := by simp [State.deliver]

@[simp] theorem flushBytes_inv (s : State) (pa n : Nat) (h : Memory.wf s.mem = true) :
    Memory.wf (s.flushBytes pa n).mem = true := by
  unfold State.flushBytes
  exact foldl_wf _ (fun s a h => by simp [h]) _ _ (by simp [h])

@[simp] theorem enter_inv (s : State) (e : WEntry) (ea : Word) (h : Memory.wf s.mem = true) :
    Memory.wf (s.enter e ea).mem = true := by
  unfold State.enter
  split <;> simp [h]

@[simp] theorem load_inv (s : State) (n : Nat) (strong : Bool) (d : XReg) (base : Src) (off : Opnd)
    (h : Memory.wf s.mem = true) : Answers (fun t => Memory.wf t.mem = true) (s.load n strong d base off) := by
  unfold State.load
  dsimp only
  repeat' split
  all_goals simp [h]

@[simp] theorem store_inv (s : State) (n : Nat) (strong : Bool) (v base : Src) (off : Opnd) (h : Memory.wf s.mem = true) :
    Answers (fun t => Memory.wf t.mem = true) (s.store n strong v base off) := by
  unfold State.store
  dsimp only
  repeat' split
  all_goals simp [h]

@[simp] theorem passOnce_inv (s : State) (h : Memory.wf s.mem = true) : Memory.wf s.passOnce.mem = true := by
  unfold State.passOnce
  split
  · split
    · split <;> simp [h]
    · exact h
  · exact h

@[simp] theorem onceDone_inv (s : State) (i : Fin 2) (v lq : Word) (pair : Option Bool) (h : Memory.wf s.mem = true) :
    Memory.wf (s.onceDone i v lq pair).mem = true := by simp [State.onceDone, h]

@[simp] theorem amo_inv (s : State) (f : Word → Word → Word) (d : XReg) (base : Src) (v : Opnd) (h : Memory.wf s.mem = true) :
    Answers (fun t => Memory.wf t.mem = true) (s.amo f d base v) := by
  unfold State.amo
  dsimp only
  split
  · simp [h]
  · split
    · split
      · simp [h]
      · next hr => simp [replayed_inv hr (by simpa using h)]
    · split
      · simp [h]
      · split
        · simp [h]
        · next t _ =>
          have h2 := flushBytes_inv (s.loadL base) t.pa 8 (by simpa using h)
          simp [h2]

@[simp] theorem fenceOp_mem (s : State) (scope : Nat) :
    Answers (fun t => t.mem = s.mem) (s.fenceOp scope) := by simp [State.fenceOp]

@[simp] theorem execFenceCompletion_inv (s : State) (h : Memory.wf s.mem = true) :
    Answers (fun t => Memory.wf t.mem = true) (execFenceCompletion s) := by
  unfold execFenceCompletion
  repeat' split
  all_goals simp [h]

@[simp] theorem execQpush_inv (q : Src) (v : Opnd) (s : State) (h : Memory.wf s.mem = true) :
    Answers (fun t => Memory.wf t.mem = true) (execQpush q v s) := by
  unfold execQpush
  dsimp only
  repeat' split
  all_goals simp [h]

@[simp] theorem pop_inv (s : State) (d : XReg) (p : Option Pair) (q : Src) (h : Memory.wf s.mem = true) :
    Answers (fun t => Memory.wf t.mem = true) (s.pop d p q) := by
  unfold State.pop
  extract_lets qv s1 r del
  have h1 : Memory.wf s1.mem = true := by simpa [s1] using h
  have hd : ∀ u v hit, (del u v hit).mem = u.mem := fun u v hit => by simp [del]
  split
  · simp [hd, h1]
  · split
    · split
      · simp [h]
      · next hr => simp [hd, replayed_inv hr h1]
    · split
      · simp [h]
      · split
        · next ht => simp [hd, qTake_mem ht, h1]
        · split
          · simp [hd, h1]
          · split <;> simp [h, h1]

@[simp] theorem execTspawn_inv (d : XReg) (b q : Src) (s : State) (h : Memory.wf s.mem = true) :
    Answers (fun t => Memory.wf t.mem = true) (execTspawn d b q s) := by
  unfold execTspawn
  dsimp only
  repeat' split
  all_goals simp [h]

@[simp] theorem execTend_inv (s : State) (h : Memory.wf s.mem = true) :
    Answers (fun t => Memory.wf t.mem = true) (execTend s) := by
  unfold execTend
  split <;> simp [h]

@[simp] theorem execLoadCompletion_inv (i : Nat) (s : State) (h : Memory.wf s.mem = true) :
    Answers (fun t => Memory.wf t.mem = true) (execLoadCompletion i s) := by
  unfold execLoadCompletion
  repeat' split
  all_goals simp [h]

@[simp] theorem execHostCompletionTimeout_inv (i : Nat) (s : State) (h : Memory.wf s.mem = true) :
    Answers (fun t => Memory.wf t.mem = true) (execHostCompletionTimeout i s) := by
  unfold execHostCompletionTimeout
  dsimp only
  repeat' split
  all_goals simp [h]

/-! ### Machine/Sync -/

@[simp] theorem acquire_mem (s : State) (f : Fin 32) : (s.acquire f).mem = s.mem := by simp [State.acquire]

@[simp] theorem execWait_mem (f : Fin 32) (n : Thr) (s : State) : Answers (fun t => t.mem = s.mem) (execWait f n s) := by
  unfold execWait
  split <;> simp

@[simp] theorem giveUp_mem (s : State) (w : TWait) : (s.giveUp w).mem = s.mem := by simp [State.giveUp]

@[simp] theorem execWaity_mem (f : Fin 32) (n : Thr) (s : State) : Answers (fun t => t.mem = s.mem) (execWaity f n s) := by
  unfold execWaity
  split <;> simp

@[simp] theorem post_inv (s : State) (xt : Word) (own : Bool) (p : Post) (h : Memory.wf s.mem = true) :
    Answers (fun t => Memory.wf t.mem = true) (s.post xt own p) := by
  unfold State.post
  split
  · split <;> simp [h]
  · simp [h]

@[simp] theorem execPostr_inv (f : Fin 32) (t : Src) (n : Option (BitVec 16)) (set : Bool) (s : State)
    (h : Memory.wf s.mem = true) : Answers (fun t => Memory.wf t.mem = true) (execPostr f t n set s) := by
  unfold execPostr
  dsimp only
  repeat' split
  all_goals simp [h]

@[simp] theorem execBarr_inv (n : Fin 64) (s : State) (h : Memory.wf s.mem = true) :
    Answers (fun t => Memory.wf t.mem = true) (execBarr n s) := by
  unfold execBarr
  dsimp only
  repeat' split
  all_goals simp [h]

@[simp] theorem execYield_inv (s : State) (h : Memory.wf s.mem = true) :
    Answers (fun t => Memory.wf t.mem = true) (execYield s) := by
  unfold execYield
  split <;> simp [h]

@[simp] theorem execFlagPostDelivery_inv (i : Nat) (s : State) (h : Memory.wf s.mem = true) :
    Answers (fun t => Memory.wf t.mem = true) (execFlagPostDelivery i s) := by
  unfold execFlagPostDelivery
  split <;> simp [h]

@[simp] theorem runPart_inv (s : State) (p : Nat × BRun) (h : Memory.wf s.mem = true) : Memory.wf (s.runPart p).mem = true := by
  simp only [State.runPart, noteDirect_mem]
  exact foldl_inv (fun l : State × List Rest => Memory.wf l.1.mem = true) _ (fun l q h => by simp [h]) _ _ h

@[simp] theorem framePart_inv (s : State) (f : Frame) (h : Memory.wf s.mem = true) : Memory.wf (s.framePart f).mem = true := by
  unfold State.framePart
  dsimp only
  repeat' split
  all_goals simp [h]

@[simp] theorem diePartAt_inv (s : State) (i : Nat) (h : Memory.wf s.mem = true) : Memory.wf (s.diePartAt i).mem = true := by
  unfold State.diePartAt
  dsimp only
  repeat' split
  all_goals simp [h]

@[simp] theorem execWeakStoreReachesHome_inv (i : Nat) (s : State) (h : Memory.wf s.mem = true) :
    Answers (fun t => Memory.wf t.mem = true) (execWeakStoreReachesHome i s) := by
  unfold execWeakStoreReachesHome
  split
  · simp [h]
  · simp [h]
  · split <;> simp [h]

@[simp] theorem execQueueMessageAppend_inv (q ctx : Nat) (msg : Word) (s : State) (h : Memory.wf s.mem = true) :
    Answers (fun t => Memory.wf t.mem = true) (execQueueMessageAppend q ctx msg s) := by
  unfold execQueueMessageAppend
  dsimp only
  repeat' split
  all_goals simp [h]

/-! ### Machine/Agree -/

@[simp] theorem setAgStat_mem (s : State) (id mb : Nat) (st rpt : Word) :
    (s.setAgStat id mb st rpt).mem = s.mem := by simp [State.setAgStat]

@[simp] theorem agLog_inv (s : State) (gq st : Word) (pair : Option Bool) (h : Memory.wf s.mem = true) :
    Memory.wf (s.agLog gq st pair).mem = true := by simp [State.agLog, h]

@[simp] theorem agFail_inv (s : State) (w : AgWait) (gq st : Word) (pair : Option Bool) (out : Bool)
    (h : Memory.wf s.mem = true) : Memory.wf (s.agFail w gq st pair out).mem = true := by simp [State.agFail, h]

@[simp] theorem sawReport_mem (s : State) (n : Nat) (rpt : Word) : (s.sawReport n rpt).mem = s.mem := by
  unfold State.sawReport
  repeat' split
  all_goals simp

@[simp] theorem agDeliver_inv (s : State) (w : AgWait) (gq st : Word) (even soon out : Bool) (h : Memory.wf s.mem = true) :
    Memory.wf (s.agDeliver w gq st even soon out).mem = true := by
  unfold State.agDeliver
  repeat' split
  all_goals simp [h]

@[simp] theorem setSeq_mem (s : State) (g m n : Nat) : (s.setSeq g m n).mem = s.mem := by simp [State.setSeq]

@[simp] theorem agLocal_inv (s : State) (a : AgArgs) (trapping : Bool) (g m seq : Nat) (out23 : Bool)
    (h : Memory.wf s.mem = true) : Memory.wf (s.agLocal a trapping g m seq out23).mem = true := by
  unfold State.agLocal
  repeat' split
  all_goals simp [h]

@[simp] theorem agAgain_inv (s : State) (a : AgArgs) (trapping : Bool) (r : OnceRec) (h : Memory.wf s.mem = true) :
    Memory.wf (s.agAgain a trapping r).mem = true := by
  unfold State.agAgain
  dsimp only
  repeat' split
  all_goals simp [h]

@[simp] theorem agree_inv (s : State) (a : AgArgs) (trapping : Bool) (hint : Option Bool) (h : Memory.wf s.mem = true) :
    Answers (fun t => Memory.wf t.mem = true) (s.agree a trapping hint) := by
  unfold State.agree
  extract_lets v r c mm
  split
  · split <;> simp [h]
  · split
    · split
      · simp [h]
      · next s1 hr =>
        have h1 := replayed_inv hr h
        simp only [answers_next]
        apply agDeliver_inv
        split
        · split <;> simp [h1]
        · exact h1
    · clear_value mm
      cases mm with
      | none => simp [h]
      | some p =>
        dsimp only
        split
        · simp [h]
        · split
          · simp [h]
          · split <;> simp [h]

@[simp] theorem writeReport_inv (s : State) (g : Nat) (rpt : Word) (bs : List Byte) (h : Memory.wf s.mem = true) :
    Memory.wf (s.writeReport g rpt bs).1.mem = true := by
  unfold State.writeReport
  split
  · exact h
  · split <;> simp [h]

@[simp] theorem putHome_mem (s : State) (x : AgHome) : (s.putHome x).mem = s.mem := by simp [State.putHome]

@[simp] theorem decideIn_inv (v s : State) (x : AgHome) (code : Nat) (cs : List (Nat × Int × BitVec 32)) (missing : Bool)
    (h : Memory.wf s.mem = true) : Memory.wf (State.decideIn v s x code cs missing).mem = true := by
  unfold State.decideIn
  dsimp only
  rw [putHome_mem]
  split <;> simp [h]

@[simp] theorem decide'_inv (s : State) (x : AgHome) (code : Nat) (contribs : List (Nat × Int × BitVec 32)) (missing : Bool)
    (h : Memory.wf s.mem = true) : Memory.wf (s.decide' x code contribs missing).mem = true := by simp [State.decide', h]

@[simp] theorem evaluate_inv (s : State) (x : AgHome) (h : Memory.wf s.mem = true) : Memory.wf (s.evaluate x).mem = true := by
  unfold State.evaluate
  dsimp only
  split
  · exact h
  · split
    · simp [h]
    · split
      · simp [h]
      · split
        · split
          · simp [h]
          · split <;> simp [h]
        · exact h

@[simp] theorem expire_inv (s : State) (x : AgHome) (h : Memory.wf s.mem = true) : Memory.wf (s.expire x).mem = true := by
  unfold State.expire
  dsimp only
  split
  · dsimp only
    apply evaluate_inv
    simpa using h
  · exact h

@[simp] theorem expireAll_inv (s : State) (g : Nat) (h : Memory.wf s.mem = true) : Memory.wf (s.expireAll g).mem = true := by
  unfold State.expireAll
  exact foldl_wf _ (fun s x h => expire_inv s x h) _ _ h

@[simp] theorem expireTo_inv (s : State) (lim : Nat) (h : Memory.wf s.mem = true) : Memory.wf (s.expireTo lim).mem = true := by
  unfold State.expireTo
  exact foldl_wf _ (fun s a h => by simp [h]) _ _ h

@[simp] theorem evaluateAll_inv (s : State) (g : Nat) (h : Memory.wf s.mem = true) :
    Memory.wf (s.evaluateAll g).mem = true := by
  unfold State.evaluateAll
  exact foldl_wf _ (fun s x h => evaluate_inv s x h) _ _ h

@[simp] theorem lateReport_inv (s : State) (g : Nat) (rpt : Word) (m : Nat) (site : BitVec 32) (h : Memory.wf s.mem = true) :
    Memory.wf (s.lateReport g rpt m site).mem = true := by
  unfold State.lateReport
  split
  · split
    · exact h
    · split <;> simp [h]
  · exact h

@[simp] theorem answerLate_inv (s : State) (x : AgHome) (o : AgOut) (m : Nat) (site : BitVec 32) (h : Memory.wf s.mem = true) :
    Memory.wf (s.answerLate x o m site).mem = true := by
  unfold State.answerLate
  split <;> simp [h]

@[simp] theorem answerLost_inv (s : State) (g m seq : Nat) (site : BitVec 32) (h : Memory.wf s.mem = true) :
    Memory.wf (s.answerLost g m seq site).mem = true := by
  unfold State.answerLost
  dsimp only
  split
  · split <;> simp [h]
  · exact h

@[simp] theorem tookLast_mem (s : State) (g : Nat) : (s.tookLast g).mem = s.mem := by simp [State.tookLast]

@[simp] theorem departHome_inv (s : State) (g m : Nat) (h : Memory.wf s.mem = true) :
    Memory.wf (s.departHome g m).mem = true := by
  unfold State.departHome
  split
  · have h1 := setMemState_inv (s.expireAll g) g m 1 (by simp [h])
    simp [h1]
  · exact h

@[simp] theorem contribute_inv (s : State) (g m : Nat) (c : Contrib) (h : Memory.wf s.mem = true) :
    Memory.wf (s.contribute g m c).mem = true := by
  unfold State.contribute
  extract_lets u v
  have hu : Memory.wf u.mem = true := by simp [u, h]
  have hv : Memory.wf v.mem = true := by unfold v; split <;> exact hu
  split
  · simp [hu]
  · split
    · exact hv
    · split
      · dsimp only
        repeat' split
        all_goals simp [hv]
      · dsimp only
        repeat' split
        all_goals simp [hv]

@[simp] theorem execAgreementContributionArrival_inv (g m : Nat) (c : Contrib) (s : State) (h : Memory.wf s.mem = true) :
    Answers (fun t => Memory.wf t.mem = true) (execAgreementContributionArrival g m c s) := by
  unfold execAgreementContributionArrival
  split
  · simp [h]
  · split
    · split
      · simp only [answers_next]
        exact contribute_inv _ g m c h
      · simp [h]
    · split
      · simp [h]
      · split <;> simp [h]

@[simp] theorem execLateLimitExpiry_inv (g n : Nat) (s : State) (h : Memory.wf s.mem = true) :
    Answers (fun t => Memory.wf t.mem = true) (execLateLimitExpiry g n s) := by
  unfold execLateLimitExpiry
  split <;> simp [h]

@[simp] theorem execGroupInvalidate_inv (g : Nat) (s : State) (h : Memory.wf s.mem = true) :
    Answers (fun t => Memory.wf t.mem = true) (execGroupInvalidate g s) := by
  unfold execGroupInvalidate
  split
  · simp [h]
  · extract_lets s1 n v s2
    have h1 : Memory.wf s1.mem = true := by unfold s1; split <;> simp [h]
    have h2 : Memory.wf s2.mem = true := foldl_wf _ (fun s x h => by simp [h]) _ _ h1
    simpa using h2

@[simp] theorem loseMembers_inv (s : State) (p : Nat → Nat → Bool) (h : Memory.wf s.mem = true) :
    Memory.wf (s.loseMembers p).mem = true := by
  unfold State.loseMembers
  refine foldl_wf _ (fun s g h => ?_) _ _ h
  dsimp only
  split
  · exact h
  · split
    · exact h
    · have h1 := foldl_wf (fun s m => s.setMemState g m 2) (fun s m h => by simp [h])
        ((s.presents g).filter fun m => let w := s.memWhere g m; w.testBit 63 && p (natBits w 11 0) (natBits w 14 12))
        (s.expireAll g) (by simp [h])
      simp [h1]

@[simp] theorem depart_inv (s : State) (g m : Nat) (h : Memory.wf s.mem = true) : Memory.wf (s.depart g m).mem = true := by
  unfold State.depart
  repeat' split
  all_goals simp [h]

@[simp] theorem agArrive_inv (s : State) (w : AgWait) (o : AgOut) (h : Memory.wf s.mem = true) :
    Memory.wf (s.agArrive w o).mem = true := by
  unfold State.agArrive
  dsimp only
  repeat' split
  all_goals simp [h]

@[simp] theorem agHeld_mem (s : State) (t : Task) (x : HeldSt) (w : AgWait) (o : AgOut) :
    (s.agHeld t x w o).mem = s.mem := by simp [State.agHeld]

@[simp] theorem fromHome_inv (s : State) (g m : Nat) (o : AgOut) (h : Memory.wf s.mem = true) :
    Memory.wf (s.fromHome g m o).mem = true := by
  have h1 := foldl_wf (fun (s : State) (p : Nat × Nat) => s.setMemState g p.1 p.2) (fun s p h => by simp [h]) o.states s h
  unfold State.fromHome
  dsimp only
  split <;> simp [h1]

theorem outcomeFrom_inv {s : State} {g m : Nat} {o : AgOut} {t : State} {a : AgOut} (e : s.outcomeFrom g m o = some (t, a))
    (h : Memory.wf s.mem = true) : Memory.wf t.mem = true := by
  unfold State.outcomeFrom at e
  split at e
  · cases e; simp [h]
  · split at e
    · cases e
    · split at e
      · cases e; simp [h]
      · split at e
        · cases e
        · cases e; simp [h]

@[simp] theorem execAgreementOutcomeDelivery_inv (g m : Nat) (o : AgOut) (s : State) (h : Memory.wf s.mem = true) :
    Answers (fun t => Memory.wf t.mem = true) (execAgreementOutcomeDelivery g m o s) := by
  unfold execAgreementOutcomeDelivery
  split
  · simp [h]
  · next s1 o ho =>
    have h1 := outcomeFrom_inv ho h
    extract_lets on off
    clear_value on off
    split
    · dsimp only
      split <;> simp [h1]
    · split <;> simp [h1]

@[simp] theorem execReportCopyWrite_inv (g n ctx : Nat) (data : List Byte) (s : State) (h : Memory.wf s.mem = true) :
    Answers (fun t => Memory.wf t.mem = true) (execReportCopyWrite g n ctx data s) := by
  unfold execReportCopyWrite
  repeat' split
  all_goals simp [h]

/-! ### Machine/Float -/

@[simp] theorem fop_mem (s : State) (lat : Nat) (d : XReg) (a : Src) (f : Rnd → Nat × Fl) (q : Qrnd → Sat → Nat × Fl) :
    Answers (fun t => t.mem = s.mem) (s.fop lat d a f q) := by
  unfold State.fop
  split <;> simp

@[simp] theorem fbin_mem (s : State) (lat : Nat) (d : XReg) (a : Src) (b : Opnd) (f : Rnd → FV → FV → Nat × Fl)
    (q : Qrnd → Sat → QV → QV → Nat × Fl) : Answers (fun t => t.mem = s.mem) (s.fbin lat d a b f q) := by simp [State.fbin]

@[simp] theorem fmm_mem (s : State) (wantMax : Bool) (d : XReg) (a : Src) (b : Opnd) :
    Answers (fun t => t.mem = s.mem) (s.fmm wantMax d a b) := by
  unfold State.fmm
  split <;> simp

@[simp] theorem fcmp_mem (s : State) (quiet : Bool) (f : FV → FV → Bool) (q : QV → QV → Bool) (p : Pair) (a : Src) (b : Opnd) :
    Answers (fun t => t.mem = s.mem) (s.fcmp quiet f q p a b) := by
  unfold State.fcmp
  split <;> simp

@[simp] theorem clove_mem (s : State) (d : XReg) (a : Src) (v : Int) (f : Fl) :
    Answers (fun t => t.mem = s.mem) (s.clove d a v f) := by simp [State.clove]

/-! ### Machine/Vector -/

@[simp] theorem trkSets_mem (s : State) (rd wr : List Nat) : (s.trkSets rd wr).mem = s.mem := by
  unfold State.trkSets
  split <;> simp

@[simp] theorem trkRows_mem (s : State) (rd wr : List Nat) : (s.trkRows rd wr).mem = s.mem := by
  unfold State.trkRows
  split <;> simp

@[simp] theorem vput_mem (s : State) (lat : Nat) (ws : List LWrite) (f : Fl) :
    (s.vput lat ws f).mem = s.mem := by simp [State.vput]

@[simp] theorem work_mem (s : State) (sto : Bool) (es : List Nat) (f : Nat → Rnd → Nat × Fl) :
    (s.work sto es f).2.mem = s.mem := by
  unfold State.work
  split <;> simp

@[simp] theorem vlanes_mem (s : State) (lat : Nat) (v : VArgs) (sto : Bool) (rd : List Nat) (f : Nat → Rnd → Nat × Fl) :
    (s.vlanes lat v sto rd f).mem = s.mem := by simp [State.vlanes]

@[simp] theorem vgo_inv (s : State) (ts : List VTy) (r : State) (h : Memory.wf s.mem = true) (hr : Memory.wf r.mem = true) :
    Answers (fun t => Memory.wf t.mem = true) (s.vgo ts r) := by
  unfold State.vgo
  split
  · simpa using hr
  · simp [h]

@[simp] theorem varith_inv (s : State) (lat : Nat) (v : VArgs) (sto useB useC : Bool) (fi : Int → Int → Int → Int)
    (ff : FFmt → Rnd → Nat → Nat → Nat → Nat × Fl) (h : Memory.wf s.mem = true) :
    Answers (fun t => Memory.wf t.mem = true) (s.varith lat v sto useB useC fi ff) := by
  unfold State.varith
  apply vgo_inv _ _ _ h
  split <;> simpa using h

@[simp] theorem vbits_inv (s : State) (v : VArgs) (rd : List Nat) (f : Nat → Nat) (h : Memory.wf s.mem = true) :
    Answers (fun t => Memory.wf t.mem = true) (s.vbits v rd f) :=
  vgo_inv _ _ _ h (by simpa using h)

@[simp] theorem execVmov_inv (v : VArgs) (s : State) (h : Memory.wf s.mem = true) :
    Answers (fun t => Memory.wf t.mem = true) (execVmov v s) := by
  unfold execVmov
  split <;> simp [h]

@[simp] theorem vlogic_inv (s : State) (v : VArgs) (f : Nat → Nat → Nat) (h : Memory.wf s.mem = true) :
    Answers (fun t => Memory.wf t.mem = true) (s.vlogic v f) := by simp [State.vlogic, h]

@[simp] theorem vcmp_inv (s : State) (v : VArgs) (quiet : Bool) (fi : Int → Int → Bool) (ff : FV → FV → Bool)
    (h : Memory.wf s.mem = true) : Answers (fun t => Memory.wf t.mem = true) (s.vcmp v quiet fi ff) :=
  vgo_inv _ _ _ h (by simpa using h)

@[simp] theorem execVcvt_inv (v : VArgs) (s : State) (h : Memory.wf s.mem = true) :
    Answers (fun t => Memory.wf t.mem = true) (execVcvt v s) := by
  unfold execVcvt
  split <;> simp [h]

@[simp] theorem execVmx_inv (v : VArgs) (s : State) (h : Memory.wf s.mem = true) :
    Answers (fun t => Memory.wf t.mem = true) (execVmx v s) := by
  unfold execVmx
  split <;> simp [h]

@[simp] theorem execVunmx_inv (v : VArgs) (s : State) (h : Memory.wf s.mem = true) :
    Answers (fun t => Memory.wf t.mem = true) (execVunmx v s) := by
  unfold execVunmx
  split <;> simp [h]

@[simp] theorem vspecial_inv (s : State) (k : Nat) (v : VArgs) (h : Memory.wf s.mem = true) :
    Answers (fun t => Memory.wf t.mem = true) (s.vspecial k v) := by
  unfold State.vspecial
  split <;> simp [h]

@[simp] theorem vall'_mem (s : State) (lat : Nat) (v : VArgs) (x : Nat) (f : Fl) :
    (s.vall' lat v x f).mem = s.mem := by simp [State.vall']

@[simp] theorem execVrsum_inv (v : VArgs) (s : State) (h : Memory.wf s.mem = true) :
    Answers (fun t => Memory.wf t.mem = true) (execVrsum v s) := by
  unfold execVrsum
  split <;> simp [h]

@[simp] theorem vextreme_inv (s : State) (wantMax : Bool) (v : VArgs) (h : Memory.wf s.mem = true) :
    Answers (fun t => Memory.wf t.mem = true) (s.vextreme wantMax v) := by
  unfold State.vextreme
  dsimp only
  split <;> exact vgo_inv _ _ _ h (by simpa using h)

@[simp] theorem execVtopk_inv (v : VArgs) (s : State) (h : Memory.wf s.mem = true) :
    Answers (fun t => Memory.wf t.mem = true) (execVtopk v s) := by
  unfold execVtopk
  dsimp only
  repeat' split
  all_goals simp [h]

@[simp] theorem vcond_inv (s : State) (v : VArgs) (f : List Nat → (Nat → Bool) → Bool) (h : Memory.wf s.mem = true) :
    Answers (fun t => Memory.wf t.mem = true) (s.vcond v f) :=
  vgo_inv _ _ _ h (by simpa using h)

/-! ### Machine/HearthOps -/

@[simp] theorem trkBytes_mem (s : State) (srcs dsts : List (Nat × Nat)) : (s.trkBytes srcs dsts).mem = s.mem := by
  unfold State.trkBytes
  split <;> simp

@[simp] theorem loadM_mem (s : State) (a : Src) : (s.loadM a).mem = s.mem := by
  unfold State.loadM
  split <;> simp

@[simp] theorem mPut_mem (s : State) (er : Fin 14) (v : Word) : (s.mPut er v).mem = s.mem := by simp [State.mPut]

@[simp] theorem mSet_mem (s : State) (op : Nat) (w : Option (Fin 14 × Src)) : (s.mSet op w).mem = s.mem := by
  unfold State.mSet
  repeat' split
  all_goals simp

@[simp] theorem mLaunch_mem (s : State) (op : Nat) (pages : List (Nat × Nat × Nat)) : (s.mLaunch op pages).mem = s.mem := by
  unfold State.mLaunch
  dsimp only
  repeat' split
  all_goals simp

@[simp] theorem mGo_inv (s : State) (op : Nat) (w : Option (Fin 14 × Src)) (h : Memory.wf s.mem = true) :
    Answers (fun t => Memory.wf t.mem = true) (s.mGo op w) := by
  unfold State.mGo
  dsimp only
  repeat' split
  all_goals simp [h]

@[simp] theorem mArrive_mem (s : State) (op : Nat) (w : Option (Fin 14 × Src)) : (s.mArrive op w).mem = s.mem := by
  unfold State.mArrive
  split <;> simp

@[simp] theorem mJoin_inv (s : State) (op : Nat) (w : Option (Fin 14 × Src)) (h : Memory.wf s.mem = true) :
    Answers (fun t => Memory.wf t.mem = true) (s.mJoin op w) := by
  unfold State.mJoin
  repeat' split
  all_goals simp [h]

@[simp] theorem hDueLoop_mem (n : Nat) (s : State) : (hDueLoop n s).mem = s.mem := by
  induction n generalizing s with
  | zero => rfl
  | succ n ih =>
    unfold hDueLoop
    split
    · simp [ih]
    · rfl

@[simp] theorem hLandDue_mem (s : State) : s.hLandDue.mem = s.mem := by simp [State.hLandDue]

@[simp] theorem joinTrap_inv (s : State) (detail : Nat) (h : Memory.wf s.mem = true) :
    Memory.wf (s.joinTrap detail).mem = true := by simp [State.joinTrap, h]

@[simp] theorem execMjoinWaitLimitExpiry_inv (s : State) (h : Memory.wf s.mem = true) :
    Answers (fun t => Memory.wf t.mem = true) (execMjoinWaitLimitExpiry s) := by
  unfold execMjoinWaitLimitExpiry
  split <;> simp [h]

/-! ### Machine/CopyOps -/

@[simp] theorem loadC_mem (s : State) (a : Src) : (s.loadC a).mem = s.mem := by
  unfold State.loadC
  split <;> simp

@[simp] theorem cPutReg_mem (s : State) (er : Fin 9) (v : Word) : (s.cPutReg er v).mem = s.mem := by simp [State.cPutReg]

@[simp] theorem cSetUp_mem (s : State) (w : Option (Fin 9 × Src)) : (s.cSetUp w).mem = s.mem := by
  unfold State.cSetUp
  repeat' split
  all_goals simp

@[simp] theorem enterAll_inv (s : State) (es : List WEntry) (h : Memory.wf s.mem = true) :
    Memory.wf (s.enterAll es).mem = true := by
  unfold State.enterAll
  split <;> simp [h]

@[simp] theorem cStart_inv (s : State) (op : CopyOp) (t : XReg) (w : Option (Fin 9 × Src)) (pat : Word) (flag : Nat)
    (thr : Int) (h : Memory.wf s.mem = true) : Answers (fun t => Memory.wf t.mem = true) (s.cStart op t w pat flag thr) := by
  unfold State.cStart
  dsimp only
  repeat' split
  all_goals simp [h]

@[simp] theorem execCpost_inv (t : Src) (f : Fin 32) (n : BitVec 16) (set : Bool) (s : State) (h : Memory.wf s.mem = true) :
    Answers (fun t => Memory.wf t.mem = true) (execCpost t f n set s) := by
  unfold execCpost
  dsimp only
  repeat' split
  all_goals simp [h]

@[simp] theorem execCopyCompletion_inv (id : Nat) (reply : Remote) (s : State) (h : Memory.wf s.mem = true) :
    Answers (fun t => Memory.wf t.mem = true) (execCopyCompletion id reply s) := by
  unfold execCopyCompletion
  split
  · simp [h]
  · split
    · split
      · simp [h]
      · split <;> simp [h]
    · simp [h]

@[simp] theorem endEarly_inv (s : State) (h : Memory.wf s.mem = true) : Memory.wf s.endEarly.mem = true := by
  unfold State.endEarly
  exact foldl_wf _ (fun s x h => by simp [h]) _ _ h

@[simp] theorem execCnetCompletion_inv (id : Nat) (how : CnetEnd) (s : State) (h : Memory.wf s.mem = true) :
    Answers (fun t => Memory.wf t.mem = true) (execCnetCompletion id how s) := by
  unfold execCnetCompletion
  repeat' split
  all_goals simp [h]

@[simp] theorem clearLand_mem (s : State) (id : Nat) : (s.clearLand id).mem = s.mem := by simp [State.clearLand]

@[simp] theorem execLandingPostDelivery_inv (id : Nat) (s : State) (h : Memory.wf s.mem = true) :
    Answers (fun t => Memory.wf t.mem = true) (execLandingPostDelivery id s) := by
  unfold execLandingPostDelivery
  dsimp only
  repeat' split
  all_goals simp [h]

@[simp] theorem execCpostDelivery_inv (id : Nat) (s : State) (h : Memory.wf s.mem = true) :
    Answers (fun t => Memory.wf t.mem = true) (execCpostDelivery id s) := by
  unfold execCpostDelivery
  repeat' split
  all_goals simp [h]

@[simp] theorem execArmedCopyFire_inv (id : Nat) (s : State) (h : Memory.wf s.mem = true) :
    Answers (fun t => Memory.wf t.mem = true) (execArmedCopyFire id s) := by
  unfold execArmedCopyFire
  split
  · split <;> simp [h]
  · simp [h]

/-! ### Machine/Stream -/

@[simp] theorem putOwn_inv (s : State) (ps : List Nat) (bs : List Byte) (h : Memory.wf s.mem = true) :
    Memory.wf (s.putOwn ps bs).mem = true := by simp [State.putOwn, h]

@[simp] theorem putSctx_inv (s : State) (c : SCtx) (h : Memory.wf s.mem = true) : Memory.wf (s.putSctx c).mem = true :=
  performStore_inv _ _ _ _ (performStore_inv _ _ _ _ (performStore_inv _ _ _ _ h))

/-- The context is read after this core's earlier stores to it: the one change a lookup makes. -/
theorem sctxAt_inv {s : State} {ea : Word} {t : State} {c : SCtx} (e : s.sctxAt ea = .ok (t, c)) (h : Memory.wf s.mem = true) :
    Memory.wf t.mem = true := by
  unfold State.sctxAt at e
  split at e
  · cases e
  · split at e
    · cases e
    · dsimp only at e
      split at e
      · cases e; simp [h]
      · cases e

@[simp] theorem streamTrap_inv (s : State) (cause : Nat) (v lq : Word) (pair : Option Bool) (h : Memory.wf s.mem = true) :
    Memory.wf (s.streamTrap cause v lq pair).mem = true := by simp [State.streamTrap, h]

@[simp] theorem streamDone_inv (s : State) (d : XReg) (p : Option Pair) (r : SRes) (h : Memory.wf s.mem = true) :
    Answers (fun t => Memory.wf t.mem = true) (s.streamDone d p r) := by
  have h1 := putSctx_inv s r.c h
  unfold State.streamDone
  dsimp only
  split <;> simp [h1]

@[simp] theorem streamAgain_inv (s : State) (d : XReg) (p : Option Pair) (r : OnceRec) (h : Memory.wf s.mem = true) :
    Answers (fun t => Memory.wf t.mem = true) (s.streamAgain d p r) := by
  unfold State.streamAgain
  split <;> simp [h]

theorem nextFrame_inv {s : State} {c : SCtx} {t : State} {n : Option Nat} (e : s.nextFrame c = .ok (t, n))
    (h : Memory.wf s.mem = true) : Memory.wf t.mem = true := by
  unfold State.nextFrame at e
  split at e
  · split at e
    · split at e
      · cases e; simp [h]
      · split at e
        · cases e; exact h
        · cases e
    · cases e
  · split at e
    · cases e; exact h
    · dsimp only at e
      split at e
      · cases e
      · cases e; simp [h]

@[simp] theorem execSframe_inv (d : XReg) (p : Option Pair) (b : Src) (s : State) (h : Memory.wf s.mem = true) :
    Answers (fun t => Memory.wf t.mem = true) (execSframe d p b s) := by
  unfold execSframe
  extract_lets ea s1 r
  have h1 : Memory.wf s1.mem = true := by simpa [s1] using h
  split
  · simp [h1]
  · split
    · simp [h]
    · next s2 c hc =>
      have h2 := sctxAt_inv hc h1
      split
      · simp [h]
      · simp [h]
      · next hn => simp [nextFrame_inv hn h2]
      · next hn => simp [nextFrame_inv hn h2]

@[simp] theorem execStrunc_inv (d : XReg) (b i : Src) (s : State) (h : Memory.wf s.mem = true) :
    Answers (fun t => Memory.wf t.mem = true) (execStrunc d b i s) := by
  unfold execStrunc
  extract_lets ea n s1 r
  have h1 : Memory.wf s1.mem = true := by simpa [s1] using h
  split
  · simp [h1]
  · split
    · simp [h]
    · next hc => simp [sctxAt_inv hc h1]

@[simp] theorem execSgen_inv (p : Pair) (b v : Src) (s : State) (h : Memory.wf s.mem = true) :
    Answers (fun t => Memory.wf t.mem = true) (execSgen p b v s) := by
  unfold execSgen
  extract_lets ea x s1 r out
  have h1 : Memory.wf s1.mem = true := by simpa [s1] using h
  have ho : ∀ u b, (out u b).mem = u.mem := fun u b => by simp [out]
  split
  · simp [ho, h1]
  · split
    · simp [h]
    · next s2 c hc =>
      have h2 := sctxAt_inv hc h1
      extract_lets q
      split
      · split
        · simp [h]
        · next ps _ =>
          have h3 := flushBytes_inv s2 (ps.headD 0) 4 h2
          have h4 := putOwn_inv _ ps (leBytes 4 x) h3
          simp only [answers_next, ho]
          exact onceDone_inv _ _ _ _ _ (putSctx_inv _ _ h4)
      · simp [ho, h2]

@[simp] theorem execSadv_inv (d : XReg) (b n : Src) (s : State) (h : Memory.wf s.mem = true) :
    Answers (fun t => Memory.wf t.mem = true) (execSadv d b n s) := by
  unfold execSadv
  dsimp only
  split
  · simp [h]
  · next hc => simp [sctxAt_inv hc (by simpa using h)]

@[simp] theorem execScur_inv (d : XReg) (b : Src) (sel : Fin 7) (s : State) (h : Memory.wf s.mem = true) :
    Answers (fun t => Memory.wf t.mem = true) (execScur d b sel s) := by
  unfold execScur
  dsimp only
  split
  · simp [h]
  · next hc => simp [sctxAt_inv hc (by simpa using h)]

@[simp] theorem rxRefuse_mem (s : State) (st : Int) : (s.rxRefuse st).mem = s.mem := by simp [State.rxRefuse]

@[simp] theorem takeFrame_inv (s : State) (f : Frame) (h : Memory.wf s.mem = true) : Memory.wf (s.takeFrame f).mem = true := by
  unfold State.takeFrame
  split <;> simp [h]

@[simp] theorem endFrames_inv (s : State) (p : Frame → Bool) (h : Memory.wf s.mem = true) :
    Memory.wf (s.endFrames p).mem = true := by
  unfold State.endFrames
  exact foldl_wf _ (fun s f h => by simp [h]) _ _ h

@[simp] theorem execFrameArrival_inv (seg : Nat) (data : List Byte) (s : State) (h : Memory.wf s.mem = true) :
    Answers (fun t => Memory.wf t.mem = true) (execFrameArrival seg data s) := by
  unfold execFrameArrival
  dsimp only
  repeat' split
  all_goals simp [h]

/-! ### Machine/Saffron -/

@[simp] theorem srqfPut_mem (s : State) (cause : Nat) (msg : Word) :
    (s.srqfPut cause msg).mem = s.mem := by simp [State.srqfPut]

@[simp] theorem beginRequest_inv (s : State) (msg : Word) (d : Nat) (h : Memory.wf s.mem = true) :
    Memory.wf (s.beginRequest msg d).mem = true := by
  unfold State.beginRequest
  extract_lets w seed live live' r c u v
  have hu : Memory.wf u.mem = true := h
  split
  · exact hu
  · split
    · split
      · next hr => simpa using replayed_inv hr hu
      · simp [hu]
    · simp [hu]

@[simp] theorem execSaffronRequestTake_inv (s : State) (h : Memory.wf s.mem = true) :
    Answers (fun t => Memory.wf t.mem = true) (execSaffronRequestTake s) := by
  unfold execSaffronRequestTake
  split
  · simp [h]
  · split
    · simp [h]
    · next m s1 hm =>
      extract_lets cfg c s2
      have h2 : Memory.wf s2.mem = true := by simpa [s2, qTake_mem hm] using h
      split
      · simp [h2]
      · split
        · simp [h2]
        · dsimp only
          split <;> simp [h2]

@[simp] theorem sDraw_mem (s : State) : s.sDraw.2.mem = s.mem := by simp [State.sDraw]

theorem sample_mem {s : State} {d : SDesc} {n : Int} {t : State} (e : s.sample d = .ok (n, t)) : t.mem = s.mem := by
  unfold State.sample at e
  split at e
  · cases e; rfl
  · split at e
    · cases e
    · split at e
      · cases e
      · dsimp only at e
        split at e
        · cases e
        · cases e; rfl
        · split at e
          · cases e; rfl
          · cases e; simp

@[simp] theorem sFault_inv (s : State) (cause : Nat) (e : Nat × Word) (h : Memory.wf s.mem = true) :
    Answers (fun t => Memory.wf t.mem = true) (s.sFault cause e) := by simp [State.sFault, h]

theorem sDesc_inv (s : State) (ea : Word) (k : Nat → Res) (h : Memory.wf s.mem = true)
    (hk : ∀ n, Answers (fun t => Memory.wf t.mem = true) (k n)) : Answers (fun t => Memory.wf t.mem = true) (s.sDesc ea k) := by
  unfold State.sDesc
  split
  · simp [h]
  · split
    · simp [h]
    · split
      · simp [h]
      · exact hk _

@[simp] theorem execSmpl_inv (d : XReg) (b : Src) (s : State) (h : Memory.wf s.mem = true) :
    Answers (fun t => Memory.wf t.mem = true) (execSmpl d b s) := by
  unfold execSmpl
  apply sDesc_inv _ _ _ (by simpa using h)
  intro n
  split
  · simp [h]
  · next r hr => simp [sample_mem hr, h]

@[simp] theorem execSrng_inv (d : XReg) (s : State) (h : Memory.wf s.mem = true) :
    Answers (fun t => Memory.wf t.mem = true) (execSrng d s) := by
  unfold execSrng
  split <;> simp [h]

@[simp] theorem sChild_mem (s : State) (ns : List SNode) (cur f c : Nat) : (s.sChild ns cur f c).2.mem = s.mem := by
  induction f generalizing s c with
  | zero => rfl
  | succ f ih =>
    unfold State.sChild
    split
    · rfl
    · split
      · dsimp only
        split <;> simp [ih]
      · exact ih s (c + 1)

theorem sPut_inv {s : State} {out : Word} {i tok : Nat} {t : State} (e : s.sPut out i tok = .ok t)
    (h : Memory.wf s.mem = true) :
    Memory.wf t.mem = true := by
  unfold State.sPut at e
  split at e
  · cases e
  · cases e; simp [h]

/-- Where the walk ends, and where a store of it fails, the memory has its form. -/
theorem sWalk_inv (ns : List SNode) (out : Word) (f : Nat) : ∀ (s : State) (cur a : Nat), Memory.wf s.mem = true →
    (∀ r, s.sWalk ns out f cur a = .ok r → Memory.wf r.2.2.mem = true) ∧
    (∀ e, s.sWalk ns out f cur a = .error e → Memory.wf e.1.mem = true) := by
  induction f with
  | zero =>
    intro s cur a h
    exact ⟨fun r e => by cases e; exact h, fun r e => by cases e⟩
  | succ f ih =>
    intro s cur a h
    have h1 : Memory.wf (s.sChild ns cur ns.length (cur + 1)).2.mem = true := by simpa using h
    unfold State.sWalk
    dsimp only
    cases hc : (s.sChild ns cur ns.length (cur + 1)).1 with
    | none => exact ⟨fun r e => by cases e; exact h1, fun r e => by cases e⟩
    | some c =>
      dsimp only
      cases hp : (s.sChild ns cur ns.length (cur + 1)).2.sPut out a ((ns[c]?.map (·.tok)).getD 0) with
      | error e => exact ⟨fun r e => (nomatch e), fun r e => by cases e; exact h1⟩
      | ok t => exact ih _ _ _ (sPut_inv hp h1)

theorem sBonus_mem {s : State} {b : Word} {gram : Bool} {st : Nat} {o : Option Nat} {t : State}
    (e : s.sBonus b gram = .ok (st, o, t)) : t.mem = s.mem := by
  unfold State.sBonus at e
  split at e
  · cases e; rfl
  · split at e
    · cases e
    · dsimp only at e
      split at e
      · cases e; rfl
      · split at e
        · cases e
        · next hs =>
          split at e <;> cases e <;> exact sample_mem hs

@[simp] theorem sAccept_inv (s : State) (d : XReg) (n : Nat) (h : Memory.wf s.mem = true) :
    Answers (fun t => Memory.wf t.mem = true) (s.sAccept d n) := by
  unfold State.sAccept
  extract_lets w nn neg
  have hn : Answers (fun t => Memory.wf t.mem = true) (neg s) := by simpa [neg] using h
  split
  · exact hn
  · split
    · simp [h]
    · split
      · simp [h]
      · dsimp only
        split
        · exact hn
        · obtain ⟨hok, herr⟩ := sWalk_inv _ (w 16) 64 s 0 0 h
          split
          · next hw => simp [herr _ hw]
          · next u hw =>
            have hu := hok _ hw
            split
            · simp [hu]
            · split
              · simp [hu]
              · next v hb =>
                have hv := (sBonus_mem hb).symm ▸ hu
                split
                · simp [hv]
                · split
                  · simp [hv]
                  · next hp => simp [sPut_inv hp hv]

@[simp] theorem execSacc_inv (d : XReg) (b : Src) (s : State) (h : Memory.wf s.mem = true) :
    Answers (fun t => Memory.wf t.mem = true) (execSacc d b s) := by
  unfold execSacc
  exact sDesc_inv _ _ _ (by simpa using h) fun n => sAccept_inv _ d n (by simpa using h)

/-! ### Machine/Bellows -/

@[simp] theorem landRests_inv (s : State) (bad : Nat → Option Int) (qs : List Rest) (h : Memory.wf s.mem = true) :
    Memory.wf (s.landRests bad qs).1.mem = true := by
  induction qs generalizing s with
  | nil => exact h
  | cons q qs ih =>
    unfold State.landRests
    split
    · exact ih _ (by simp [h])
    · simp [h]

@[simp] theorem bDrop_mem (s : State) (r : BRun) (m : BMsg) : (s.bDrop r m).1.mem = s.mem := by
  unfold State.bDrop
  split <;> rfl

theorem bSend_mem {s : State} {r : BRun} {h : BHead} {t : BStep} {p : Nat} {data : List Byte} {hops : Nat} {x : State × BRun}
    (e : s.bSend r h t p data hops = .ok (some x)) : x.1.mem = s.mem := by
  unfold State.bSend at e
  split at e
  · cases e
  · cases e; rfl
  · dsimp only at e
    split at e <;> cases e
    rfl

theorem bSendStep_mem {s : State} {r : BRun} {h : BHead} {t : BStep} {x : State × BRun × Nat} (e : s.bSendStep r h t = .ok x) :
    x.1.mem = s.mem := by
  unfold State.bSendStep at e
  split at e
  · cases e
  · split at e
    · cases e
    · cases e; rfl
    · next hs => cases e; exact bSend_mem hs

theorem bRecvStep_mem {s : State} {r : BRun} {h : BHead} {t : BStep} {x : State × BRun × Nat} (e : s.bRecvStep r h t = .ok x) :
    x.1.mem = s.mem := by
  unfold State.bRecvStep at e
  dsimp only at e
  split at e
  · split at e <;> cases e
    rfl
  · split at e
    · cases e
    · split at e <;> cases e
      simp

theorem bRrsStep_mem {s : State} {r : BRun} {h : BHead} {t : BStep} {x : State × BRun × Nat} (e : s.bRrsStep r h t = .ok x) :
    x.1.mem = s.mem := by
  unfold State.bRrsStep at e
  dsimp only at e
  split at e
  · split at e <;> cases e
    rfl
  · split at e
    · cases e
    · split at e
      · cases e
      · split at e
        · split at e <;> cases e
          simp
        · split at e
          · cases e
          · cases e; rfl
          · next hs => cases e; simpa using bSend_mem hs

theorem bCopyStep_mem {s : State} {r : BRun} {h : BHead} {t : BStep} {x : State × BRun × Nat} (e : s.bCopyStep r h t = .ok x) :
    x.1.mem = s.mem := by
  unfold State.bCopyStep at e
  split at e
  · cases e
  · split at e <;> cases e
    rfl

theorem bWaitStep_mem {s : State} {r : BRun} {h : BHead} {t : BStep} {x : State × BRun × Nat} (e : s.bWaitStep r h t = .ok x) :
    x.1.mem = s.mem := by
  unfold State.bWaitStep at e
  split at e <;> cases e
  rfl

theorem bPostStep_mem {s : State} {r : BRun} {t : BStep} {x : State × BRun × Nat} (e : s.bPostStep r t = .ok x) :
    x.1.mem = s.mem := by
  unfold State.bPostStep at e
  dsimp only at e
  split at e <;> cases e
  simp

theorem bLoopStep_mem {s : State} {r : BRun} {h : BHead} {t : BStep} {x : State × BRun × Nat} (e : s.bLoopStep r h t = .ok x) :
    x.1.mem = s.mem := by
  unfold State.bLoopStep at e
  dsimp only at e
  split at e
  · split at e <;> cases e
    rfl
  · cases e; rfl

theorem bEndlStep_mem {s : State} {r : BRun} {t : BStep} {x : State × BRun × Nat} (e : s.bEndlStep r t = .ok x) :
    x.1.mem = s.mem := by
  unfold State.bEndlStep at e
  dsimp only at e
  split at e <;> cases e
  rfl

/-- A step's own writes are still on their way: memory is as it was. -/
theorem bDo_mem {s : State} {r : BRun} {h : BHead} {t : BStep} {x : State × BRun × Nat} (e : s.bDo r h t = .ok x) :
    x.1.mem = s.mem := by
  unfold State.bDo at e
  split at e
  · exact bSendStep_mem e
  · exact bRecvStep_mem e
  · exact bRrsStep_mem e
  · exact bCopyStep_mem e
  · exact bWaitStep_mem e
  · exact bPostStep_mem e
  · exact bLoopStep_mem e
  · exact bEndlStep_mem e
  · cases e; rfl

@[simp] theorem bSettle_inv (s : State) (bad : Nat → Option Int) (r : BRun) (h : Memory.wf s.mem = true) :
    Memory.wf (s.bSettle bad r).1.mem = true := by simp [State.bSettle, h]

@[simp] theorem bEndWith_inv (s : State) (r : BRun) (e : BErr) (h : Memory.wf s.mem = true) :
    Memory.wf (s.bEndWith r e).mem = true := by
  unfold State.bEndWith
  dsimp only
  repeat' split
  all_goals simp [h]

@[simp] theorem bEnd_inv (s : State) (r : BRun) (e : BErr) (h : Memory.wf s.mem = true) :
    Memory.wf (s.bEnd r e).mem = true := by
  unfold State.bEnd
  dsimp only
  repeat' split
  all_goals simp [h]

@[simp] theorem setRun_mem (s : State) (r : BRun) : (s.setRun r).mem = s.mem := by simp [State.setRun]

theorem bThen_inv (s : State) (r : BRun) (k : State → BRun → State)
    (hk : ∀ s r, Memory.wf s.mem = true → Memory.wf (k s r).mem = true) (h : Memory.wf s.mem = true) :
    Memory.wf (s.bThen r k).mem = true := by
  unfold State.bThen
  dsimp only
  split
  · exact hk _ _ (by simp [h])
  · simp [h]

@[simp] theorem bRun_inv (s : State) (r : BRun) (h : Memory.wf s.mem = true) : Memory.wf (s.bRun r).mem = true := by
  unfold State.bRun
  split
  · simp [h]
  · next hd t _ =>
    split
    · split <;> simp [h]
    · extract_lets go
      have hgo : ∀ s r, Memory.wf s.mem = true → Memory.wf (go s r).mem = true := by
        intro s r h
        unfold go
        split
        · simp [h]
        · next hb =>
          have h1 := (bDo_mem hb).symm ▸ h
          dsimp only
          split
          · simpa using h1
          · exact bThen_inv _ _ _ (fun s r h => by simpa using h) h1
      split
      · exact bThen_inv _ _ _ hgo h
      · exact hgo _ _ h

@[simp] theorem bEvent_inv (s : State) (op : Nat) (h : Memory.wf s.mem = true) :
    Answers (fun t => Memory.wf t.mem = true) (s.bEvent op) := by
  unfold State.bEvent
  split <;> simp [h]

@[simp] theorem drainDie_inv (s : State) (die : Nat) (cross : Nat → Nat → Bool) (h : Memory.wf s.mem = true) :
    Memory.wf (s.drainDie die cross).mem = true := by
  unfold State.drainDie
  refine foldl_wf _ (fun s p h => ?_) _ _ (by simp [h])
  dsimp only
  split <;> simp [h]

@[simp] theorem execBellowsMessageArrival_mem (id : Nat) (m : BMsg) (s : State) :
    Answers (fun t => t.mem = s.mem) (execBellowsMessageArrival id m s) := by
  unfold execBellowsMessageArrival
  dsimp only
  repeat' split
  all_goals simp

/-! ### Machine/Graph -/

@[simp] theorem wStore_inv (s : State) (die ctx : Nat) (va : Word) (bs : List Byte) (h : Memory.wf s.mem = true) :
    Memory.wf (s.wStore die ctx va bs).mem = true := by
  unfold State.wStore
  split <;> simp [h]

@[simp] theorem modLaunch_mem (s : State) (id : Nat) (f : Launch → Launch) :
    (s.modLaunch id f).mem = s.mem := by simp [State.modLaunch]

@[simp] theorem notifyLoop_mem (n die : Nat) (s : State) : (notifyLoop n die s).mem = s.mem := by
  induction n generalizing s with
  | zero => rfl
  | succ n ih =>
    unfold notifyLoop
    split
    · rfl
    · split
      · rfl
      · rw [ih]

@[simp] theorem notify_mem (s : State) (die : Nat) : (s.notify die).mem = s.mem := by simp [State.notify]

@[simp] theorem endLaunch_mem (s : State) (die : Nat) (l : Launch) (fault : Bool) (runs : Nat) :
    (s.endLaunch die l fault runs).mem = s.mem := by simp [State.endLaunch]

@[simp] theorem readyWhere_mem (s : State) (p : Nat × Nat × Nat → Bool) :
    (s.readyWhere p).mem = s.mem := by simp [State.readyWhere]

@[simp] theorem gFault_inv (s : State) (die : Nat) (l : Launch) (cause node : Nat) (tag : Option Word)
    (h : Memory.wf s.mem = true) :
    Memory.wf (s.gFault die l cause node tag).mem = true := by
  unfold State.gFault
  extract_lets s1 s2 s3
  have h1 : Memory.wf s1.mem = true := by simp [s1, h]
  have h2 : Memory.wf s2.mem = true := by unfold s2; split <;> simp [h1]
  have h3 : Memory.wf s3.mem = true := by
    unfold s3
    split
    · simp [h2]
    · split <;> simp [h2]
  simp [h3]

@[simp] theorem refuseLaunch_mem (s : State) (die : Nat) : (s.refuseLaunch die).mem = s.mem := by
  unfold State.refuseLaunch
  dsimp only
  repeat' split
  all_goals simp

@[simp] theorem execGraphLaunch_inv (w : Word) (s : State) (h : Memory.wf s.mem = true) :
    Answers (fun t => Memory.wf t.mem = true) (execGraphLaunch w s) := by
  unfold execGraphLaunch
  dsimp only
  repeat' split
  all_goals simp [h]

@[simp] theorem fillSet_mem (die q : Nat) (node : Nat × Nat × Nat) (act : Bool) (ds : List (BitVec 512)) (s : State) :
    (fillSet die q node act ds s).1.mem = s.mem := by
  induction ds generalizing s with
  | nil => rfl
  | cons d ds ih =>
    unfold fillSet
    split
    · rfl
    · simp [ih]

@[simp] theorem fillTodo_mem (s : State) (l : Launch) (node act : Nat) (q : GNode) (ds : List (BitVec 512)) :
    (s.fillTodo l node act q ds).mem = s.mem := by simp [State.fillTodo]

theorem onNode_inv (s : State) (n i kind : Nat) (f : Launch → GNode → State) (h : Memory.wf s.mem = true)
    (hf : ∀ l g, Memory.wf (f l g).mem = true) : Answers (fun t => Memory.wf t.mem = true) (s.onNode n i kind f) := by
  unfold State.onNode
  dsimp only
  split
  · simp [h]
  · split
    · simp [h]
    · split
      · simp [h]
      · split <;> simp [h, hf]

@[simp] theorem execTasksetFirstArrival_inv (n i : Nat) (s : State) (h : Memory.wf s.mem = true) :
    Answers (fun t => Memory.wf t.mem = true) (execTasksetFirstArrival n i s) := by
  unfold execTasksetFirstArrival
  refine onNode_inv _ _ _ _ _ h fun l g => ?_
  dsimp only
  split
  · simp [h]
  · split
    · split <;> simp [h]
    · exact h

@[simp] theorem readySet_mem (s : State) (node : Nat × Nat × Nat) : (s.readySet node).mem = s.mem := by simp [State.readySet]

@[simp] theorem execTasksetActivation_inv (n i : Nat) (s : State) (h : Memory.wf s.mem = true) :
    Answers (fun t => Memory.wf t.mem = true) (execTasksetActivation n i s) := by
  unfold execTasksetActivation
  refine onNode_inv _ _ _ _ _ h fun l g => ?_
  dsimp only
  split <;> simp [h]

@[simp] theorem countRetired_inv (s : State) (node : Nat × Nat × Nat) (h : Memory.wf s.mem = true) :
    Memory.wf (s.countRetired node).mem = true := by
  unfold State.countRetired
  dsimp only
  repeat' split
  all_goals simp [h]

@[simp] theorem execCondActivation_inv (n i : Nat) (s : State) (h : Memory.wf s.mem = true) :
    Answers (fun t => Memory.wf t.mem = true) (execCondActivation n i s) := by
  unfold execCondActivation
  refine onNode_inv _ _ _ _ _ h fun l g => ?_
  split
  · exact h
  · split <;> simp [h]

@[simp] theorem execWhileActivation_inv (n i : Nat) (s : State) (h : Memory.wf s.mem = true) :
    Answers (fun t => Memory.wf t.mem = true) (execWhileActivation n i s) := by
  unfold execWhileActivation
  refine onNode_inv _ _ _ _ _ h fun l g => ?_
  split
  · exact h
  · split
    · simp [h]
    · dsimp only
      split
      · simp [h]
      · split <;> simp [h]

@[simp] theorem execJoinActivation_inv (n i : Nat) (s : State) (h : Memory.wf s.mem = true) :
    Answers (fun t => Memory.wf t.mem = true) (execJoinActivation n i s) := by
  unfold execJoinActivation
  refine onNode_inv _ _ _ _ _ h fun l g => ?_
  split <;> simp [h]

@[simp] theorem execEndActivation_inv (n i : Nat) (s : State) (h : Memory.wf s.mem = true) :
    Answers (fun t => Memory.wf t.mem = true) (execEndActivation n i s) := by
  unfold execEndActivation
  refine onNode_inv _ _ _ _ _ h fun l g => ?_
  dsimp only
  split
  · exact h
  · split
    · simp [h]
    · split <;> simp [h]

/-! ### Machine/Sched -/

@[simp] theorem holdRequests_mem (s : State) (die ctx : Nat) : (s.holdRequests die ctx).mem = s.mem := by
  unfold State.holdRequests
  exact foldl_mem _ (fun s k => by simp only [ite_mem, setCore_mem, ite_self]) _ _

@[simp] theorem putBal_inv (s : State) (y : Bal) (h : Memory.wf s.mem = true) : Memory.wf (s.putBal y).mem = true := by
  unfold State.putBal
  dsimp only
  repeat' split
  all_goals simp [h]

@[simp] theorem setBal_inv (s : State) (die ctx b : Nat) (f : Bal → Int) (h : Memory.wf s.mem = true) :
    Memory.wf (s.setBal die ctx b f).mem = true := by
  unfold State.setBal
  split <;> simp [h]

@[simp] theorem readBuckets_inv (s : State) (die ctx : Nat) (h : Memory.wf s.mem = true) :
    Memory.wf (s.readBuckets die ctx).mem = true := by
  unfold State.readBuckets
  exact foldl_wf _ (fun s a h => by simp [h]) _ _ h

@[simp] theorem dispatch_inv (s : State) (t : Task) (h : Memory.wf s.mem = true) : Memory.wf (s.dispatch t).mem = true := by
  unfold State.dispatch
  exact foldl_wf _ (fun s a h => by simp [h]) _ _ (by simp [h])

@[simp] theorem execTaskDispatch_inv (s : State) (h : Memory.wf s.mem = true) :
    Answers (fun t => Memory.wf t.mem = true) (execTaskDispatch s) := by
  unfold execTaskDispatch
  split
  · split <;> simp [h]
  · simp [h]

@[simp] theorem execPreemptionRequest_mem (q : Nat) (s : State) :
    Answers (fun t => t.mem = s.mem) (execPreemptionRequest q s) := by
  unfold execPreemptionRequest
  split <;> simp

@[simp] theorem startSave_inv (s : State) (why goal : Nat) (w : TWait) (h : Memory.wf s.mem = true) :
    Memory.wf (s.startSave why goal w).mem = true := by
  unfold State.startSave
  dsimp only
  repeat' split
  all_goals simp [h]

@[simp] theorem saved_mem (s : State) (t : Task) : (s.saved t).mem = s.mem := by simp [State.saved]

@[simp] theorem freed_mem (s : State) : s.freed.mem = s.mem := by simp [State.freed]

@[simp] theorem lowerPicks_inv (s : State) (h : Memory.wf s.mem = true) : Memory.wf s.lowerPicks.mem = true := by
  unfold State.lowerPicks
  refine foldl_wf _ (fun s k h => ?_) _ _ h
  split
  · split <;> simp [h]
  · exact h

@[simp] theorem execSaveCompletion_inv (s : State) (h : Memory.wf s.mem = true) :
    Answers (fun t => Memory.wf t.mem = true) (execSaveCompletion s) := by
  unfold execSaveCompletion
  split
  · simp [h]
  · split
    · simp [h]
    · next t _ =>
      have h1 : Memory.wf (s.saved t).mem = true := by simp [h]
      extract_lets s1 aux s2
      have h2 : Memory.wf s2.mem = true := lowerPicks_inv _ (by simpa using logRec_inv _ _ _ _ _ h1)
      split <;> simp [h2]

@[simp] theorem execForcedRollback_inv (s : State) (h : Memory.wf s.mem = true) :
    Answers (fun t => Memory.wf t.mem = true) (execForcedRollback s) := by
  unfold execForcedRollback
  split <;> simp [h]

@[simp] theorem complete_inv (s : State) (t : Task) (h : Memory.wf s.mem = true) : Memory.wf (s.complete t).mem = true := by
  unfold State.complete
  dsimp only
  repeat' split
  all_goals simp [h]

@[simp] theorem retire_inv (s : State) (t : Task) (h : Memory.wf s.mem = true) : Memory.wf (s.retire t).mem = true := by
  unfold State.retire
  extract_lets s1 s2 s3 s4
  have h1 : Memory.wf s1.mem = true := by simp [s1, h]
  have h2 : Memory.wf s2.mem = true := foldl_wf _ (fun s m h => by simp [h]) _ _ h1
  have h3 : Memory.wf s3.mem = true := by unfold s3; split <;> simp [h2]
  simpa [s4] using h3

@[simp] theorem execTaskRetirement_inv (s : State) (h : Memory.wf s.mem = true) :
    Answers (fun t => Memory.wf t.mem = true) (execTaskRetirement s) := by
  unfold execTaskRetirement
  dsimp only
  repeat' split
  all_goals simp [h]

@[simp] theorem execCoreRestart_mem (s : State) : Answers (fun t => t.mem = s.mem) (execCoreRestart s) := by
  unfold execCoreRestart
  split <;> simp

@[simp] theorem execQueueEnable_mem (q : Nat) (s : State) : Answers (fun t => t.mem = s.mem) (execQueueEnable q s) := by
  unfold execQueueEnable
  split <;> simp

/-! ### Machine/HostIf -/

@[simp] theorem execTlbInvalidateCompletion_mem (s : State) :
    Answers (fun t => t.mem = s.mem) (execTlbInvalidateCompletion s) := by
  unfold execTlbInvalidateCompletion
  dsimp only
  repeat' split
  all_goals simp

@[simp] theorem drainAgent_inv (s : State) (die key : Nat) (h : Memory.wf s.mem = true) :
    Memory.wf (s.drainAgent die key).mem = true := by
  unfold State.drainAgent
  extract_lets r s1 f outst c g k
  have h1 : Memory.wf s1.mem = true := foldl_wf _ (fun s e h => by simp [h]) _ _ (by simpa using h)
  have hk : Memory.wf k.mem = true := by
    unfold k
    split <;> simpa [g, f] using h1
  rw [focus_mem]
  exact foldl_wf _ (fun s x h => by simp [h]) _ _ hk

@[simp] theorem fenceDie_inv (s : State) (die : Nat) (h : Memory.wf s.mem = true) : Memory.wf (s.fenceDie die).mem = true := by
  unfold State.fenceDie
  extract_lets s0 s1 s2 s3
  have h0 : Memory.wf s0.mem = true := by simpa [s0] using h
  have h1 : Memory.wf s1.mem = true := drainDie_inv _ _ _ (foldl_wf _ (fun s k h => drainAgent_inv s die k h) _ _ h0)
  have h2 : Memory.wf s2.mem = true := loseMembers_inv _ _ h1
  dsimp only
  rwa [dset_mem]

@[simp] theorem execDieOpen_mem (s : State) : Answers (fun t => t.mem = s.mem) (execDieOpen s) := by
  unfold execDieOpen
  dsimp only
  repeat' split
  all_goals simp

@[simp] theorem heat_inv (s : State) (die : Nat) (h : Memory.wf s.mem = true) :
    Memory.wf (s.heat die).mem = true := by simp [State.heat, h]

theorem heats_inv (ds : List Nat) (s : State) (h : Memory.wf s.mem = true) :
    Memory.wf (ds.foldl (fun s d => s.heat d) s).mem = true :=
  foldl_wf _ (fun s d h => heat_inv s d h) _ _ h

/-- For a state that the kernel must not compute: it is a variable here. -/
theorem answers_msix (s : State) (v : List Nat) (h : Memory.wf s.mem = true) :
    Answers (fun t => Memory.wf t.mem = true) (.next { s with msix := v }) := ⟨_, rfl, h⟩

@[simp] theorem execCoolantLoss_inv (s : State) (h : Memory.wf s.mem = true) :
    Answers (fun t => Memory.wf t.mem = true) (execCoolantLoss s) := by
  unfold execCoolantLoss
  exact answers_msix _ _ (heats_inv _ _ h)

@[simp] theorem execClockStep_inv (up : Bool) (s : State) (h : Memory.wf s.mem = true) :
    Answers (fun t => Memory.wf t.mem = true) (execClockStep up s) := by
  unfold execClockStep
  repeat' split
  all_goals simpa using h

@[simp] theorem execChimneyLinkUp_mem (k : Nat) (s : State) : Answers (fun t => t.mem = s.mem) (execChimneyLinkUp k s) := by
  unfold execChimneyLinkUp
  split <;> simp

@[simp] theorem execHeartbeatSend_mem (s : State) : Answers (fun t => t.mem = s.mem) (execHeartbeatSend s) := by
  unfold execHeartbeatSend
  split <;> simp

@[simp] theorem execHeartbeatArrival_mem (dev : Nat) (s : State) :
    Answers (fun t => t.mem = s.mem) (execHeartbeatArrival dev s) := by
  unfold execHeartbeatArrival
  split <;> simp

@[simp] theorem execDeviceLoss_inv (dev : Nat) (s : State) (h : Memory.wf s.mem = true) :
    Answers (fun t => Memory.wf t.mem = true) (execDeviceLoss dev s) := by
  unfold execDeviceLoss
  split <;> simp [h]

@[simp] theorem mbWrite_mem (s : State) (w : Word) : (s.mbWrite w).mem = s.mem := by
  unfold State.mbWrite
  split <;> simp

@[simp] theorem bar0Write_inv (off : Nat) (w : Word) (s : State) (h : Memory.wf s.mem = true) :
    Answers (fun t => Memory.wf t.mem = true) (bar0Write off w s) := by
  unfold bar0Write
  split
  · simp [h]
  · split
    · obtain ⟨t, ht, h1⟩ := execGraphLaunch_inv w (s.focus (off / 8 * 128 + 127)) (by simpa using h)
      rw [ht]
      simpa using h1
    · repeat' split
      all_goals simp [h]

@[simp] theorem execRegisterWrite_inv (off : Nat) (w : Word) (s : State) (h : Memory.wf s.mem = true) :
    Answers (fun t => Memory.wf t.mem = true) (execRegisterWrite off w s) := by
  unfold execRegisterWrite
  split
  · simpa using h
  · split <;> simp [h]

@[simp] theorem execRegisterPageWindowWrite_inv (pa : BitVec 52) (data : List Byte) (s : State) (h : Memory.wf s.mem = true) :
    Answers (fun t => Memory.wf t.mem = true) (execRegisterPageWindowWrite pa data s) := by
  unfold execRegisterPageWindowWrite
  split
  case h_6 => simp [h]
  all_goals split <;> simp [h]

@[simp] theorem hostDo_inv (s : State) (pas : List Nat) (wr : Option (List Byte)) (h : Memory.wf s.mem = true) :
    Memory.wf (s.hostDo pas wr).mem = true := by
  unfold State.hostDo
  split
  · split <;> simp [h]
  · exact h

@[simp] theorem execHostMemoryAccess_inv (off len : Nat) (wr : Option (List Byte)) (s : State) (h : Memory.wf s.mem = true) :
    Answers (fun t => Memory.wf t.mem = true) (execHostMemoryAccess off len wr s) := by
  unfold execHostMemoryAccess
  dsimp only
  repeat' split
  all_goals simp [h]

@[simp] theorem notifyRead_mem (s : State) (die : Nat) : (s.notifyRead die).1.mem = s.mem := by
  unfold State.notifyRead
  split <;> simp

@[simp] theorem execNotifyRead_mem (s : State) : Answers (fun t => t.mem = s.mem) (execNotifyRead s) := by
  unfold execNotifyRead
  split <;> simp

@[simp] theorem bar0Reg_mem (s : State) (off : Nat) : (s.bar0Reg off).1.mem = s.mem := by
  unfold State.bar0Reg
  repeat' split
  all_goals simp

@[simp] theorem bar0Bytes_mem (os : List Nat) (s : State) : (bar0Bytes os s).1.mem = s.mem := by
  induction os generalizing s with
  | nil => rfl
  | cons o os ih => simp [bar0Bytes, ih]

@[simp] theorem bar0Access_inv (off len : Nat) (wr : Option (List Byte)) (s : State) (h : Memory.wf s.mem = true) :
    Answers (fun t => Memory.wf t.mem = true) (bar0Access off len wr s) := by
  unfold bar0Access
  repeat' split
  all_goals simp [h]

@[simp] theorem execHostWindowAccess_inv (pa : BitVec 52) (len : Nat) (wr : Option (List Byte)) (s : State)
    (h : Memory.wf s.mem = true) : Answers (fun t => Memory.wf t.mem = true) (execHostWindowAccess pa len wr s) := by
  unfold execHostWindowAccess
  dsimp only
  repeat' split
  all_goals simp [h]

@[simp] theorem mbEnd_mem (s : State) (st : Word) : (s.mbEnd st).mem = s.mem := by simp [State.mbEnd]

@[simp] theorem execMailboxInvalidCommand_mem (s : State) : Answers (fun t => t.mem = s.mem) (execMailboxInvalidCommand s) := by
  unfold execMailboxInvalidCommand
  split <;> simp

@[simp] theorem execAttest_mem (s : State) : Answers (fun t => t.mem = s.mem) (execAttest s) := by
  unfold execAttest
  split <;> simp

@[simp] theorem execSpdmRequest_mem (nonce : Word) (s : State) :
    Answers (fun t => t.mem = s.mem) (execSpdmRequest nonce s) := by
  unfold execSpdmRequest
  split <;> simp

@[simp] theorem ckptEntry_inv (s : State) (a : Nat) (h : Memory.wf s.mem = true) : Memory.wf (s.ckptEntry a).1.mem = true := by
  unfold State.ckptEntry
  dsimp only
  repeat' split
  all_goals simp [h]

@[simp] theorem ckptLoop_inv (n a : Nat) (p : State × Bool) (h : Memory.wf p.1.mem = true) :
    Memory.wf (ckptLoop n a p).1.mem = true := by
  induction n generalizing a p with
  | zero => exact h
  | succ n ih => exact ih _ _ (by simp [h])

@[simp] theorem execCkpt_inv (s : State) (h : Memory.wf s.mem = true) :
    Answers (fun t => Memory.wf t.mem = true) (execCkpt s) := by
  unfold execCkpt
  dsimp only
  repeat' split
  all_goals simp [h]

@[simp] theorem execRxSegmentArrival_inv (off : BitVec 36) (rx : RxData) (s : State) (h : Memory.wf s.mem = true) :
    Answers (fun t => Memory.wf t.mem = true) (execRxSegmentArrival off rx s) := by
  unfold execRxSegmentArrival
  dsimp only
  repeat' split
  all_goals simp [h]

@[simp] theorem execRxRemoteRead_inv (off : BitVec 36) (len : Nat) (s : State) (h : Memory.wf s.mem = true) :
    Answers (fun t => Memory.wf t.mem = true) (execRxRemoteRead off len s) := by
  unfold execRxRemoteRead
  split
  · simpa using h
  · split <;> simpa using h

@[simp] theorem execModuleReset_inv (s : State) :
    Answers (fun t => Memory.wf t.mem = true) (execModuleReset s) := by
  unfold execModuleReset
  simpa using reset_wf

@[simp] theorem stageDone_mem (s : State) (n : Nat) (data : List Word) : (s.stageDone n data).mem = s.mem := by
  unfold State.stageDone
  split
  · rfl
  · split
    · exact foldl_mem _ (fun s i => modCore_mem s _ _) _ _
    · split
      · rfl
      · split
        · exact foldl_mem _ (fun s d => dset_mem s _ _ _) _ _
        · rfl

@[simp] theorem execBringUpStage_mem (err0 : Byte) (data : List Word) (s : State) :
    Answers (fun t => t.mem = s.mem) (execBringUpStage err0 data s) := by
  unfold execBringUpStage
  dsimp only
  repeat' split
  all_goals simp

@[simp] theorem execSoftErrorCorrected_mem (s : State) : Answers (fun t => t.mem = s.mem) (execSoftErrorCorrected s) := by
  unfold execSoftErrorCorrected
  dsimp only
  repeat' split
  all_goals simp

@[simp] theorem countRollback_mem (s : State) : s.countRollback.mem = s.mem := by
  unfold State.countRollback
  dsimp only
  repeat' split
  all_goals simp

@[simp] theorem harm_inv (s : State) (str : Nat) (addr : Word) (h : Memory.wf s.mem = true) :
    Memory.wf (s.harm str addr).mem = true := by
  unfold State.harm
  dsimp only
  repeat' split
  all_goals simp [h]

@[simp] theorem damage_mem (s : State) (str : Nat) : (s.damage str).mem = s.mem := by
  unfold State.damage
  repeat' split
  all_goals simp

@[simp] theorem mchk_inv (s : State) (str : Nat) (addr : Word) (h : Memory.wf s.mem = true) :
    Memory.wf (s.mchk str addr).mem = true := by
  unfold State.mchk
  dsimp only
  repeat' split
  all_goals simp [h]

@[simp] theorem softBack_inv (s : State) (str : Nat) (h : Memory.wf s.mem = true) : Memory.wf (s.softBack str).mem = true := by
  unfold State.softBack
  repeat' split
  all_goals simp [h]

@[simp] theorem execSoftErrorRollback_inv (str : Nat) (s : State) (h : Memory.wf s.mem = true) :
    Answers (fun t => Memory.wf t.mem = true) (execSoftErrorRollback str s) := by
  unfold execSoftErrorRollback
  simp only [answers_next, focus_mem]
  exact foldl_wf _ (fun s k h => by simp [h]) _ _ h

@[simp] theorem execTargetFillCompletion_mem (t : Nat) (s : State) :
    Answers (fun t => t.mem = s.mem) (execTargetFillCompletion t s) := by
  unfold execTargetFillCompletion
  repeat' split
  all_goals simp

@[simp] theorem execTrapEntry_inv (s : State) (h : Memory.wf s.mem = true) :
    Answers (fun t => Memory.wf t.mem = true) (execTrapEntry s) := by
  unfold execTrapEntry
  split <;> simp [h]

/-! ### Machine/Slots -/

theorem runSlot_inv (i : Instr) (s : State) (h : Memory.wf s.mem = true) :
    Answers (fun t => Memory.wf t.mem = true) (runSlot i s) := by
  unfold runSlot
  cases i with
  | add | sub | mul | mulh | mulhn | and | or | xor | andn | shl | shr | sar | rotl | min | max | minn | maxn | sext | zext
  | bfx | bfi => exact (bin_mem s _ _ _ _ _).form_of_mem h
  | clz | ctz | popc | lih => exact (una_mem s _ _ _ _).form_of_mem h
  | cmpeq | cmpne | cmplt | cmple | cmpltn | cmplen | cmptst => exact (cmp_mem s _ _ _ _).form_of_mem h
  | pand | por | pxor => exact (plog_mem s _ _ _ _ _ _).form_of_mem h
  | fadd | fsub | fmul | fdiv => exact (fbin_mem s _ _ _ _ _ _).form_of_mem h
  | fmin | fmax => exact (fmm_mem s _ _ _ _).form_of_mem h
  | fcmpeq | fcmplt | fcmple => exact (fcmp_mem s _ _ _ _ _ _).form_of_mem h
  | qnum | qden => exact (clove_mem s _ _ _ _).form_of_mem h
  | bprep | bprepL => exact (bprep_mem s _ _ _).form_of_mem h
  | bprepi | bprepiL => exact (bprepI_mem s _ _ _).form_of_mem h
  | sysc | brk => exact callTrap_inv s _ _ h
  | ldN8 | ldN16 | ldN32 | ldN64 | ldsN8 | ldsN16 | ldsN32 | ldsN64 => exact load_inv s _ _ _ _ _ h
  | stN8 | stN16 | stN32 | stN64 | stsN8 | stsN16 | stsN32 | stsN64 => exact store_inv s _ _ _ _ _ h
  | amoadd | amoswp | amocas | amomin | amomax | amoand | amoor => exact amo_inv s _ _ _ _ h
  | fenceCore | fenceDie | fenceDev | fenceFab | ifence => exact (fenceOp_mem s _).form_of_mem h
  | qpop | qtry => exact pop_inv s _ _ _ h
  | agree | agreep | agreeT => exact agree_inv s _ _ _ h
  | vadd | vsub | vmul | vfma | vfms | vmin | vmax | vabs | vneg => exact varith_inv s _ _ _ _ _ _ _ h
  | vand | vor | vxor | vshl | vshr | vsar => exact vlogic_inv s _ _ h
  | vceq | vclt | vcle => exact vcmp_inv s _ _ _ _ h
  | vrcp | vrsq | vsqrt | vexp2 | vlog2 | vtanh | vsigm => exact vspecial_inv s _ _ h
  | vrmax | vrmin => exact vextreme_inv s _ _ h
  | vany | vall => exact vcond_inv s _ _ h
  | mgoBf16 | mgoF16 | mgoW8 | mgoS8 | mgoW4 | mgoS4 | mgol => exact mGo_inv s _ _ h
  | mjoinBf16 | mjoinF16 | mjoinW8 | mjoinS8 | mjoinW4 | mjoinS4 => exact mJoin_inv s _ _ h
  | cgo | cgath | cscat | cbcast | cdx | cpfd | carm | cmred | ckvc | cnet => exact cStart_inv s _ _ _ _ _ _ h
  | cfill _ a | bgo _ a => exact cStart_inv (s.loadC a) _ _ _ _ _ _ (by simpa using h)
  | pfx | li | fma | fsqrt | fcvtfi | fcvtif | qmk | qflr | qceil | qfromf | qtof | lcset | lcget | lcnext | rdid
  | rdfst | wrfst | sgset | vstp | fmset | fmget | agst | mset | mseti | mget | mlatch | cset | cseti | cget | mclr =>
    exact Answers.form_of_mem (by simp [execPfx, execLi, execFma, execFsqrt, execFcvtfi, execFcvtif, execQmk, execQflr,
      execQceil, execQfromf, execQtof, execLcset, execLcget, execLcnext, execRdid, execRdfst, execWrfst, execSgset,
      execVstp, execFmset, execFmget, execAgst, execMset, execMseti, execMget, execMlatch, execCset, execCseti, execCget,
      execMclr]) h
  | wait | waity => exact Answers.form_of_mem (by simp) h
  | post | vnot | vsel | vargmax | vperm | vrot | vbcast | vext | vins | cdis =>
    simp [execPost, execVnot, execVsel, execVargmax, execVperm, execVrot, execVbcast, execVext, execVins, execCdis, h]
  | rfe | rdcr | wrcr | halt | qpush | tspawn | tend | postr | barr | yield | vmov | vcvt | vmx | vunmx | vrsum | vtopk | cpost
  | sframe | strunc | sadv | scur | sgen | smpl | sacc | srng => simp [h]
  -- an event: it stands in no slot
  | _ => simpa using h

/-! ### Machine/Issue -/

@[simp] theorem at_mem (s : State) (i : IOp) : (s.at i).mem = s.mem := by simp [State.at]

@[simp] theorem tokFault_inv (s : State) (r : Nat) (t : TrapInfo) (h : Memory.wf s.mem = true) :
    Memory.wf (s.tokFault r t).mem = true := by
  unfold State.tokFault
  extract_lets s1 c
  have h1 : Memory.wf s1.mem = true := foldl_wf _ (fun s k h => logRec_inv s _ _ _ _ h) _ _ h
  exact takeTrap_inv _ t h1

/-- `takeTimes` with any way to take a record: the kernel can unfold it, as it need not run the search for the record. -/
def takeWith (f : State → Nat → Option (Rec × State)) : Nat → State → Option Word → Option (State × Option Word)
  | 0, s, v => some (s, v)
  | n + 1, s, v =>
    match f s 8 with
    | some (e, s1) => takeWith f n s1 (if v.isSome then v else some e.value)
    | none => none

theorem takeTimes_eq : takeTimes = takeWith State.replayed := by
  have hf : takeTimes._f = takeWith._f State.replayed := by delta takeTimes._f takeWith._f; rfl
  delta takeTimes takeWith
  rw [hf]

theorem takeWith_inv {f : State → Nat → Option (Rec × State)}
    (hf : ∀ s e t, Memory.wf s.mem = true → f s 8 = some (e, t) → Memory.wf t.mem = true) {n : Nat} {s t : State}
    {v w : Option Word} (e : takeWith f n s v = some (t, w)) (h : Memory.wf s.mem = true) : Memory.wf t.mem = true := by
  induction n generalizing s v with
  | zero => cases e; exact h
  | succ n ih =>
    unfold takeWith at e
    split at e
    · next hr => exact ih e (hf _ _ _ h hr)
    · cases e

theorem takeTimes_inv {n : Nat} {s t : State} {v w : Option Word} (e : takeTimes n s v = some (t, w))
    (h : Memory.wf s.mem = true) : Memory.wf t.mem = true := by
  rw [takeTimes_eq] at e
  exact takeWith_inv (fun s e t h hr => replayed_inv hr h) e h

theorem recordReads_inv {s t : State} {ops : List IOp} (e : s.recordReads ops = some t) (h : Memory.wf s.mem = true) :
    Memory.wf t.mem = true := by
  unfold State.recordReads at e
  extract_lets n toks s1 at e
  have h1 : Memory.wf s1.mem = true := foldl_wf _ (fun s k h => logRec_inv s _ _ _ _ h) _ _ h
  clear_value s1
  split at e
  · obtain ⟨⟨u, w⟩, hp, rfl⟩ := Option.map_eq_some_iff.1 e
    have hu := takeTimes_inv hp h1
    exact hu
  · split at e
    · cases e
      exact foldl_wf _ (fun s k h => logRec_inv s _ _ _ _ h) _ _ h1
    · cases e
      exact h1

@[simp] theorem keepSticky_mem (s : State) (i : IOp) : (s.keepSticky i).mem = s.mem := by
  unfold State.keepSticky
  repeat' split
  all_goals simp

@[simp] theorem runOps_inv (cyc : Nat) (two : List Slot) (is : List IOp) (s : State) (h : Memory.wf s.mem = true) :
    Answers (fun t => Memory.wf t.mem = true) (runOps cyc two is s) := by
  induction is generalizing s with
  | nil => simpa [runOps] using h
  | cons i is ih =>
    unfold runOps
    extract_lets p s1 c c2 s2
    have h2 : Memory.wf s2.mem = true := h
    have hr : Answers (fun t => Memory.wf t.mem = true) (if i.on then runSlot i.op s2 else .next s2) := by
      split
      · exact runSlot_inv i.op s2 h2
      · simpa using h2
    obtain ⟨t, ht, h3⟩ := hr
    rw [ht]
    dsimp only
    split
    · exact ih _ (by simpa using h3)
    · simpa using h3

@[simp] theorem rotate_mem (s : State) : s.rotate.mem = s.mem := by simp [State.rotate]

@[simp] theorem transfer_inv (s : State) (b : Bundle) (e : TBuf) (h : Memory.wf s.mem = true) :
    Memory.wf (s.transfer b e).mem = true := by
  unfold State.transfer
  dsimp only
  repeat' split
  all_goals simp [h]

@[simp] theorem finish_inv (s : State) (b : Bundle) (take : Bool) (h : Memory.wf s.mem = true) :
    Memory.wf (s.finish b take).mem = true := by
  unfold State.finish
  dsimp only
  repeat' split
  all_goals simp [h]

@[simp] theorem afterSlots_inv (t : State) (b : Bundle) (pieces counted : Nat) (take : Bool) (h : Memory.wf t.mem = true) :
    Memory.wf (t.afterSlots b pieces counted take).mem = true := by
  unfold State.afterSlots
  dsimp only
  repeat' split
  all_goals simp [h]

@[simp] theorem issueLate_inv (s : State) (b : Bundle) (l : Late) (h : Memory.wf s.mem = true) :
    Answers (fun t => Memory.wf t.mem = true) (s.issueLate b l) := by
  unfold State.issueLate
  extract_lets i now waited c s1 tq iss s2
  split
  · simpa using h
  · obtain ⟨t, ht, h1⟩ := runSlot_inv l.op
      { s2 with core := { s2.core with iss := { s2.core.iss with piece := 1, late := none } } } h
    dsimp only at ht ⊢
    rw [ht]
    dsimp only
    split
    · simpa using h1
    · simp [h1]

@[simp] theorem unpin_mem (s : State) : s.unpin.mem = s.mem := by
  unfold State.unpin
  split <;> simp

@[simp] theorem issue_inv (s : State) (b : Bundle) (ops : List IOp) (take : Bool) (h : Memory.wf s.mem = true) :
    Answers (fun t => Memory.wf t.mem = true) (s.issue b ops take) := by
  unfold State.issue
  extract_lets two cyc n on enters regs p
  split
  · simp [h]
  · next s0 hs =>
    have h0 := recordReads_inv hs h
    split
    · obtain ⟨t, ht, h1⟩ := runOps_inv cyc [] (ops.filter fun i => !two.contains i.slot) s0 h0
      rw [ht]
      dsimp only
      split <;> simpa using h1
    · obtain ⟨t, ht, h1⟩ := runOps_inv cyc two p.1 s0 h0
      rw [ht]
      dsimp only
      split
      · simpa using h1
      · split <;> split <;> simp [h1]

@[simp] theorem settle_inv (s : State) (h : Memory.wf s.mem = true) : Memory.wf s.settle.mem = true := by
  unfold State.settle
  dsimp only
  repeat' split
  all_goals simp [h]

@[simp] theorem begin_mem (s : State) (ws : List Syl) : (s.begin ws).mem = s.mem := by simp [State.begin]

@[simp] theorem rowsNew_mem (s : State) : s.rowsNew.mem = s.mem := by
  unfold State.rowsNew
  split <;> rfl

/-- The state that a plan carries has its memory in form. -/
def Plan.Formed : Plan → Prop
  | .stall s | .stop s | .go s _ _ _ => Memory.wf s.mem = true

theorem planSlots_inv (s : State) (b : Bundle) (h : Memory.wf s.mem = true) : Plan.Formed (s.planSlots b) := by
  unfold State.planSlots
  extract_lets c iss s0 ops take
  have h0 : Memory.wf s0.mem = true := h
  clear_value take
  cases take with
  | none => exact h
  | some tk =>
    dsimp only
    split
    · exact h
    · split
      · exact takeTrap_inv s0 _ h0
      · split
        · exact tokFault_inv s0 _ _ h0
        · exact h0

theorem planBody_inv (s : State) (h : Memory.wf s.mem = true) : Plan.Formed s.planBody := by
  unfold State.planBody
  split
  · exact takeTrap_inv s _ h
  · split
    · exact takeTrap_inv s _ h
    · split
      · exact startSave_inv s _ _ _ h
      · exact planSlots_inv s _ h

theorem planCheckpoint_inv (s s0 : State) (h : Memory.wf s.mem = true) (h0 : Memory.wf s0.mem = true) :
    Plan.Formed (s.planCheckpoint s0) := by
  unfold State.planCheckpoint
  split
  · exact h0
  · extract_lets s1 pcb seq hd r c c2 iss s2
    have h1 : Memory.wf s1.mem = true := by simpa [s1] using h
    have hr : Memory.wf r.1.mem = true := by simpa [r] using checkpoint_inv s1 pcb h1
    clear_value r
    have h2 : Memory.wf s2.mem = true := hr
    split
    · exact takeTrap_inv s1 _ h1
    · split
      · exact takeTrap_inv s2 _ h2
      · exact planBody_inv s2 h2

/-- Where a plan stalls, a state in form stands in its place. -/
theorem Plan.formed_stall {s : State} (h : Memory.wf s.mem = true) (p : Plan) : Plan.Formed p →
    Plan.Formed (match p with
      | .stall _ => .stall s
      | p => p) := by
  intro hp
  cases p with
  | stall => exact h
  | stop | go => exact hp

theorem plan_inv (s : State) (h : Memory.wf s.mem = true) : Plan.Formed s.plan := by
  have hs := settle_inv s h
  unfold State.plan
  split
  · exact h
  · split
    · split
      · exact planBody_inv _ hs
      · split
        · exact h
        · exact Plan.formed_stall h _ (planSlots_inv _ _ hs)
    · extract_lets s1
      have h1 : Memory.wf s1.mem = true := hs
      split
      · cases hp : s1.core.pend with
        | none => exact h1
        | some t => exact takeTrap_inv s1 t h1
      · split
        · exact h
        · split
          · exact takeTrap_inv s1 _ h1
          · extract_lets s2
            have h2 : Memory.wf s2.mem = true := by simpa [s2] using h1
            split
            · exact planCheckpoint_inv s2 s h2 h
            · exact Plan.formed_stall h _ (planBody_inv s2 h2)

@[simp] theorem execBundleIssue_inv (s : State) (h : Memory.wf s.mem = true) :
    Answers (fun t => Memory.wf t.mem = true) (execBundleIssue s) := by
  unfold execBundleIssue
  split
  · split <;> simp [h]
  · have hp := plan_inv s h
    split
    · next t ht =>
      rw [ht] at hp
      exact ⟨_, rfl, by simpa [Plan.Formed] using hp⟩
    · next t ht =>
      rw [ht] at hp
      exact ⟨_, rfl, by simpa [Plan.Formed] using hp⟩
    · next t b ops take ht =>
      rw [ht] at hp
      have h1 : Memory.wf t.mem = true := hp
      split <;> simp [h1]

@[simp] theorem joinsNow_mem (s : State) : s.joinsNow.mem = s.mem := by
  unfold State.joinsNow
  exact foldl_mem _ (fun s k => by simp only [ite_mem, setCore_mem, ite_self]) _ _

@[simp] theorem issueEach_inv (ks : List Nat) (s : State) (h : Memory.wf s.mem = true) :
    Answers (fun t => Memory.wf t.mem = true) (issueEach ks s) := by
  induction ks generalizing s with
  | nil => simpa [issueEach] using h
  | cons k ks ih =>
    obtain ⟨t, ht, h1⟩ := execBundleIssue_inv (s.focus k) (by simpa using h)
    unfold issueEach
    rw [ht]
    exact ih t h1

@[simp] theorem execMjoinRendezvous_inv (s : State) (h : Memory.wf s.mem = true) :
    Answers (fun t => Memory.wf t.mem = true) (execMjoinRendezvous s) := by
  unfold execMjoinRendezvous
  extract_lets u
  have hu : Memory.wf u.mem = true := by simpa [u] using h
  split
  · simpa using hu
  · next ks _ =>
    simp only [answers_next, focus_mem]
    exact foldl_wf _ (fun s k h => by simp [h]) _ _ hu
  · next ks _ =>
    split
    · extract_lets s1
      have h1 : Memory.wf s1.mem = true := foldl_wf _ (fun s k h => by simp [h]) _ _ hu
      obtain ⟨t, ht, h2⟩ := issueEach_inv ks s1 h1
      rw [ht]
      simpa using h2
    · simpa using hu

@[simp] theorem execYieldThresholdExpiry_inv (s : State) (h : Memory.wf s.mem = true) :
    Answers (fun t => Memory.wf t.mem = true) (execYieldThresholdExpiry s) := by
  unfold execYieldThresholdExpiry
  split <;> simp [h]

/-! ### Machine/Dispatch -/

theorem exec_inv (i : Instr) (s : State) (h : Memory.wf s.mem = true) :
    Answers (fun t => Memory.wf t.mem = true) (exec i s) := by
  have hs := runSlot_inv i s h
  unfold exec
  cases i with
  | bellowsSend | bellowsRecv | bellowsRrs | bellowsCopy | bellowsWait | bellowsPost | bellowsLoop | bellowsEndl
  | bellowsHalt =>
    exact bEvent_inv s _ h
  | exposedResultLanding | flueMove | tlbInvalidate | engineRestart | chimneyLinkDown | hearthLanding | hubLinkRetrain =>
    exact Answers.form_of_mem (by simp [execExposedResultLanding, execFlueMove, execTlbInvalidate, execEngineRestart,
      execChimneyLinkDown, execHearthLanding, execHubLinkRetrain]) h
  | targetFillCompletion | preemptionRequest | heartbeatArrival | bellowsMessageArrival | queueEnable | bringUpStage
  | chimneyLinkUp | spdmRequest | heartbeatSend | notifyRead | tlbInvalidateCompletion | dieOpen | attest
  | mailboxInvalidCommand | softErrorCorrected | coreRestart =>
    exact Answers.form_of_mem (by simp) h
  | machineCheck | damperCharge | damperRefill | dieFence | hubLinkFailure | thermalFence =>
    simp [execMachineCheck, execDamperCharge, execDamperRefill, execDieFence, execHubLinkFailure, execThermalFence, h]
  | loadCompletion | copyCompletion | cnetCompletion | landingPostDelivery | cpostDelivery | armedCopyFire
  | flagPostDelivery | queueMessageAppend | agreementContributionArrival | lateLimitExpiry | agreementOutcomeDelivery
  | reportCopyWrite | groupInvalidate | deviceLoss | frameArrival | rxSegmentArrival | rxRemoteRead | graphLaunch
  | tasksetFirstArrival | tasksetActivation | condActivation | whileActivation | joinActivation | endActivation
  | registerPageWindowWrite | registerWrite | hostMemoryAccess | hostCompletionTimeout | clockStep | softErrorRollback
  | hostWindowAccess | weakStoreReachesHome | bundleIssue | trapEntry | mjoinRendezvous | mjoinWaitLimitExpiry
  | fenceCompletion | taskRetirement | taskDispatch | forcedRollback | saveCompletion | yieldThresholdExpiry
  | saffronRequestTake | ckpt | coolantLoss | moduleReset => simp [h]
  | _ => exact hs

/-! ### Machine/Events -/

@[simp] theorem stallCount_mem (s : State) (dt : Nat) : (s.stallCount dt).mem = s.mem := by
  unfold State.stallCount
  exact foldl_mem _ (fun s k => modCore_mem s k _) _ _

@[simp] theorem damper_inv (s : State) (t0 dt : Nat) (h : Memory.wf s.mem = true) : Memory.wf (s.damper t0 dt).mem = true := by
  unfold State.damper
  exact foldl_wf _ (fun s b h => by simp [h]) _ _ h

@[simp] theorem pass_inv (s : State) (h : Memory.wf s.mem = true) : Memory.wf s.pass.mem = true := by simp [State.pass, h]

/-! ### Machine/Step -/

theorem run_inv {s t : State} {e : Ev} (ht : s.run e = .next t) (h : Memory.wf s.mem = true) : Memory.wf t.mem = true := by
  unfold State.run at ht
  split at ht
  · obtain ⟨u, hu, h1⟩ := exec_inv e.ev (s.focus e.who) (by simpa using h)
    rw [hu] at ht
    cases ht
    exact h1
  · cases ht

theorem step_inv {s t : State} (h : Memory.wf s.mem = true) (ht : step s = .next t) : Memory.wf t.mem = true := by
  have hb : Memory.wf s.bump.mem = true := h
  unfold step at ht
  dsimp only at ht
  split at ht
  · exact run_inv ht hb
  · exact run_inv ht hb
  · split at ht
    · exact run_inv ht hb
    · cases ht
      exact pass_inv _ hb

/-- Settles O58: whatever the step runs, an event (`exec_inv`) or the passing of time, keeps the form. -/
theorem stepsKeepTheMemoryForm : Obligations.StepsKeepTheMemoryForm := by
  unfold Obligations.StepsKeepTheMemoryForm
  intro s t h ht
  exact step_inv h ht

end Sys2Proof.MemoryForm

/-!
A copy whose host side is late (O53). Its statement says that of the registers only the token's takes a new value. A copy may
also write the register page of its own core (spec/03 R87), and what it writes before it ends stands there.
-/
namespace Sys2Proof.HostLate
open Machine Laws Claims

/-- A timeout past the results and the withheld entries names a copy (spec/10 R261). -/
theorem hostTimeout_copy (s : State) (i : Nat) (x : Copy) (hx : s.core.copies[i]? = some x) (hr : x.state = .running)
    (he : x.early = none) (hh : s.cHosted x = true) :
    exec (.hostCompletionTimeout (s.core.outst.length + s.core.whb.length + i)) s = .next (s.copyLate x) := by
  have ho : s.core.outst[s.core.outst.length + s.core.whb.length + i]? = none := by simp; omega
  have hj : s.core.outst.length + s.core.whb.length + i - s.core.outst.length = s.core.whb.length + i := by omega
  change execHostCompletionTimeout _ s = _
  simp [execHostCompletionTimeout, ho, hj, hx, hr, he, hh]

/-! ### A core with such a copy -/

/-- Page tables of die 0: the first gigabyte of its DRAM, then the host, then the windows of the cores. -/
def lateMem : List Host.Cell :=
  memPut (placeMem [] 0 64 0) (placeMid + 8) (leBytes 8 (pteGig (0xE * 2 ^ 48)) ++ leBytes 8 (pteGig (0xF * 2 ^ 48)))

/-- A core that runs bundles, with nothing in flight; its die is open. -/
def lateBase : State :=
  { State.reset with core := Core.reset.placed 0 0 0, mem := lateMem, dreg := [(offPARTCTL, 0)], bootstat := 0x600 }

/-- What the copy has still to write: a byte of x9 in the register page of core 0. -/
def lateRest : CRes := { ws := [(winAddr 0 (0x800000 + 8 * 9), 1)], status := 0, done := 1, faddr := 0, rows := [0] }

/-- A `ckvc` of one entry from the host to x9 in the register page of its own core, part of which has been seen. -/
def lateCopy : Copy :=
  { id := 5, slot := 1, op := .kvc, state := .running, pat := 0, tok := some 7, code := 7, pcb := 0, acc := lateBase.acc
    img := #v[w64 (2 ^ 62 + 2 ^ 30), w64 (2 ^ 62 + 2 ^ 31 + 0x800000 + 8 * 9), w64 (8 * 2 ^ 16), 0, 0, 0, BitVec.allOnes 64, 0, 0]
    task := 0, banks := 0, flag := 0, thr := 0, hit := false, ord := 5, row0 := 0, early := none, hseq := 0, acq := 0, fwd := []
    sinceCk := true, disc := false, status := 0, faddr := 0, tokDone := false, wrote := [], land := none
    at0 := some 0, rest := some lateRest }

def lateState : State := { lateBase with core := { lateBase.core with copies := [lateCopy] } }

theorem ownsCopy_late : OwnsCopy lateState lateCopy 7 := by
  refine ⟨List.mem_singleton.2 rfl, rfl, rfl, rfl, rfl, rfl, rfl, ?_, ?_, ?_, rfl⟩
  · intro y hy _
    exact List.mem_singleton.1 hy
  · intro y hy hn
    exact absurd (List.mem_singleton.1 hy) hn
  · intro k hk hn
    exact absurd (List.mem_singleton.1 hk) hn

theorem cHosted_late : lateState.cHosted lateCopy = true := by decide +kernel

/-- The entry is written whole, as part of it has been seen (spec/10 R276): no free value decides. -/
theorem copyLate_late : lateState.copyLate lateCopy = lateState.endCopy 0 lateCopy
    { lateRest.firstRows 1 with status := -4, faddr := lateState.free 64 (2 ^ 62 + 1) } := by
  unfold State.copyLate
  simp [lateCopy, lateRest, Nat.mod_one, lateState, lateBase, State.reset]

theorem x9_before : lateState.core.live.x[9] = 0 := by decide +kernel

theorem x9_copyLate : (lateState.copyLate lateCopy).core.live.x[9] = 1 := by
  rw [copyLate_late]
  decide +kernel

/-- Refutes O53: a late copy may have written the register page of its own core. Here its token is x7, and x9, which held 0,
holds 1 after it. -/
theorem not_hostAccesses : ¬ Obligations.HostAccesses := by
  unfold Obligations.HostAccesses
  intro h
  obtain ⟨-, -, -, -, -, hc⟩ := h lateState
  obtain ⟨t, ht, -, hx⟩ := hc 0 lateCopy 7 rfl ownsCopy_late rfl rfl (by decide) cHosted_late
  rw [hostTimeout_copy lateState 0 lateCopy rfl rfl rfl cHosted_late] at ht
  cases ht
  have h9 : (lateState.copyLate lateCopy).core.live.x[9] = (lateState.core.live.x.set 7 (tokenWord (-4)))[9] := by
    rw [hx]
    rfl
  rw [x9_copyLate, Vector.getElem_set_ne (by decide) (by decide) (by decide), x9_before] at h9
  exact absurd h9 (by decide)

end Sys2Proof.HostLate

/-!
The agreement instructions at issue (O27). An outcome that needs no home is LOST: it stands in the once record of the Y slot and
waits for the end of its bundle, and nothing else of the core changes (`agLocal_eq`, `TouchesRecord`). The trapping form enters
the handler from there, with its results in the trap record (`takeTrap_onceOnly`). Any other agreement sends one contribution.
-/
namespace Sys2Proof.Agreements
open Machine Laws Claims

/-! ### Once records -/

/-- Only once records, the context of the bundle in issue and what rows held before have changed. -/
def TouchesRecord (s t : State) : Prop :=
  ∃ o o2 i r, t = { s with core := { s.core with once := o, once2 := o2, iss := i, rowOld := r } }

theorem TouchesRecord.trans {s t u : State} (h : TouchesRecord s t) (h' : TouchesRecord t u) : TouchesRecord s u := by
  obtain ⟨o, o2, i, r, rfl⟩ := h
  obtain ⟨o', o2', i', r', rfl⟩ := h'
  exact ⟨o', o2', i', r', rfl⟩

theorem touchesRecord_settled (s : State) : TouchesRecord s (settled s) := ⟨_, _, _, _, rfl⟩

theorem touchesRecord_agSoon (s : State) (gq : Word) (pair : Option (Fin 16 × Fin 16)) (even : Bool) :
    TouchesRecord s { s with core := s.core.agSoon gq pair even } := ⟨_, _, _, _, rfl⟩

theorem touchesRecord_setOnce (s : State) (i : Fin 2) (r : OnceRec) : TouchesRecord s (s.setOnce i r) := by
  unfold State.setOnce
  split
  · exact ⟨_, _, _, _, rfl⟩
  · split <;> exact ⟨_, _, _, _, rfl⟩

@[simp] theorem setOnce_iss (s : State) (i : Fin 2) (r : OnceRec) : (s.setOnce i r).core.iss = s.core.iss := by
  unfold State.setOnce
  split
  · rfl
  · split <;> rfl

/-- A once record reads as it was written. -/
theorem once_setOnce {s : State} (h : s.onSaffron = false) (i : Fin 2) (r : OnceRec) : (s.setOnce i r).once i = r := by
  unfold State.setOnce
  simp only [h, Bool.false_eq_true, if_false]
  split <;> simp_all [State.once, State.onSaffron, Core.records]

theorem nextSeq_setSeq (s : State) (g m n : Nat) : (s.setSeq g m n).nextSeq g m = n % 2 ^ 32 := by
  simp [State.setSeq, State.nextSeq]

/-- With the recorder off no record is written. -/
theorem logRec_noReplay {s : State} (h : s.NoReplay) (kind value aux pair : Nat) : s.logRec kind value aux pair = s := by
  have h0 : s.dgetN (keyDie s.here) offREPCTL 1 0 = 0 := h
  unfold State.logRec State.logAt
  simp [h0]

theorem TouchesRecord.noReplay {s t : State} (h : TouchesRecord s t) (hn : s.NoReplay) : t.NoReplay := by
  obtain ⟨o, o2, i, r, rfl⟩ := h
  exact hn

theorem TouchesRecord.canTrap {s t : State} (h : TouchesRecord s t) (hc : s.CanTrap) : t.CanTrap := by
  obtain ⟨o, o2, i, r, rfl⟩ := h
  exact hc

theorem TouchesRecord.onlyCore {s t u : State} (h : TouchesRecord s t) (hu : OnlyCore t u) : OnlyCore s u := by
  obtain ⟨o, o2, i, r, rfl⟩ := h
  exact hu

/-- The record of a trap does not depend on what an issue leaves in once records and in its own context. -/
theorem TouchesRecord.trapTaken {s u t : State} {c d n : Nat} {b a : Word} (h : TouchesRecord s u)
    (ht : TrapTaken u t c d n b a u.core.ckpt) : TrapTaken s t c d n b a s.core.ckpt := by
  obtain ⟨o, o2, i, q, rfl⟩ := h
  exact ⟨ht.handler, ht.vector, ht.status, ht.resumes, ht.mode, ht.record, ht.bundle, ht.address, ht.point, ht.time, ht.state,
    ht.buffer, ht.bytes⟩

theorem onlyCore_agreements {s t : State} (h : OnlyCore s t) : t.agMail = s.agMail ∧ t.mseq = s.mseq ∧ t.homes = s.homes := by
  rw [h]
  exact ⟨rfl, rfl, rfl⟩

/-! ### The trap of a once-only operation -/

/-- Entry changes the core in focus alone. -/
theorem onlyCore_enterTrap {s : State} (h : s.CanTrap) (t : TrapInfo) : OnlyCore s (s.enterTrap t) := by
  obtain ⟨hq, hp, -, he⟩ := h
  have hd : (s.core.phase == .handler || !s.trapEnabled) = false := by simp [hp, he]
  unfold OnlyCore State.enterTrap State.rollback
  rw [landEverything_quiet s hq]
  simp only [hd, Bool.false_eq_true, if_false]
  rfl

/-- The results of a once-only operation stand in the trap record, and bit 16 of its cause word says so (spec/20 R388); all
else is as for the same trap without them. -/
theorem enterTrap_onceOnly {s : State} (h : s.CanTrap) (t : TrapInfo) (v aux : Word) (pair : BitVec 2) :
    s.enterTrap { t with once := some (v, aux, pair) } =
      let u := s.enterTrap { t with once := none }
      { u with core := { u.core with tcause := tcauseWord { t with once := some (v, aux, pair) } false
                                     tres0 := v, tres1 := aux, tres2 := pair.setWidth 64 } } := by
  obtain ⟨-, hp, -, he⟩ := h
  have hd : (s.core.phase == .handler || !s.trapEnabled) = false := by simp [hp, he]
  unfold State.enterTrap
  simp only [hd, Bool.false_eq_true, if_false]
  rfl

theorem tcauseWord_onceOnly (t : TrapInfo) (v aux : Word) (pair : BitVec 2) (hh : t.held = false) (hr : t.rdiv = false)
    (hs : t.slot < 16) : tcauseWord { t with once := some (v, aux, pair) } false =
      BitVec.ofNat 64 (t.detail.toNat % 2 ^ 32 * 2 ^ 32 + t.slot * 2 ^ 20 + (2 ^ 16 + t.cause)) := by
  have hm : t.slot % 16 = t.slot := Nat.mod_eq_of_lt hs
  have hd : t.detail.toNat % 2 ^ 32 = t.detail.toNat := Nat.mod_eq_of_lt t.detail.isLt
  rw [hd]
  simp [tcauseWord, boolW, hh, hr, hm, Nat.add_assoc]

/-- A trap record with another cause word and with results. -/
theorem trapTaken_withResults {s u : State} {c c' d n : Nat} {b a r word x y z : Word} (h : TrapTaken s u c d n b a r)
    (hw : word = BitVec.ofNat 64 (d % 2 ^ 32 * 2 ^ 32 + n * 2 ^ 20 + c')) :
    TrapTaken s { u with core := { u.core with tcause := word, tres0 := x, tres1 := y, tres2 := z } } c' d n b a r :=
  ⟨h.handler, h.vector, h.status, h.resumes, h.mode, hw, h.bundle, h.address, h.point, h.time, h.state, h.buffer, h.bytes⟩

/-- Taking the trap of a once-only operation. -/
theorem takeTrap_onceOnly {s : State} (h : s.CanTrap) (t : TrapInfo) (v aux : Word) (pair : BitVec 2) (hh : t.held = false)
    (hr : t.rdiv = false) (hs : t.slot < 16) :
    let u := s.takeTrap { t with once := some (v, aux, pair) }
    TrapTaken s u (2 ^ 16 + t.cause) t.detail.toNat t.slot t.pcb t.addr (t.resume.getD s.core.ckpt) ∧
      u.core.tres0 = v ∧ u.core.tres1 = aux ∧ OnlyCore s u := by
  have hc : (settled s).CanTrap := h
  have hp := takeTrap_taken s { t with once := none } h rfl hh hr hs
  rw [takeTrap_quiet s { t with once := none } h hh] at hp
  have ho := onlyCore_enterTrap hc { t with once := some (v, aux, pair) }
  rw [takeTrap_quiet s { t with once := some (v, aux, pair) } h hh]
  rw [enterTrap_onceOnly hc t v aux pair] at ho ⊢
  exact ⟨trapTaken_withResults hp (tcauseWord_onceOnly t v aux pair hh hr hs), rfl, rfl, ho⟩

/-! ### An outcome known at issue -/

/-- The physical registers of an agreement's pair. -/
def pairRegs (s : State) (a : AgArgs) : Option (Fin 16 × Fin 16) :=
  a.pr.map fun p => (physP s.core.live (pairEven p), physP s.core.live (pairOdd p))

/-- What a LOST outcome leaves in the Y entry. -/
def lostRecord (a : AgArgs) (seq : Nat) : OnceRec := onceOf 0 (lostOut seq).status (a.pr.map fun _ => false)

/-- LOST at issue: the bundle's end writes gq and the pair, and the Y entry holds the outcome. -/
def lostAtIssue (s : State) (a : AgArgs) (seq : Nat) : State :=
  State.setOnce { s with core := s.core.agSoon 0 (pairRegs s a) false } 1 (lostRecord a seq)

theorem touchesRecord_lostAtIssue (s : State) (a : AgArgs) (seq : Nat) : TouchesRecord s (lostAtIssue s a seq) :=
  (touchesRecord_agSoon s 0 _ false).trans (touchesRecord_setOnce _ _ _)

theorem once_lostAtIssue {s : State} (h : s.onSaffron = false) (a : AgArgs) (seq : Nat) :
    (lostAtIssue s a seq).once 1 = lostRecord a seq :=
  once_setOnce (s := { s with core := s.core.agSoon 0 (pairRegs s a) false }) h 1 _

theorem eob_lostAtIssue (s : State) (a : AgArgs) (seq : Nat) :
    (lostAtIssue s a seq).core.iss.eob = s.core.iss.eob ++ [.ag 0 (a.pr.map fun p =>
      (physP s.core.live (pairEven p), physP s.core.live (pairOdd p), false))] := by
  simp [lostAtIssue, Core.agSoon, pairRegs, Function.comp_def]

/-- The task's record of its membership takes the status; outside a membership it has none (spec/01 R23). -/
def noted (s : State) (a : AgArgs) (seq : Nat) (outside : Bool) : State :=
  match s.core.task with
  | some id => if outside then s else s.setAgStat id a.mb.val (lostOut seq).status 0
  | none => s

theorem noted_outside (s : State) (a : AgArgs) (seq : Nat) : noted s a seq true = s := by
  unfold noted
  split <;> rfl

theorem noted_eq (s : State) (a : AgArgs) (seq : Nat) (outside : Bool) : ∃ ts, noted s a seq outside = { s with tasks := ts } := by
  unfold noted
  split
  · split <;> exact ⟨_, rfl⟩
  · exact ⟨_, rfl⟩

/-- With the recorder off the outcome stands in the once record, and the trapping form raises AGFAIL from there. -/
theorem agLocal_eq {s : State} (h : s.NoReplay) (a : AgArgs) (trapping : Bool) (g m seq : Nat) (outside : Bool) :
    s.agLocal a trapping g m seq outside =
      let u := lostAtIssue (noted s a seq outside) a seq
      if trapping then
        u.agFail (s.agWaitOf a trapping g m seq none) 0 (lostOut seq).status (a.pr.map fun _ => false) outside
      else u := by
  obtain ⟨ts, e⟩ := noted_eq s a seq outside
  have hn : (lostAtIssue (noted s a seq outside) a seq).NoReplay := by
    rw [e]
    exact TouchesRecord.noReplay (s := { s with tasks := ts }) (touchesRecord_lostAtIssue _ a seq) h
  have hl : State.agLog (lostAtIssue (noted s a seq outside) a seq) 0 (lostOut seq).status (a.pr.map fun _ => false) =
      lostAtIssue (noted s a seq outside) a seq := logRec_noReplay hn _ _ _ _
  have hr : pairRegs (noted s a seq outside) a = pairRegs s a := by
    rw [e]
    rfl
  dsimp only
  rw [← hl]
  unfold lostAtIssue lostRecord
  rw [hr]
  unfold State.agLocal pairRegs noted State.agWaitOf
  simp only [Option.map_map]
  rfl

/-- The form that does not trap leaves the outcome in the Y entry and at the bundle's end; else only the task's record of its
membership may have changed. -/
theorem agLocal_lost {s : State} (hn : s.NoReplay) (hs : s.onSaffron = false) (a : AgArgs) (g m seq : Nat) (outside : Bool) :
    (∃ ts, TouchesRecord { s with tasks := ts } (s.agLocal a false g m seq outside)) ∧
    (s.agLocal a false g m seq outside).once 1 = lostRecord a seq ∧
    (s.agLocal a false g m seq outside).core.iss.eob = s.core.iss.eob ++ [.ag 0 (a.pr.map fun p =>
      (physP s.core.live (pairEven p), physP s.core.live (pairOdd p), false))] := by
  obtain ⟨ts, e⟩ := noted_eq s a seq outside
  have hl : s.agLocal a false g m seq outside = lostAtIssue { s with tasks := ts } a seq := by
    rw [agLocal_eq hn, ← e]
    rfl
  rw [hl]
  exact ⟨⟨ts, touchesRecord_lostAtIssue _ a seq⟩, once_lostAtIssue (s := { s with tasks := ts }) hs a seq,
    eob_lostAtIssue _ a seq⟩

/-- AGFAIL (spec/11 R291) before its results are in its record: `out` marks the case of spec/01 R23. -/
def agFailTrap (w : AgWait) (st : Word) (out : Bool) : TrapInfo :=
  { cause := 0x0A, detail := BitVec.ofNat 32 (natBits st.toNat 2 0 + natBits st.toNat 6 4 * 16 + boolW out 7),
    slot := 2, pcb := w.pcb, seq := w.bseq }

theorem agFail_eq (s : State) (w : AgWait) (gq st : Word) (pair : Option Bool) (out : Bool) : ∃ tr2 mine,
    s.agFail w gq st pair out = (s.landEverything.setOnce 1 { s.landEverything.once 1 with trapped := mine }).takeTrap
      { agFailTrap w st out with once := some (gq, st, tr2) } := by
  unfold State.agFail agFailTrap
  exact ⟨_, _, rfl⟩

/-- AGFAIL at issue: the results go into the trap record, and of the rest only the core in focus changes. -/
theorem agFail_taken {s : State} (h : s.CanTrap) (w : AgWait) (gq st : Word) (pair : Option Bool) (out : Bool) :
    TrapTaken s (s.agFail w gq st pair out) (2 ^ 16 + 0x0A) (agFailTrap w st out).detail.toNat 2 w.pcb 0 s.core.ckpt ∧
      (s.agFail w gq st pair out).core.tres0 = gq ∧ (s.agFail w gq st pair out).core.tres1 = st ∧
      OnlyCore s (s.agFail w gq st pair out) := by
  obtain ⟨tr2, mine, e⟩ := agFail_eq s w gq st pair out
  have hv : TouchesRecord s (s.landEverything.setOnce 1 { s.landEverything.once 1 with trapped := mine }) := by
    have hl : TouchesRecord s s.landEverything := landEverything_quiet s h.1 ▸ touchesRecord_settled s
    exact hl.trans (touchesRecord_setOnce _ _ _)
  have hs : (agFailTrap w st out).slot < 16 := show 2 < 16 by decide
  obtain ⟨ht, h0, h1, hc⟩ := takeTrap_onceOnly (hv.canTrap h) (agFailTrap w st out) gq st tr2 rfl rfl hs
  rw [e]
  exact ⟨hv.trapTaken ht, h0, h1, hv.onlyCore hc⟩

/-! ### The forms of `agree` -/

theorem exec_agreeOp {i : Instr} {a : AgArgs} {trapping : Bool} {hint : Option Bool} (h : agreeOp i = some (a, trapping, hint))
    (s : State) : exec i s = s.agree a trapping hint := by
  unfold agreeOp at h
  split at h <;> cases h <;> rfl

/-- The contribution is under way to the home, under the member's next sequence number, which advances. -/
def mailed (s : State) (a : AgArgs) (g m : Nat) : State :=
  { s.setSeq g m (s.nextSeq g m + 1) with agMail := s.agMail ++ [(g, m, contribution s a (s.nextSeq g m))] }

section
variable {s : State} (a : AgArgs) (trapping : Bool) (hint : Option Bool)

/-- An agreement not yet performed, with the recorder off, of a task without the membership (spec/01 R23). -/
theorem agree_outside (hn : s.NoReplay) (hd : (s.once 1).done = false) (hm : s.membership a.mb = none) :
    s.agree a trapping hint = .next (s.agLocal a trapping 0 0 0 true) := by
  have h0 : s.repMode = 0 := hn
  unfold State.agree
  simp [hd, h0, hm]

variable {g m : Nat} (hn : s.NoReplay) (hd : (s.once 1).done = false) (hm : s.membership a.mb = some (g, m))
  (hv : s.gValid g = true) (hs : s.homeShut g = false) (ha : s.homeAbsent g = false)
include hn hd hm hv hs ha

/-- No Chimney grants the way to the home: the member takes LOST (log 91), and its sequence number advances. -/
theorem agree_denied (hh : s.homeDenied g = true) :
    s.agree a trapping hint =
      .next ((s.setSeq g m (s.nextSeq g m + 1)).agLocal a trapping g m (s.nextSeq g m) false) := by
  have h0 : s.repMode = 0 := hn
  unfold State.agree
  simp [hd, h0, hm, hv, hs, ha, hh]

/-- The contribution leaves, and the Y entry waits (spec/01 R24, R25). -/
theorem agree_sends (hh : s.homeDenied g = false) :
    s.agree a trapping hint =
      let u := (mailed s a g m).setOnce 1 { done := true, wait := true }
      .next { u with core := { u.core with
        agw := some (s.agWaitOf a trapping g m (s.nextSeq g m) hint), runAhead := hint.isSome } } := by
  have h0 : s.repMode = 0 := hn
  unfold State.agree
  simp only [hd, h0, hm, hv, hs, ha, hh]
  rfl

end

/-! ### The statements -/

theorem status_lostOut_zero : (lostOut 0).status = 0x33 := by decide

theorem agreementsOutsideTheTask : AgreementsOutsideTheTask := by
  intro s i a trapping hint hi hn hsf hd hm
  rw [exec_agreeOp hi s, agree_outside a trapping hint hn hd hm, agLocal_eq hn, noted_outside]
  have hu := touchesRecord_lostAtIssue s a 0
  have ho := once_lostAtIssue hsf a 0
  have he := eob_lostAtIssue s a 0
  constructor
  · rintro rfl
    refine ⟨_, rfl, ?_⟩
    dsimp only
    rw [if_neg Bool.false_ne_true, ho, he]
    obtain ⟨o, o2, j, r, e⟩ := hu
    rw [e]
    exact ⟨fun _ => rfl, rfl, rfl, rfl, rfl, rfl, status_lostOut_zero, rfl, rfl, rfl, rfl⟩
  · rintro rfl hc
    refine ⟨_, rfl, ?_⟩
    dsimp only
    rw [if_pos rfl, status_lostOut_zero]
    obtain ⟨ht, h0, h1, hcore⟩ := agFail_taken (hu.canTrap hc) (s.agWaitOf a true 0 0 0 none) 0 0x33 (a.pr.map fun _ => false) true
    exact ⟨hu.trapTaken ht, h0, h1, onlyCore_agreements (hu.onlyCore hcore)⟩

theorem agreementsContribute : AgreementsContribute := by
  intro s i a trapping hint g m hi hn hsf hd hm hv hs ha
  have hq := nextSeq_setSeq s g m (s.nextSeq g m + 1)
  constructor
  · rintro hh rfl
    rw [exec_agreeOp hi s, agree_denied a false hint hn hd hm hv hs ha hh]
    refine ⟨_, rfl, ?_⟩
    obtain ⟨⟨ts, o, o2, j, r, hu⟩, ho, he⟩ :=
      agLocal_lost (s := s.setSeq g m (s.nextSeq g m + 1)) hn hsf a g m (s.nextSeq g m) false
    rw [he, ho, hu]
    exact ⟨fun _ => rfl, rfl, rfl, rfl, hq, rfl, rfl, rfl⟩
  · intro hh
    rw [exec_agreeOp hi s, agree_sends a trapping hint hn hd hm hv hs ha hh]
    have ho := once_setOnce (s := mailed s a g m) hsf 1 { done := true, wait := true }
    obtain ⟨o, o2, j, r, hu⟩ := touchesRecord_setOnce (mailed s a g m) 1 { done := true, wait := true }
    dsimp only
    rw [hu] at ho ⊢
    exact ⟨_, _, rfl, fun _ => rfl, rfl, hq, congrArg OnceRec.done ho, congrArg OnceRec.wait ho, rfl, rfl, rfl, rfl, rfl, rfl,
      rfl, rfl, rfl, rfl⟩

/-! ### `agst` -/

/-- What `agst` delivers: −1 outside a membership, else what the selector names (spec/11 R292). -/
def agstValue (s : State) (mb sel : Fin 4) : Word :=
  match s.membership mb with
  | none => -1
  | some (g, m) =>
    let st := match s.curTask with
      | some t => t.ag[mb]
      | none => {}
    match sel with
    | 0 => st.sel0
    | 1 => if s.gValid g then BitVec.ofNat 64 (s.nextSeq g m) else -1
    | 2 => st.sel2
    | 3 =>
      if s.gValid g then
        BitVec.ofNat 64 ((s.memCounts g).1 + (s.memCounts g).2.1 * 2 ^ 17 + (s.memCounts g).2.2 * 2 ^ 34)
      else -1

theorem exec_agst (s : State) (d : XReg) (mb sel : Fin 4) {v : Word} (hv : agstValue s mb sel = v) :
    ∃ t, exec (.agst d mb sel) s = .next t ∧ NoStore s t ∧ Delivers s t (some d) v none none := by
  subst hv
  exact ⟨s.deliver (some d) (agstValue s mb sel) none none, rfl, fun _ => rfl, _, rfl, rfl, rfl, rfl, rfl, rfl, rfl, rfl, rfl⟩

/-- Members counted by state: present 0, departed 1, lost above (spec/11 R292). -/
def countStep (s : State) (g : Nat) (p : Nat × Nat × Nat) (m : Nat) : Nat × Nat × Nat :=
  match s.memState g m with
  | 0 => (p.1 + 1, p.2.1, p.2.2)
  | 1 => (p.1, p.2.1 + 1, p.2.2)
  | _ => (p.1, p.2.1, p.2.2 + 1)

theorem foldl_countStep (s : State) (g : Nat) (l : List Nat) (p : Nat × Nat × Nat) :
    l.foldl (countStep s g) p =
      (p.1 + (l.filter fun k => s.memState g k == 0).length, p.2.1 + (l.filter fun k => s.memState g k == 1).length,
        p.2.2 + (l.filter fun k => decide (2 ≤ s.memState g k)).length) := by
  induction l generalizing p with
  | nil => rfl
  | cons k ks ih =>
    rw [List.foldl_cons, ih]
    unfold countStep
    split
    next h => simp [h]; omega
    next h => simp [h]; omega
    next h0 h1 =>
      replace h0 : s.memState g k ≠ 0 := h0
      replace h1 : s.memState g k ≠ 1 := h1
      have h2 : 2 ≤ s.memState g k := by omega
      simp [h0, h1, h2]
      omega

theorem memCounts_eq (s : State) (g : Nat) :
    s.memCounts g = (((List.range (s.gNmem g)).filter fun k => s.memState g k == 0).length,
      ((List.range (s.gNmem g)).filter fun k => s.memState g k == 1).length,
      ((List.range (s.gNmem g)).filter fun k => decide (2 ≤ s.memState g k)).length) := by
  have h := foldl_countStep s g (List.range (s.gNmem g)) (0, 0, 0)
  simp only [Nat.zero_add] at h
  exact h

theorem agreementStatus : AgreementStatus := by
  intro s d mb
  constructor
  · intro hm sel
    exact exec_agst s d mb sel (by simp [agstValue, hm])
  · intro g m k hm hk
    refine ⟨?_, ?_, ?_, ?_, ?_⟩
    · exact exec_agst s d mb 0 (by simp [agstValue, hm, hk])
    · exact exec_agst s d mb 2 (by simp [agstValue, hm, hk])
    · intro hv
      exact exec_agst s d mb 1 (by simp [agstValue, hm, hv, w64])
    · intro hv
      exact exec_agst s d mb 3 (by simp [agstValue, hm, hv, w64, memCounts_eq])
    · rintro hv sel (rfl | rfl)
      · exact exec_agst s d mb 1 (by simp [agstValue, hm, hv])
      · exact exec_agst s d mb 3 (by simp [agstValue, hm, hv])

/-- Settles O27: the three forms of an agreement's issue (`agree_outside`, `agree_denied`, `agree_sends`), and what `agst`
delivers. -/
theorem agreementInstructions : Obligations.AgreementInstructions := by
  unfold Obligations.AgreementInstructions
  exact ⟨agreementsContribute, agreementsOutsideTheTask, agreementStatus⟩

end Sys2Proof.Agreements

/-!
Nothing stops the machine (O60). No meaning answers a fault or a refusal: the shared functions first, then the instructions that
use them (`runSlot_goesOn`), bundles, and every event (`exec_goesOn`). The one fault of a step is an event at an agent that does
not exist; the agents of what is forced, chosen or on the agenda exist where the state's do.
-/
namespace Sys2Proof.Progress
open Machine Laws MemoryForm

/-- The answer is a next state. -/
def GoesOn (r : Res) : Prop := ∃ t, r = .next t

@[simp] theorem goesOn_next (t : State) : GoesOn (.next t) := ⟨t, rfl⟩

theorem goesOn_of_answers {P : State → Prop} {r : Res} (h : Answers P r) : GoesOn r := h.imp fun _ => And.left

/-! ### Functions that the slots share -/

theorem callTrap_goesOn (s : State) (cause : Nat) (b : Imm) : GoesOn (s.callTrap cause b) := by
  unfold State.callTrap
  dsimp only
  repeat' split
  all_goals exact goesOn_next _

theorem privileged_goesOn (s : State) {r : Res} (h : GoesOn r) : GoesOn (s.privileged r) := by
  unfold State.privileged
  split
  · exact h
  · exact goesOn_next _

theorem load_goesOn (s : State) (n : Nat) (strong : Bool) (d : XReg) (base : Src) (off : Opnd) :
    GoesOn (s.load n strong d base off) := by
  unfold State.load
  dsimp only
  repeat' split
  all_goals exact goesOn_next _

theorem store_goesOn (s : State) (n : Nat) (strong : Bool) (v base : Src) (off : Opnd) :
    GoesOn (s.store n strong v base off) := by
  unfold State.store
  dsimp only
  repeat' split
  all_goals exact goesOn_next _

theorem amo_goesOn (s : State) (f : Word → Word → Word) (d : XReg) (base : Src) (v : Opnd) : GoesOn (s.amo f d base v) := by
  unfold State.amo
  dsimp only
  split
  · exact goesOn_next _
  · split
    · split <;> exact goesOn_next _
    · split
      · exact goesOn_next _
      · split <;> exact goesOn_next _

theorem pop_goesOn (s : State) (d : XReg) (p : Option Pair) (q : Src) : GoesOn (s.pop d p q) := by
  unfold State.pop
  extract_lets qv s1 r del
  clear_value s1
  split
  · exact goesOn_next _
  · split
    · split <;> exact goesOn_next _
    · split
      · exact goesOn_next _
      · split
        · exact goesOn_next _
        · split
          · exact goesOn_next _
          · split <;> exact goesOn_next _

theorem post_goesOn (s : State) (xt : Word) (own : Bool) (p : Post) : GoesOn (s.post xt own p) := by
  unfold State.post
  repeat' split
  all_goals exact goesOn_next _

theorem agree_goesOn (s : State) (a : AgArgs) (trapping : Bool) (hint : Option Bool) : GoesOn (s.agree a trapping hint) := by
  unfold State.agree
  extract_lets v r c mm
  clear_value mm
  split
  · split <;> exact goesOn_next _
  · split
    · split <;> exact goesOn_next _
    · split
      · exact goesOn_next _
      · repeat' split
        all_goals exact goesOn_next _

theorem vgo_goesOn (s : State) (ts : List VTy) (r : State) : GoesOn (s.vgo ts r) := by
  unfold State.vgo
  split <;> exact goesOn_next _

theorem mGo_goesOn (s : State) (op : Nat) (w : Option (Fin 14 × Src)) : GoesOn (s.mGo op w) := by
  unfold State.mGo
  dsimp only
  repeat' split
  all_goals exact goesOn_next _

theorem mJoin_goesOn (s : State) (op : Nat) (w : Option (Fin 14 × Src)) : GoesOn (s.mJoin op w) := by
  unfold State.mJoin
  split
  · split
    · exact mGo_goesOn _ op w
    · exact goesOn_next _
  · split <;> exact goesOn_next _

theorem cStart_goesOn (s : State) (op : CopyOp) (t : XReg) (w : Option (Fin 9 × Src)) (pat : Word) (flag : Nat) (thr : Int) :
    GoesOn (s.cStart op t w pat flag thr) := by
  unfold State.cStart
  dsimp only
  repeat' split
  all_goals exact goesOn_next _

theorem streamDone_goesOn (s : State) (d : XReg) (p : Option Pair) (r : SRes) : GoesOn (s.streamDone d p r) := by
  unfold State.streamDone
  dsimp only
  split <;> exact goesOn_next _

theorem streamAgain_goesOn (s : State) (d : XReg) (p : Option Pair) (r : OnceRec) : GoesOn (s.streamAgain d p r) := by
  unfold State.streamAgain
  split <;> exact goesOn_next _

theorem sDesc_goesOn (s : State) (ea : Word) (k : Nat → Res) (h : ∀ n, GoesOn (k n)) : GoesOn (s.sDesc ea k) := by
  unfold State.sDesc
  split
  · exact goesOn_next _
  · split
    · exact goesOn_next _
    · split
      · exact goesOn_next _
      · exact h _

theorem sAccept_goesOn (s : State) (d : XReg) (n : Nat) : GoesOn (s.sAccept d n) := by
  unfold State.sAccept
  dsimp only
  repeat' split
  all_goals exact goesOn_next _

/-! ### Instructions of a slot with a form of their own -/

theorem execQpush_goesOn (q : Src) (v : Opnd) (s : State) : GoesOn (execQpush q v s) := by
  unfold execQpush
  dsimp only
  repeat' split
  all_goals exact goesOn_next _

theorem execTspawn_goesOn (d : XReg) (b q : Src) (s : State) : GoesOn (execTspawn d b q s) := by
  unfold execTspawn
  dsimp only
  repeat' split
  all_goals exact goesOn_next _

theorem execTend_goesOn (s : State) : GoesOn (execTend s) := by
  unfold execTend
  split <;> exact goesOn_next _

theorem execPostr_goesOn (f : Fin 32) (t : Src) (n : Option (BitVec 16)) (set : Bool) (s : State) :
    GoesOn (execPostr f t n set s) := by
  unfold execPostr
  dsimp only
  split
  · exact goesOn_next _
  · exact post_goesOn _ _ _ _

theorem execBarr_goesOn (n : Fin 64) (s : State) : GoesOn (execBarr n s) := by
  unfold execBarr
  dsimp only
  split
  · split <;> exact goesOn_next _
  · split
    · exact goesOn_next _
    · split <;> exact goesOn_next _

theorem execYield_goesOn (s : State) : GoesOn (execYield s) := by
  unfold execYield
  split <;> exact goesOn_next _

theorem execRdcr_goesOn (d : XReg) (n : Imm) (s : State) : GoesOn (execRdcr d n s) := by
  unfold execRdcr
  apply privileged_goesOn
  split <;> exact goesOn_next _

theorem execWrcr_goesOn (n : Imm) (a : Src) (s : State) : GoesOn (execWrcr n a s) := by
  unfold execWrcr
  apply privileged_goesOn
  split <;> exact goesOn_next _

theorem execVmov_goesOn (v : VArgs) (s : State) : GoesOn (execVmov v s) := by
  unfold execVmov
  split <;> exact vgo_goesOn _ _ _

theorem execVcvt_goesOn (v : VArgs) (s : State) : GoesOn (execVcvt v s) := by
  unfold execVcvt
  split
  · exact goesOn_next _
  · exact vgo_goesOn _ _ _

theorem execVmx_goesOn (v : VArgs) (s : State) : GoesOn (execVmx v s) := by
  unfold execVmx
  split
  · exact vgo_goesOn _ _ _
  · exact goesOn_next _

theorem execVunmx_goesOn (v : VArgs) (s : State) : GoesOn (execVunmx v s) := by
  unfold execVunmx
  split
  · exact vgo_goesOn _ _ _
  · exact goesOn_next _

theorem vspecial_goesOn (s : State) (k : Nat) (v : VArgs) : GoesOn (s.vspecial k v) := by
  unfold State.vspecial
  split <;> exact goesOn_next _

theorem execVrsum_goesOn (v : VArgs) (s : State) : GoesOn (execVrsum v s) := by
  unfold execVrsum
  dsimp only
  split <;> exact vgo_goesOn _ _ _

theorem vextreme_goesOn (s : State) (wantMax : Bool) (v : VArgs) : GoesOn (s.vextreme wantMax v) := by
  unfold State.vextreme
  dsimp only
  split <;> exact vgo_goesOn _ _ _

theorem execVtopk_goesOn (v : VArgs) (s : State) : GoesOn (execVtopk v s) := by
  unfold execVtopk
  extract_lets k
  clear_value k
  split <;> exact vgo_goesOn _ _ _

theorem execCpost_goesOn (t : Src) (f : Fin 32) (n : BitVec 16) (set : Bool) (s : State) :
    GoesOn (execCpost t f n set s) := by
  unfold execCpost
  dsimp only
  repeat' split
  all_goals exact goesOn_next _

theorem execSframe_goesOn (d : XReg) (p : Option Pair) (b : Src) (s : State) : GoesOn (execSframe d p b s) := by
  unfold execSframe
  extract_lets ea s1 r
  split
  · exact streamAgain_goesOn _ d p r
  · split
    · exact goesOn_next _
    · split
      · exact goesOn_next _
      · exact goesOn_next _
      · exact goesOn_next _
      · exact streamDone_goesOn _ d p _

theorem execStrunc_goesOn (d : XReg) (b i : Src) (s : State) : GoesOn (execStrunc d b i s) := by
  unfold execStrunc
  extract_lets ea n s1 r
  split
  · exact streamAgain_goesOn _ d none r
  · split
    · exact goesOn_next _
    · exact streamDone_goesOn _ d none _

theorem execSgen_goesOn (p : Pair) (b v : Src) (s : State) : GoesOn (execSgen p b v s) := by
  unfold execSgen
  dsimp only
  repeat' split
  all_goals exact goesOn_next _

theorem execSadv_goesOn (d : XReg) (b n : Src) (s : State) : GoesOn (execSadv d b n s) := by
  unfold execSadv
  dsimp only
  split <;> exact goesOn_next _

theorem execScur_goesOn (d : XReg) (b : Src) (sel : Fin 7) (s : State) : GoesOn (execScur d b sel s) := by
  unfold execScur
  dsimp only
  split <;> exact goesOn_next _

theorem execSrng_goesOn (d : XReg) (s : State) : GoesOn (execSrng d s) := by
  unfold execSrng
  dsimp only
  split <;> exact goesOn_next _

theorem execSmpl_goesOn (d : XReg) (b : Src) (s : State) : GoesOn (execSmpl d b s) := by
  unfold execSmpl
  apply sDesc_goesOn
  intro n
  split <;> exact goesOn_next _

theorem execSacc_goesOn (d : XReg) (b : Src) (s : State) : GoesOn (execSacc d b s) := by
  unfold execSacc
  exact sDesc_goesOn _ _ _ (sAccept_goesOn _ d)

theorem execFma_goesOn (d : XReg) (a : Src) (b : Opnd) (s : State) : GoesOn (execFma d a b s) := by
  unfold execFma
  exact goesOn_of_answers (fbin_mem s _ _ _ _ _ _)

theorem execFsqrt_goesOn (d : XReg) (a : Src) (s : State) : GoesOn (execFsqrt d a s) := by
  unfold execFsqrt
  exact goesOn_of_answers (fop_mem s _ _ _ _ _)

theorem execFcvtif_goesOn (d : XReg) (a : Src) (t : Fin 4) (s : State) : GoesOn (execFcvtif d a t s) := by
  unfold execFcvtif
  exact goesOn_of_answers (fop_mem s _ _ _ _ _)

/-! ### Slots -/

theorem runSlot_goesOn (i : Instr) (s : State) : GoesOn (runSlot i s) := by
  unfold runSlot
  cases i with
  | add | sub | mul | mulh | mulhn | and | or | xor | andn | shl | shr | sar | rotl | min | max | minn | maxn | sext | zext
  | bfx | bfi => exact goesOn_of_answers (bin_mem s _ _ _ _ _)
  | clz | ctz | popc | lih => exact goesOn_of_answers (una_mem s _ _ _ _)
  | cmpeq | cmpne | cmplt | cmple | cmpltn | cmplen | cmptst => exact goesOn_of_answers (cmp_mem s _ _ _ _)
  | pand | por | pxor => exact goesOn_of_answers (plog_mem s _ _ _ _ _ _)
  | fadd | fsub | fmul | fdiv => exact goesOn_of_answers (fbin_mem s _ _ _ _ _ _)
  | fma d a b => exact execFma_goesOn d a b s
  | fsqrt d a => exact execFsqrt_goesOn d a s
  | fcvtif d a t => exact execFcvtif_goesOn d a t s
  | fmin | fmax => exact goesOn_of_answers (fmm_mem s _ _ _ _)
  | fcmpeq | fcmplt | fcmple => exact goesOn_of_answers (fcmp_mem s _ _ _ _ _ _)
  | qmk | qnum | qden | qflr | qceil | qfromf => exact goesOn_of_answers (clove_mem s _ _ _ _)
  | bprep | bprepL => exact goesOn_of_answers (bprep_mem s _ _ _)
  | bprepi | bprepiL => exact goesOn_of_answers (bprepI_mem s _ _ _)
  | sysc | brk => exact callTrap_goesOn s _ _
  | rfe => exact privileged_goesOn s (goesOn_next _)
  | halt => exact privileged_goesOn s (goesOn_next _)
  | rdcr d n => exact execRdcr_goesOn d n s
  | wrcr n a => exact execWrcr_goesOn n a s
  | ldN8 | ldN16 | ldN32 | ldN64 | ldsN8 | ldsN16 | ldsN32 | ldsN64 => exact load_goesOn s _ _ _ _ _
  | stN8 | stN16 | stN32 | stN64 | stsN8 | stsN16 | stsN32 | stsN64 => exact store_goesOn s _ _ _ _ _
  | amoadd | amoswp | amocas | amomin | amomax | amoand | amoor => exact amo_goesOn s _ _ _ _
  | fenceCore | fenceDie | fenceDev | fenceFab | ifence => exact goesOn_of_answers (fenceOp_mem s _)
  | qpush q v => exact execQpush_goesOn q v s
  | qpop | qtry => exact pop_goesOn s _ _ _
  | tspawn d b q => exact execTspawn_goesOn d b q s
  | tend => exact execTend_goesOn s
  | sframe d p b => exact execSframe_goesOn d p b s
  | strunc d b n => exact execStrunc_goesOn d b n s
  | sgen p b v => exact execSgen_goesOn p b v s
  | sadv d b n => exact execSadv_goesOn d b n s
  | scur d b sel => exact execScur_goesOn d b sel s
  | smpl d b => exact execSmpl_goesOn d b s
  | sacc d b => exact execSacc_goesOn d b s
  | srng d => exact execSrng_goesOn d s
  | wait f n => exact goesOn_of_answers (execWait_mem f n s)
  | waity f n => exact goesOn_of_answers (execWaity_mem f n s)
  | post => exact post_goesOn s _ _ _
  | postr f t n set => exact execPostr_goesOn f t n set s
  | barr n => exact execBarr_goesOn n s
  | yield => exact execYield_goesOn s
  | agree | agreep | agreeT => exact agree_goesOn s _ _ _
  | vadd | vsub | vmul | vfma | vfms | vmin | vmax | vabs | vneg | vand | vor | vxor | vnot | vshl | vshr | vsar | vceq | vclt
  | vcle | vsel | vargmax | vperm | vrot | vbcast | vext | vins | vany | vall => exact vgo_goesOn s _ _
  | vmov v => exact execVmov_goesOn v s
  | vcvt v => exact execVcvt_goesOn v s
  | vmx v => exact execVmx_goesOn v s
  | vunmx v => exact execVunmx_goesOn v s
  | vrcp | vrsq | vsqrt | vexp2 | vlog2 | vtanh | vsigm => exact vspecial_goesOn s _ _
  | vrsum v => exact execVrsum_goesOn v s
  | vrmax | vrmin => exact vextreme_goesOn s _ _
  | vtopk v => exact execVtopk_goesOn v s
  | mgoBf16 | mgoF16 | mgoW8 | mgoS8 | mgoW4 | mgoS4 | mgol => exact mGo_goesOn s _ _
  | mjoinBf16 | mjoinF16 | mjoinW8 | mjoinS8 | mjoinW4 | mjoinS4 => exact mJoin_goesOn s _ _
  | cgo | cgath | cscat | cbcast | cdx | cpfd | carm | cmred | ckvc | cnet => exact cStart_goesOn s _ _ _ _ _ _
  | cfill _ a | bgo _ a => exact cStart_goesOn (s.loadC a) _ _ _ _ _ _
  | cpost t f n set => exact execCpost_goesOn t f n set s
  | _ => exact goesOn_next _

/-! ### Bundles -/

theorem runOps_goesOn (cyc : Nat) (two : List Slot) (is : List IOp) (s : State) : GoesOn (runOps cyc two is s) := by
  induction is generalizing s with
  | nil => exact goesOn_next s
  | cons i is ih =>
    unfold runOps
    extract_lets p s1 c c2 s2
    have hr : GoesOn (if i.on then runSlot i.op s2 else .next s2) := by
      split
      · exact runSlot_goesOn i.op s2
      · exact goesOn_next s2
    obtain ⟨t, ht⟩ := hr
    rw [ht]
    dsimp only
    split
    · exact ih _
    · exact goesOn_next t

theorem issueLate_goesOn (s : State) (b : Bundle) (l : Late) : GoesOn (s.issueLate b l) := by
  unfold State.issueLate
  extract_lets i now waited c s1 tq iss s2
  split
  · exact goesOn_next _
  · obtain ⟨t, ht⟩ := runSlot_goesOn l.op { s2 with core := { s2.core with iss := { s2.core.iss with piece := 1, late := none } } }
    dsimp only at ht ⊢
    rw [ht]
    dsimp only
    split <;> exact goesOn_next _

theorem issue_goesOn (s : State) (b : Bundle) (ops : List IOp) (take : Bool) : GoesOn (s.issue b ops take) := by
  unfold State.issue
  extract_lets two cyc n on enters regs p
  split
  · exact goesOn_next _
  · next s0 _ =>
    split
    · obtain ⟨t, ht⟩ := runOps_goesOn cyc [] (ops.filter fun i => !two.contains i.slot) s0
      rw [ht]
      exact goesOn_next _
    · obtain ⟨t, ht⟩ := runOps_goesOn cyc two p.1 s0
      rw [ht]
      dsimp only
      split
      · exact goesOn_next t
      · split
        · exact issueLate_goesOn _ b _
        · exact goesOn_next _

theorem execBundleIssue_goesOn (s : State) : GoesOn (execBundleIssue s) := by
  unfold execBundleIssue
  split
  · split
    · exact goesOn_next s
    · exact issueLate_goesOn s _ _
  · split
    · exact goesOn_next _
    · exact goesOn_next _
    · split
      · exact goesOn_next _
      · exact issue_goesOn _ _ _ _

theorem issueEach_goesOn (ks : List Nat) (s : State) : GoesOn (issueEach ks s) := by
  induction ks generalizing s with
  | nil => exact goesOn_next s
  | cons k ks ih =>
    obtain ⟨t, ht⟩ := execBundleIssue_goesOn (s.focus k)
    unfold issueEach
    rw [ht]
    exact ih t

theorem execMjoinRendezvous_goesOn (s : State) : GoesOn (execMjoinRendezvous s) := by
  unfold execMjoinRendezvous
  extract_lets u
  split
  · exact goesOn_next u
  · exact goesOn_next _
  · next ks _ =>
    split
    · extract_lets s1
      obtain ⟨t, ht⟩ := issueEach_goesOn ks s1
      rw [ht]
      exact goesOn_next _
    · exact goesOn_next u

/-! ### Events -/

theorem execLoadCompletion_goesOn (i : Nat) (s : State) : GoesOn (execLoadCompletion i s) := by
  unfold execLoadCompletion
  dsimp only
  repeat' split
  all_goals exact goesOn_next _

theorem execHostCompletionTimeout_goesOn (i : Nat) (s : State) : GoesOn (execHostCompletionTimeout i s) := by
  unfold execHostCompletionTimeout
  dsimp only
  repeat' split
  all_goals exact goesOn_next _

theorem execFlagPostDelivery_goesOn (i : Nat) (s : State) : GoesOn (execFlagPostDelivery i s) := by
  unfold execFlagPostDelivery
  split <;> exact goesOn_next _

theorem execWeakStoreReachesHome_goesOn (i : Nat) (s : State) : GoesOn (execWeakStoreReachesHome i s) := by
  unfold execWeakStoreReachesHome
  split
  · exact goesOn_next _
  · exact goesOn_next _
  · split <;> exact goesOn_next _

theorem execQueueMessageAppend_goesOn (q ctx : Nat) (msg : Word) (s : State) :
    GoesOn (execQueueMessageAppend q ctx msg s) := by
  unfold execQueueMessageAppend
  dsimp only
  split <;> exact goesOn_next _

theorem execFenceCompletion_goesOn (s : State) : GoesOn (execFenceCompletion s) := by
  unfold execFenceCompletion
  dsimp only
  repeat' split
  all_goals exact goesOn_next _

theorem execAgreementContributionArrival_goesOn (g m : Nat) (c : Contrib) (s : State) :
    GoesOn (execAgreementContributionArrival g m c s) := by
  unfold execAgreementContributionArrival
  repeat' split
  all_goals exact goesOn_next _

theorem execLateLimitExpiry_goesOn (g n : Nat) (s : State) : GoesOn (execLateLimitExpiry g n s) := by
  unfold execLateLimitExpiry
  split <;> exact goesOn_next _

theorem execGroupInvalidate_goesOn (g : Nat) (s : State) : GoesOn (execGroupInvalidate g s) := by
  unfold execGroupInvalidate
  dsimp only
  split <;> exact goesOn_next _

theorem execAgreementOutcomeDelivery_goesOn (g m : Nat) (o : AgOut) (s : State) :
    GoesOn (execAgreementOutcomeDelivery g m o s) := by
  unfold execAgreementOutcomeDelivery
  dsimp only
  repeat' split
  all_goals exact goesOn_next _

theorem execReportCopyWrite_goesOn (g n ctx : Nat) (data : List Byte) (s : State) :
    GoesOn (execReportCopyWrite g n ctx data s) := by
  unfold execReportCopyWrite
  dsimp only
  repeat' split
  all_goals exact goesOn_next _

theorem execMjoinWaitLimitExpiry_goesOn (s : State) : GoesOn (execMjoinWaitLimitExpiry s) := by
  unfold execMjoinWaitLimitExpiry
  split <;> exact goesOn_next _

theorem execCopyCompletion_goesOn (id : Nat) (reply : Remote) (s : State) : GoesOn (execCopyCompletion id reply s) := by
  unfold execCopyCompletion
  repeat' split
  all_goals exact goesOn_next _

theorem execCnetCompletion_goesOn (id : Nat) (how : CnetEnd) (s : State) : GoesOn (execCnetCompletion id how s) := by
  unfold execCnetCompletion
  split
  · exact goesOn_next _
  · split <;> exact goesOn_next _

theorem execLandingPostDelivery_goesOn (id : Nat) (s : State) : GoesOn (execLandingPostDelivery id s) := by
  unfold execLandingPostDelivery
  dsimp only
  repeat' split
  all_goals exact goesOn_next _

theorem execCpostDelivery_goesOn (id : Nat) (s : State) : GoesOn (execCpostDelivery id s) := by
  unfold execCpostDelivery
  dsimp only
  repeat' split
  all_goals exact goesOn_next _

theorem execArmedCopyFire_goesOn (id : Nat) (s : State) : GoesOn (execArmedCopyFire id s) := by
  unfold execArmedCopyFire
  repeat' split
  all_goals exact goesOn_next _

theorem execFrameArrival_goesOn (seg : Nat) (data : List Byte) (s : State) : GoesOn (execFrameArrival seg data s) := by
  unfold execFrameArrival
  dsimp only
  repeat' split
  all_goals exact goesOn_next _

theorem execSaffronRequestTake_goesOn (s : State) : GoesOn (execSaffronRequestTake s) := by
  unfold execSaffronRequestTake
  dsimp only
  repeat' split
  all_goals exact goesOn_next _

theorem bEvent_goesOn (s : State) (op : Nat) : GoesOn (s.bEvent op) := by
  unfold State.bEvent
  split <;> exact goesOn_next _

theorem execGraphLaunch_goesOn (w : Word) (s : State) : GoesOn (execGraphLaunch w s) := by
  unfold execGraphLaunch
  dsimp only
  repeat' split
  all_goals exact goesOn_next _

theorem onNode_goesOn (s : State) (h i kind : Nat) (f : Launch → GNode → State) : GoesOn (s.onNode h i kind f) := by
  unfold State.onNode
  dsimp only
  repeat' split
  all_goals exact goesOn_next _

theorem execTaskDispatch_goesOn (s : State) : GoesOn (execTaskDispatch s) := by
  unfold execTaskDispatch
  repeat' split
  all_goals exact goesOn_next _

theorem execSaveCompletion_goesOn (s : State) : GoesOn (execSaveCompletion s) := by
  unfold execSaveCompletion
  dsimp only
  repeat' split
  all_goals exact goesOn_next _

theorem execForcedRollback_goesOn (s : State) : GoesOn (execForcedRollback s) := by
  unfold execForcedRollback
  split <;> exact goesOn_next _

theorem execTaskRetirement_goesOn (s : State) : GoesOn (execTaskRetirement s) := by
  unfold execTaskRetirement
  dsimp only
  repeat' split
  all_goals exact goesOn_next _

theorem execTrapEntry_goesOn (s : State) : GoesOn (execTrapEntry s) := by
  unfold execTrapEntry
  split <;> exact goesOn_next _

theorem execRxSegmentArrival_goesOn (off : BitVec 36) (rx : RxData) (s : State) :
    GoesOn (execRxSegmentArrival off rx s) := by
  unfold execRxSegmentArrival
  dsimp only
  repeat' split
  all_goals exact goesOn_next _

theorem execRxRemoteRead_goesOn (off : BitVec 36) (len : Nat) (s : State) : GoesOn (execRxRemoteRead off len s) := by
  unfold execRxRemoteRead
  repeat' split
  all_goals exact goesOn_next _

theorem execCkpt_goesOn (s : State) : GoesOn (execCkpt s) := by
  unfold execCkpt
  dsimp only
  repeat' split
  all_goals exact goesOn_next _

theorem execDeviceLoss_goesOn (dev : Nat) (s : State) : GoesOn (execDeviceLoss dev s) := by
  unfold execDeviceLoss
  split <;> exact goesOn_next _

theorem execClockStep_goesOn (up : Bool) (s : State) : GoesOn (execClockStep up s) := by
  unfold execClockStep
  repeat' split
  all_goals exact goesOn_next _

theorem bar0Write_goesOn (off : Nat) (w : Word) (s : State) : GoesOn (bar0Write off w s) := by
  unfold bar0Write
  split
  · exact goesOn_next _
  · split
    · obtain ⟨t, ht⟩ := execGraphLaunch_goesOn w (s.focus (off / 8 * 128 + 127))
      rw [ht]
      exact goesOn_next _
    · repeat' split
      all_goals exact goesOn_next _

theorem execRegisterWrite_goesOn (off : Nat) (w : Word) (s : State) : GoesOn (execRegisterWrite off w s) := by
  unfold execRegisterWrite
  split
  · exact goesOn_next _
  · split
    · exact bar0Write_goesOn _ w s
    · exact goesOn_next _

theorem execRegisterPageWindowWrite_goesOn (pa : BitVec 52) (data : List Byte) (s : State) :
    GoesOn (execRegisterPageWindowWrite pa data s) := by
  unfold execRegisterPageWindowWrite
  split
  case h_6 => exact goesOn_next _
  all_goals split <;> exact goesOn_next _

theorem execHostMemoryAccess_goesOn (off len : Nat) (wr : Option (List Byte)) (s : State) :
    GoesOn (execHostMemoryAccess off len wr s) := by
  unfold execHostMemoryAccess
  extract_lets n
  split <;> exact goesOn_next _

theorem bar0Access_goesOn (off len : Nat) (wr : Option (List Byte)) (s : State) : GoesOn (bar0Access off len wr s) := by
  unfold bar0Access
  split
  · split
    · exact bar0Write_goesOn off _ s
    · exact goesOn_next _
  · exact goesOn_next _

theorem execHostWindowAccess_goesOn (pa : BitVec 52) (len : Nat) (wr : Option (List Byte)) (s : State) :
    GoesOn (execHostWindowAccess pa len wr s) := by
  unfold execHostWindowAccess
  extract_lets n
  split
  · exact goesOn_next _
  · split
    · exact goesOn_next _
    · split
      · exact bar0Access_goesOn _ n wr s
      · exact goesOn_next _

theorem execYieldThresholdExpiry_goesOn (s : State) : GoesOn (execYieldThresholdExpiry s) := by
  unfold execYieldThresholdExpiry
  split <;> exact goesOn_next _

/-! ### Every instruction and every event -/

theorem exec_goesOn (i : Instr) (s : State) : GoesOn (exec i s) := by
  have hs := runSlot_goesOn i s
  unfold exec
  cases i with
  | bellowsSend | bellowsRecv | bellowsRrs | bellowsCopy | bellowsWait | bellowsPost | bellowsLoop | bellowsEndl
  | bellowsHalt => exact bEvent_goesOn s _
  | exposedResultLanding | flueMove | tlbInvalidate | engineRestart | chimneyLinkDown | hearthLanding | hubLinkRetrain
  | machineCheck | damperCharge | damperRefill | dieFence | hubLinkFailure | thermalFence | coolantLoss | moduleReset
  | spdmRequest | softErrorRollback => exact goesOn_next _
  | targetFillCompletion t => exact goesOn_of_answers (execTargetFillCompletion_mem t s)
  | preemptionRequest q => exact goesOn_of_answers (execPreemptionRequest_mem q s)
  | heartbeatArrival dev => exact goesOn_of_answers (execHeartbeatArrival_mem dev s)
  | bellowsMessageArrival id m => exact goesOn_of_answers (execBellowsMessageArrival_mem id m s)
  | queueEnable q => exact goesOn_of_answers (execQueueEnable_mem q s)
  | bringUpStage err data => exact goesOn_of_answers (execBringUpStage_mem err data s)
  | chimneyLinkUp k => exact goesOn_of_answers (execChimneyLinkUp_mem k s)
  | heartbeatSend => exact goesOn_of_answers (execHeartbeatSend_mem s)
  | notifyRead => exact goesOn_of_answers (execNotifyRead_mem s)
  | tlbInvalidateCompletion => exact goesOn_of_answers (execTlbInvalidateCompletion_mem s)
  | dieOpen => exact goesOn_of_answers (execDieOpen_mem s)
  | attest => exact goesOn_of_answers (execAttest_mem s)
  | mailboxInvalidCommand => exact goesOn_of_answers (execMailboxInvalidCommand_mem s)
  | softErrorCorrected => exact goesOn_of_answers (execSoftErrorCorrected_mem s)
  | coreRestart => exact goesOn_of_answers (execCoreRestart_mem s)
  | loadCompletion i => exact execLoadCompletion_goesOn i s
  | copyCompletion id reply => exact execCopyCompletion_goesOn id reply s
  | cnetCompletion id how => exact execCnetCompletion_goesOn id how s
  | landingPostDelivery id => exact execLandingPostDelivery_goesOn id s
  | cpostDelivery id => exact execCpostDelivery_goesOn id s
  | armedCopyFire id => exact execArmedCopyFire_goesOn id s
  | flagPostDelivery i => exact execFlagPostDelivery_goesOn i s
  | queueMessageAppend q ctx msg => exact execQueueMessageAppend_goesOn q ctx msg s
  | agreementContributionArrival g m c => exact execAgreementContributionArrival_goesOn g m c s
  | lateLimitExpiry g n => exact execLateLimitExpiry_goesOn g n s
  | agreementOutcomeDelivery g m o => exact execAgreementOutcomeDelivery_goesOn g m o s
  | reportCopyWrite g n ctx data => exact execReportCopyWrite_goesOn g n ctx data s
  | groupInvalidate g => exact execGroupInvalidate_goesOn g s
  | deviceLoss dev => exact execDeviceLoss_goesOn dev s
  | frameArrival seg data => exact execFrameArrival_goesOn seg data s
  | rxSegmentArrival off rx => exact execRxSegmentArrival_goesOn off rx s
  | rxRemoteRead off len => exact execRxRemoteRead_goesOn off len s
  | graphLaunch w => exact execGraphLaunch_goesOn w s
  | tasksetFirstArrival h i => exact onNode_goesOn s h i _ _
  | tasksetActivation h i => exact onNode_goesOn s h i _ _
  | condActivation h i => exact onNode_goesOn s h i _ _
  | whileActivation h i => exact onNode_goesOn s h i _ _
  | joinActivation h i => exact onNode_goesOn s h i _ _
  | endActivation h i => exact onNode_goesOn s h i _ _
  | registerPageWindowWrite pa data => exact execRegisterPageWindowWrite_goesOn pa data s
  | registerWrite off w => exact execRegisterWrite_goesOn off w s
  | hostMemoryAccess off len wr => exact execHostMemoryAccess_goesOn off len wr s
  | hostCompletionTimeout i => exact execHostCompletionTimeout_goesOn i s
  | hostWindowAccess pa len wr => exact execHostWindowAccess_goesOn pa len wr s
  | clockStep up => exact execClockStep_goesOn up s
  | weakStoreReachesHome i => exact execWeakStoreReachesHome_goesOn i s
  | bundleIssue => exact execBundleIssue_goesOn s
  | trapEntry => exact execTrapEntry_goesOn s
  | mjoinRendezvous => exact execMjoinRendezvous_goesOn s
  | mjoinWaitLimitExpiry => exact execMjoinWaitLimitExpiry_goesOn s
  | fenceCompletion => exact execFenceCompletion_goesOn s
  | taskRetirement => exact execTaskRetirement_goesOn s
  | taskDispatch => exact execTaskDispatch_goesOn s
  | forcedRollback => exact execForcedRollback_goesOn s
  | saveCompletion => exact execSaveCompletion_goesOn s
  | yieldThresholdExpiry => exact execYieldThresholdExpiry_goesOn s
  | saffronRequestTake => exact execSaffronRequestTake_goesOn s
  | ckpt => exact execCkpt_goesOn s
  | _ => exact hs

/-! ### Agents that exist (spec/01 R11) -/

theorem agentExists_dieKey {d : Nat} (h : d < 8) : agentExists (dieKey d) = true := by
  have hk : dieKey d / 128 = d ∧ dieKey d % 128 = 127 := by
    unfold dieKey
    omega
  simp [agentExists, hk, h]

/-- The Saffron of a queue of messages 112 to 120. -/
theorem agentExists_saffron {d q : Nat} (hd : d < 8) (hl : 112 ≤ q) (hq : q < 121) : agentExists (d * 128 + (q - 40)) = true := by
  have h1 : (d * 128 + (q - 40)) / 128 = d := by omega
  have h2 : (q - 40) % 128 ≤ 80 := by omega
  simp [agentExists, agentOk, h1, h2, hd]

theorem fencingDie_lt (s : State) : s.fencingDie < 8 := by
  unfold State.fencingDie
  cases h : (List.range 8).find? fun d => s.fencing.getLsbD d with
  | none => decide
  | some d => exact List.mem_range.1 (List.mem_of_find?_eq_some h)

theorem who_of_mem_on {k : Nat} {l : List Instr} {e : Ev} (he : e ∈ Ev.on k l) : e.who = k := by
  obtain ⟨i, -, rfl⟩ := List.mem_map.1 he
  rfl

section
variable {s : State} (h : s.AgentsExist)
include h

theorem agentExists_keys {k : Nat} (hk : k ∈ s.keys) : agentExists k = true := by
  obtain ⟨hh, hp, -⟩ := h
  unfold State.keys at hk
  rcases List.mem_cons.1 hk with rfl | hk
  · exact hh
  · obtain ⟨p, hp', rfl⟩ := List.mem_map.1 (List.mem_filter.1 hk).1
    exact hp p hp'

/-- What must happen first happens at an agent that exists. -/
theorem agentExists_forced {e : Ev} (he : s.forced = some e) : agentExists e.who = true := by
  unfold State.forced at he
  split at he
  · cases he
    exact agentExists_dieKey (fencingDie_lt s)
  · split at he
    · cases he
      exact h.1
    · split at he
      · next k hk =>
        cases he
        exact agentExists_keys h (List.mem_of_find?_eq_some hk)
      · split at he
        · next k hk =>
          cases he
          exact agentExists_keys h (List.mem_of_find?_eq_some hk)
        · obtain ⟨k, hk, ha⟩ := List.exists_of_findSome?_eq_some he
          obtain ⟨x, -, rfl⟩ := Option.map_eq_some_iff.1 ha
          exact agentExists_keys h hk

/-- What may happen by itself happens at an agent that exists. -/
theorem agentExists_events {e : Ev} (he : e ∈ s.events) : agentExists e.who = true := by
  unfold State.events at he
  rcases List.mem_append.1 he with he | he
  · rcases List.mem_append.1 he with he | he
    · rcases List.mem_append.1 he with he | he
      · obtain ⟨k, hk, he⟩ := List.mem_flatMap.1 he
        rw [who_of_mem_on he]
        exact agentExists_keys h hk
      · obtain ⟨m, hm, rfl⟩ := List.mem_map.1 he
        have hm := (List.mem_filter.1 hm).2
        simp only [Bool.and_eq_true, decide_eq_true_eq] at hm
        obtain ⟨⟨⟨⟨⟨hd, hl⟩, hq⟩, -⟩, -⟩, -⟩ := hm
        exact agentExists_saffron hd hl hq
    · obtain ⟨d, hd, he⟩ := List.mem_flatMap.1 he
      rw [who_of_mem_on he]
      exact agentExists_dieKey (List.mem_range.1 hd)
  · rw [who_of_mem_on he]
    exact h.1

end

/-- A free choice takes the default or one of the list. -/
theorem choose_mem {α : Type} (n : Nat) (x : α) (l : List α) : choose n x l ∈ x :: l := by
  cases l with
  | nil => exact List.mem_singleton.2 rfl
  | cons y l =>
    have hn : n % ((y :: l).length + 1) < (x :: y :: l).length := Nat.mod_lt _ (Nat.succ_pos _)
    change ((x :: y :: l)[n % ((y :: l).length + 1)]?).getD x ∈ _
    rw [List.getElem?_eq_getElem hn]
    exact List.getElem_mem hn

theorem mem_events_of_chosen {s : State} {e : Ev} (he : s.chosen = some e) : e ∈ s.events := by
  have hm := choose_mem (s.freeNat (2 ^ 63 - 1)) none (s.events.map some)
  change s.chosen ∈ _ at hm
  simpa [he] using hm

/-! ### Steps -/

theorem run_goesOn (s : State) {e : Ev} (h : agentExists e.who = true) : GoesOn (s.run e) := by
  unfold State.run
  rw [if_pos h]
  exact exec_goesOn e.ev _

theorem step_goesOn {s : State} (h : s.AgentsExist) : GoesOn (step s) := by
  have hb : s.bump.AgentsExist := h
  unfold step
  dsimp only
  split
  · next e he => exact run_goesOn _ (agentExists_forced hb he)
  · next e r _ ha => exact run_goesOn _ (hb.2.2 e (ha ▸ List.mem_cons_self))
  · split
    · next e he => exact run_goesOn _ (agentExists_events hb (mem_events_of_chosen he))
    · exact goesOn_next _

/-- Settles O60: every meaning answers a next state (`exec_goesOn`), and a step runs one only at an agent that exists. -/
theorem nothingStops : Obligations.NothingStops := by
  unfold Obligations.NothingStops
  exact ⟨exec_goesOn, fun s h => step_goesOn h⟩

end Sys2Proof.Progress

/-!
What the S slot leaves in flight (O1, O2). Every operation with a result begins by loading its port and, where it rounds under
STO, by stepping the generator (`begun`); exposing its writes from there is what the statements call `Issues` (`issues_expose`).
An instruction then needs only its value, compared with the one that the statements' tables give.
-/
namespace Sys2Proof.ScalarIssue
open Machine Laws Claims

/-! ### Operations of the S slot issue -/

/-- The state from which an S operation exposes its writes: its A operand in the port, the generators at `g`. -/
def begun (s : State) (a : Option Src) (g : Vector Word 16) : State :=
  { s with core := { s.core with live := { s.core.live with portS := portAfter s a, sg := g } } }

theorem loadS_eq_begun (s : State) (a : Src) : s.loadS a = begun s (some a) s.core.live.sg := loadS_eq s a

/-- Some of these writes go to the register of an outstanding result. -/
def meetsOutst (ws : List LWrite) (o : Outst) : Bool :=
  match o.xd with
  | some r => ws.any (LWrite.isX r)
  | none => false

theorem marked_eq (ws : List LWrite) (o : Outst) :
    marked ws o = if meetsOutst ws o then { o with clash := true } else o := by
  unfold marked
  refine ite_congr (congrArg (· = true) ?_) (fun _ => rfl) fun _ => rfl
  unfold meetsOutst
  cases o.xd with
  | none => exact List.any_eq_false.2 fun w _ => by cases w <;> simp
  | some r => exact congrArg _ (funext fun w => by cases w <;> rfl)

/-- An outstanding result is marked by an exposed write of its register, and on Saffron by none. -/
theorem expose_outst (s : State) (lat : Nat) (ws : List LWrite) : (s.expose lat ws).core.outst =
    if s.onSaffron then s.core.outst else s.core.outst.map (marked ws) := by
  unfold State.expose
  by_cases hs : s.onSaffron = true
  · simp only [hs, if_true]
    refine Eq.trans (List.map_congr_left fun o _ => ?_) (List.map_id _)
    cases o.xd <;> rfl
  · simp only [hs, Bool.false_eq_true, if_false]
    refine List.map_congr_left fun o _ => ?_
    rw [marked_eq, meetsOutst]
    cases o.xd <;> rfl

theorem issues_expose (s : State) (a : Option Src) (g : Vector Word 16) (lat : Nat) (ws : List LWrite) :
    Issues s ((begun s a g).expose lat ws) a g lat ws where
  only := rfl
  bytes _ := rfl
  port := by cases a <;> rfl
  gens := rfl
  flight := rfl
  meets := expose_outst (begun s a g) lat ws

theorem issues_toX (s : State) (a : Option Src) (g : Vector Word 16) (lat : Nat) (d : XReg) (v : Word) (f : Fl) :
    Issues s ((begun s a g).toX lat d v f) a g lat (Val.writes s { d := d, a := a, lat := lat, v := v, f := f }) :=
  issues_expose s a g lat _

theorem issues_toPair (s : State) (a : Option Src) (g : Vector Word 16) (lat : Nat) (p : Pair) (b : Bool) (f : Fl) :
    Issues s ((begun s a g).toPair lat p b f) a g lat
      (pairWrites s p b ++ condWrite b :: if f = 0 then [] else [.flags f]) :=
  issues_expose s a g lat _

/-! ### The shared shapes of the integer instructions -/

/-- The answer issues the result `r`, with the generators as they stood. -/
def Completes (s : State) (r : Val) (x : Res) : Prop :=
  ∃ t, x = .next t ∧ Issues s t r.a s.core.live.sg r.lat (r.writes s)

theorem completes_toX (s : State) (lat : Nat) (d : XReg) (v : Word) :
    Completes s { d := d, a := none, lat := lat, v := v } (.next (s.toX lat d v)) :=
  ⟨_, rfl, issues_toX s none s.core.live.sg lat d v 0⟩

theorem completes_una (s : State) (lat : Nat) (f : Word → Word) (d : XReg) (a : Src) {v : Word} (h : f (s.src .s a) = v) :
    Completes s { d := d, a := some a, lat := lat, v := v } (s.una lat f d a) := by
  refine ⟨_, rfl, ?_⟩
  rw [loadS_eq_begun, h]
  exact issues_toX s (some a) _ lat d v 0

theorem completes_bin (s : State) (lat : Nat) (f : Word → Word → Word) (d : XReg) (a : Src) (b : Opnd) {v : Word}
    (h : f (s.src .s a) (s.opnd .s b) = v) :
    Completes s { d := d, a := some a, lat := lat, v := v } (s.bin lat f d a b) := by
  refine ⟨_, rfl, ?_⟩
  rw [loadS_eq_begun, h]
  exact issues_toX s (some a) _ lat d v 0

/-! ### Values -/

theorem mul_eq_w64 (x y : Word) : x * y = w64 (x.toNat * y.toNat) := by
  apply BitVec.eq_of_toNat_eq
  simp [w64]

theorem toSigned_toNat {w : Nat} (hw : 0 < w) (x : BitVec w) : toSigned w x.toNat = x.toInt := by
  have h2 : 2 ^ w = 2 * 2 ^ (w - 1) := by rw [← Nat.pow_succ']; congr 1; omega
  unfold toSigned
  rw [BitVec.toInt_eq_toNat_cond]
  push_cast
  split <;> split <;> omega

theorem len64_pos (n : Nat) : 0 < len64 n := by
  unfold len64
  split <;> omega

theorem sextV_eq (x y : Word) : sextV x y = i64 (x.setWidth (fieldLen y.toNat)).toInt := by
  change _ = i64 (x.setWidth (len64 y.toNat)).toInt
  rw [← toSigned_toNat (len64_pos _), BitVec.toNat_setWidth]
  rfl

theorem zextV_eq (x y : Word) : zextV x y = (x.setWidth (fieldLen y.toNat)).setWidth 64 := by
  apply BitVec.eq_of_toNat_eq
  rw [BitVec.toNat_setWidth, BitVec.toNat_setWidth]
  exact BitVec.toNat_ofNat _ _

/-- The places before the first one where `p` fails. -/
theorem length_takeWhile_range {p : Nat → Bool} {n k : Nat} (hk : k < n) (hlt : ∀ i < k, p i = true) (hend : p k = false) :
    ((List.range n).takeWhile p).length = k := by
  have hf : (List.range n).findIdx (fun i => !p i) = k := by
    rw [List.findIdx_eq (by simpa using hk)]
    simpa [hend] using hlt
  rw [List.takeWhile_eq_take_findIdx_not, List.length_take, hf, List.length_range]
  omega

theorem takeWhile_range_all {p : Nat → Bool} {n : Nat} (h : ∀ i < n, p i = true) :
    ((List.range n).takeWhile p).length = n := by
  rw [List.takeWhile_eq_take_findIdx_not, List.findIdx_eq_length_of_false (by simpa using h), List.take_length,
    List.length_range]

theorem clzV_eq (x : Word) : clzV x = w64 (leading x) := by
  unfold clzV leading w64
  congr 1
  by_cases h : x = 0
  · rw [if_pos h, h, takeWhile_range_all (by simp)]
  · rw [if_neg h]
    have hx : x.toNat ≠ 0 := fun h0 => h (BitVec.eq_of_toNat_eq h0)
    have hl : x.toNat.log2 < 64 := (Nat.log2_lt hx).2 x.isLt
    refine (length_takeWhile_range (by omega) (fun i hi => ?_) ?_).symm
    · have hb : x.toNat < 2 ^ (63 - i) := (Nat.log2_lt hx).1 (by omega)
      simpa [BitVec.getLsbD] using Nat.testBit_lt_two_pow hb
    · have he : 63 - (63 - x.toNat.log2) = x.toNat.log2 := by omega
      simpa [BitVec.getLsbD, he] using Nat.testBit_log2 hx

/-- Trailing zeros, one place at a time. -/
theorem ctzN_eq (f k a : Nat) : ctzN f k a = k + ((List.range f).takeWhile fun i => !a.testBit i).length := by
  induction f generalizing k a with
  | zero => rfl
  | succ f ih =>
    rw [ctzN, List.range_succ_eq_map, List.takeWhile_cons, Nat.testBit_zero]
    by_cases h : a % 2 = 1
    · simp [h]
    · have hs : (fun i => !a.testBit i) ∘ Nat.succ = fun i => !(a / 2).testBit i := by
        funext i
        simp [Nat.testBit_succ]
      simp only [h, ih, List.takeWhile_map, hs, decide_false, Bool.not_false, if_true, if_false, List.length_cons, List.length_map]
      omega

theorem ctzV_eq (x : Word) : ctzV x = w64 (trailing x) := by
  unfold ctzV
  rw [ctzN_eq, Nat.zero_add]
  rfl

theorem popV_eq (x : Word) : popV x = w64 (ones x) := by
  unfold popV ones
  rw [List.countP_eq_length_filter]
  rfl

theorem lih_low (x : Word) : (x.setWidth 32).setWidth 64 = w64 (x.toNat % 2 ^ 32) := by
  apply BitVec.eq_of_toNat_eq
  rw [BitVec.toNat_setWidth, BitVec.toNat_setWidth]
  exact (BitVec.toNat_ofNat _ _).symm

/-! ### Integer results (O1) -/

theorem exec_intVal {s : State} {i : Instr} {r : Val} (h : intVal s i = some r) : Completes s r (exec i s) := by
  unfold exec
  cases i with
  | add d a b | sub d a b | and d a b | or d a b | xor d a b | andn d a b | shl d a b | shr d a b | sar d a b | rotl d a b
  | mulh d a b | mulhn d a b | bfx d a b | bfi d a b =>
    cases h
    exact completes_bin s _ _ d a b rfl
  | mul d a b =>
    cases h
    exact completes_bin s _ _ d a b (mul_eq_w64 _ _)
  | min d a b | max d a b | minn d a b | maxn d a b =>
    cases h
    refine completes_bin s _ _ d a b ?_
    simp only [BitVec.slt_eq_decide, BitVec.ult_eq_decide, decide_eq_true_eq]
  | sext d a b =>
    cases h
    exact completes_bin s _ _ d a b (sextV_eq _ _)
  | zext d a b =>
    cases h
    exact completes_bin s _ _ d a b (zextV_eq _ _)
  | clz d a =>
    cases h
    exact completes_una s _ _ d a (clzV_eq _)
  | ctz d a =>
    cases h
    exact completes_una s _ _ d a (ctzV_eq _)
  | popc d a =>
    cases h
    exact completes_una s _ _ d a (popV_eq _)
  | li d b =>
    cases h
    exact completes_toX s 1 d b.val
  | lih d a b =>
    cases h
    exact completes_una s 1 _ d a (congrArg (b.val <<< 32 ||| ·) (lih_low _))
  | _ => cases h

theorem exec_readVal {s : State} {i : Instr} {r : Val} (h : readVal s i = some r) : Completes s r (exec i s) := by
  unfold exec
  cases i with
  | lcget d n | rdid d n | rdfst d | fmget d n =>
    cases h
    exact completes_toX s 1 d _
  | _ => cases h

/-- Settles O1: a result of one of the tables (`exec_intVal`, `exec_readVal`). -/
theorem integerResults : Obligations.IntegerResults := by
  unfold Obligations.IntegerResults
  intro s i r h
  exact h.elim exec_intVal exec_readVal

/-! ### Compares and predicate logic (O2) -/

theorem issues_cmp (s : State) (f : Word → Word → Bool) (p : Pair) (a : Src) (b : Opnd) {c : Bool}
    (h : f (s.src .s a) (s.opnd .s b) = c) :
    ∃ t, s.cmp f p a b = .next t ∧ Issues s t (some a) s.core.live.sg 1 (pairWrites s p c ++ [condWrite c]) := by
  refine ⟨_, rfl, ?_⟩
  rw [loadS_eq_begun, h]
  exact issues_toPair s (some a) _ 1 p c 0

theorem issues_plog (s : State) (f : Bool → Bool → Bool) (d a : Fin 16) (na : Bool) (b : Fin 16) (nb : Bool) {c : Bool}
    (h : f (s.pred a != na) (s.pred b != nb) = c) :
    ∃ t, s.plog f d a na b nb = .next t ∧
      Issues s t none s.core.live.sg 1 [.p (physP s.core.live d) c, condWrite c] := by
  refine ⟨_, rfl, ?_⟩
  rw [h]
  exact issues_expose s none s.core.live.sg 1 _

/-- Settles O2: a compare (`issues_cmp`) or one predicate from two (`issues_plog`). -/
theorem comparesWritePredicates : Obligations.ComparesWritePredicates := by
  unfold Obligations.ComparesWritePredicates
  intro s i r h
  unfold exec
  cases i with
  | cmpeq p a b | cmpne p a b | cmplt p a b | cmple p a b | cmpltn p a b | cmplen p a b | cmptst p a b =>
    cases h
    exact issues_cmp s _ p a b rfl
  | pand d a na b nb | por d a na b nb | pxor d a na b nb =>
    cases h
    exact issues_plog s _ d a na b nb rfl
  | _ => cases h

end Sys2Proof.ScalarIssue

/-!
Scalar floats, rationals and Clove (O3, O4). Each shared shape of the model completes with the operation that the tables give
(`completesOp_fop`, `completesOp_fmm`, `completesOp_clove`, `issues_fcmp`); what a rounding draws is `draw1_eq`.
-/
namespace Sys2Proof.ScalarFloat
open Machine Laws Claims ScalarIssue

/-! ### Roundings -/

/-- A scalar rounding takes one output of the generator under STO, and none otherwise (spec/02 R58). -/
theorem draw1_eq (s : State) (a : Src) : (s.loadS a).draw1 = ((drawn s).1, begun s (some a) (drawn s).2) := by
  rw [loadS_eq_begun]
  unfold State.draw1 State.draw drawn
  by_cases h : s.core.iss.frnd = .sto
  · simp only [begun, h, if_true]
    rfl
  · simp only [begun, h, if_false]
    rfl

/-! ### Shared shapes -/

/-- The answer issues the float operation `r`. -/
def CompletesOp (s : State) (r : FloatOp) (x : Res) : Prop := ∃ t, x = .next t ∧ r.issues s t

/-- An operation that does not round. -/
theorem completesOp_exact (s : State) (d : XReg) (a : Src) (lat : Nat) (v : Word × Fl) :
    CompletesOp s ⟨d, a, lat, false, fun _ => v⟩ (.next ((s.loadS a).toX lat d v.1 v.2)) := by
  refine ⟨_, rfl, ?_⟩
  rw [loadS_eq_begun]
  exact issues_toX s (some a) _ lat d v.1 v.2

/-- An operation that rounds. -/
theorem completesOp_rounded (s : State) (d : XReg) (a : Src) (lat : Nat) (f : Rnd → Word × Fl) :
    CompletesOp s ⟨d, a, lat, true, f⟩
      (.next ((s.loadS a).draw1.2.toX lat d (f (s.loadS a).draw1.1).1 (f (s.loadS a).draw1.1).2)) := by
  refine ⟨_, rfl, ?_⟩
  rw [draw1_eq]
  exact issues_toX s (some a) _ lat d _ _

section
variable {s : State} (lat : Nat) (d : XReg) (a : Src) (b : Opnd)

theorem completesOp_fop {lat : Nat} {d : XReg} {a : Src} {f : Rnd → Nat × Fl} {q : Qrnd → Sat → Nat × Fl} {x : Res}
    {val : Rnd → Word × Fl} (hm : s.rm = false) (hx : x = s.fop lat d a f q) (hv : ∀ m, ofCode (f m) = val m) :
    CompletesOp s ⟨d, a, lat, true, val⟩ x := by
  obtain rfl : (fun m => ofCode (f m)) = val := funext hv
  unfold State.fop at hx
  simp only [hm, Bool.false_eq_true, if_false] at hx
  exact hx ▸ completesOp_rounded s d a lat fun m => ofCode (f m)

theorem completesOp_fop_rational {lat : Nat} {d : XReg} {a : Src} {f : Rnd → Nat × Fl} {q : Qrnd → Sat → Nat × Fl} {x : Res}
    {v : Word × Fl} (hm : s.rm = true) (hx : x = s.fop lat d a f q) (hv : ofCode (q s.qr s.qsat) = v) :
    CompletesOp s ⟨d, a, 40, false, fun _ => v⟩ x := by
  subst hv
  unfold State.fop at hx
  simp only [hm, if_true] at hx
  exact hx ▸ completesOp_exact s d a 40 (ofCode (q s.qr s.qsat))

/-- The two-operand operations, and those with operands of their own, by the shape they share. -/
theorem fbin_eq (f : Rnd → FV → FV → Nat × Fl) (q : Qrnd → Sat → QV → QV → Nat × Fl) : s.fbin lat d a b f q =
    s.fop lat d a (fun m => f m (fv32 (s.src .s a)) (fv32 (s.opnd .s b)))
      (fun r t => q r t (qv32 (s.src .s a)) (qv32 (s.opnd .s b))) := rfl

theorem execFma_eq : execFma d a b s =
    s.fop 4 d a (fun m => fmtF32.fma m (fv32 (s.src .s a)) (fv32 (s.opnd .s b)) (fv32 (s.x d)))
      (fun r t => qFma r t (qv32 (s.src .s a)) (qv32 (s.opnd .s b)) (qv32 (s.x d))) := rfl

theorem execFsqrt_eq : execFsqrt d a s =
    s.fop 14 d a (fun m => fmtF32.sqrt m (fv32 (s.src .s a))) (fun r _ => qSqrt r (qv32 (s.src .s a))) := rfl

theorem execFcvtif_eq (t : Fin 4) : execFcvtif d a t s =
    s.fop 4 d a (fun m => fmtF32.round m (decide (cvtIn t (s.src .s a) < 0)) (cvtIn t (s.src .s a)).natAbs 1 0 false)
      (fun r u => qRound r u (cvtIn t (s.src .s a)) 1) := rfl

theorem completesOp_fmm (wantMax : Bool) (h : s.rm = false) :
    CompletesOp s ⟨d, a, 4, false, fun _ => ofCode (fmtF32.minmax wantMax (lo32 (s.src .s a)) (lo32 (s.opnd .s b)))⟩
      (s.fmm wantMax d a b) := by
  unfold State.fmm
  simp only [h, Bool.false_eq_true, if_false]
  exact completesOp_exact s d a 4 (ofCode _)

theorem completesOp_fmm_rational (wantMax : Bool) (h : s.rm = true) :
    CompletesOp s ⟨d, a, 40, false, fun _ => (w64 (qMinMax wantMax (qv32 (s.src .s a)) (qv32 (s.opnd .s b))), 0)⟩
      (s.fmm wantMax d a b) := by
  unfold State.fmm
  simp only [h, if_true]
  exact completesOp_exact s d a 40 (w64 _, 0)

theorem completesOp_fcvtfi (t : Fin 4) (h : s.rm = false) :
    CompletesOp s ⟨d, a, 4, true, fun m => let r := fvToInt (cvtTy t) m (fv32 (s.src .s a)); (i64 r.1, r.2)⟩
      (execFcvtfi d a t s) := by
  unfold execFcvtfi
  simp only [h, Bool.false_eq_true, if_false]
  exact completesOp_rounded s d a 4 fun m => (i64 (fvToInt (cvtTy t) m (fv32 (s.src .s a))).1, _)

theorem completesOp_fcvtfi_rational (t : Fin 4) (h : s.rm = true) :
    CompletesOp s ⟨d, a, 40, true, fun m => let r := qToInt (cvtTy t) m (qv32 (s.src .s a)); (i64 r.1, r.2)⟩
      (execFcvtfi d a t s) := by
  unfold execFcvtfi
  simp only [h, if_true]
  exact completesOp_rounded s d a 40 fun m => (i64 (qToInt (cvtTy t) m (qv32 (s.src .s a))).1, _)

theorem completesOp_clove (v : Int) (f : Fl) :
    CompletesOp s ⟨d, a, 40, false, fun _ => (i64 v, f)⟩ (s.clove d a v f) := completesOp_exact s d a 40 (i64 v, f)

/-- A code that Clove delivers as a number. -/
theorem completesOp_cloveCode (p : Nat × Fl) :
    CompletesOp s ⟨d, a, 40, false, fun _ => ofCode p⟩ (s.clove d a p.1 p.2) := by
  have hc : ofCode p = (i64 p.1, p.2) := congrArg (·, p.2) (BitVec.ofInt_natCast 64 p.1).symm
  rw [hc]
  exact completesOp_clove d a p.1 p.2

end

/-! ### Float results (O3) -/

theorem exec_floatOp {s : State} {i : Instr} {r : FloatOp} (hm : s.rm = false) (h : floatOp s i = some r) :
    CompletesOp s r (exec i s) := by
  unfold exec
  cases i with
  | fadd d a b | fsub d a b | fmul d a b | fdiv d a b =>
    cases h
    exact completesOp_fop hm (fbin_eq _ d a b _ _) (fun _ => rfl)
  | fma d a b =>
    cases h
    exact completesOp_fop hm (execFma_eq d a b) (fun _ => rfl)
  | fsqrt d a =>
    cases h
    exact completesOp_fop hm (execFsqrt_eq d a) (fun _ => rfl)
  | fcvtif d a t =>
    cases h
    exact completesOp_fop hm (execFcvtif_eq d a t) (fun _ => rfl)
  | fmin d a b | fmax d a b =>
    cases h
    exact completesOp_fmm d a b _ hm
  | fcvtfi d a t =>
    cases h
    exact completesOp_fcvtfi d a t hm
  | _ => cases h

theorem exec_ratOp {s : State} {i : Instr} {r : FloatOp} (hm : s.rm = true) (h : ratOp s i = some r) :
    CompletesOp s r (exec i s) := by
  unfold exec
  cases i with
  | fadd d a b | fsub d a b | fmul d a b | fdiv d a b =>
    cases h
    exact completesOp_fop_rational hm (fbin_eq _ d a b _ _) rfl
  | fma d a b =>
    cases h
    exact completesOp_fop_rational hm (execFma_eq d a b) rfl
  | fsqrt d a =>
    cases h
    exact completesOp_fop_rational hm (execFsqrt_eq d a) rfl
  | fcvtif d a t =>
    cases h
    exact completesOp_fop_rational hm (execFcvtif_eq d a t) rfl
  | fmin d a b | fmax d a b =>
    cases h
    exact completesOp_fmm_rational d a b _ hm
  | fcvtfi d a t =>
    cases h
    exact completesOp_fcvtfi_rational d a t hm
  | _ => cases h

theorem exec_cloveOp {s : State} {i : Instr} {r : FloatOp} (h : cloveOp s i = some r) : CompletesOp s r (exec i s) := by
  unfold exec
  cases i with
  | qmk d a b | qfromf d a =>
    cases h
    exact completesOp_cloveCode d a _
  | qnum d a | qden d a | qflr d a | qceil d a =>
    cases h
    exact completesOp_clove d a _ _
  | qtof d a =>
    cases h
    exact completesOp_rounded s d a 40 fun m => ofCode (qToF fmtF32 m (qv32 (s.src .s a)))
  | _ => cases h

/-- Settles O3: a float in the one mode (`exec_floatOp`), a rational in the other (`exec_ratOp`), Clove in both
(`exec_cloveOp`). -/
theorem floatAndRationalResults : Obligations.FloatAndRationalResults := by
  unfold Obligations.FloatAndRationalResults
  intro s i r
  exact ⟨exec_floatOp, exec_ratOp, exec_cloveOp⟩

/-! ### Float compares (O4) -/

theorem flIf_fNV (b : Bool) : (if flIf b fNV = 0 then [] else [LWrite.flags (flIf b fNV)]) = if b then [.flags fNV] else [] := by
  cases b <;> rfl

section
variable (quiet : Bool) (f : FV → FV → Bool) (q : QV → QV → Bool)

/-- Condition and NV of a float compare by the shape the three share: `quiet` sets NV for a signalling NaN only, and in rational
mode for no NaR, which compares false (spec/06 R160, R162). -/
def compared (rm : Bool) (x y : Word) : Bool × Bool :=
  if rm then
    let nar := (qv32 x).isNar || (qv32 y).isNar
    (!nar && q (qv32 x) (qv32 y), nar && !quiet)
  else (f (fv32 x) (fv32 y),
    if quiet then (fv32 x).isSnan || (fv32 y).isSnan else (fv32 x).isNan || (fv32 y).isNan)

theorem issues_fcmp (s : State) (p : Pair) (a : Src) (b : Opnd) :
    let c := compared quiet f q s.rm (s.src .s a) (s.opnd .s b)
    ∃ t, s.fcmp quiet f q p a b = .next t ∧ Issues s t (some a) s.core.live.sg (if s.rm then 40 else 4)
      (pairWrites s p c.1 ++ condWrite c.1 :: if c.2 then [.flags fNV] else []) := by
  intro c
  rw [← flIf_fNV]
  unfold State.fcmp
  cases hm : s.rm with
  | false =>
    have hc : c = compared quiet f q false (s.src .s a) (s.opnd .s b) := by rw [← hm]
    simp only [Bool.false_eq_true, if_false, loadS_eq_begun, hc]
    exact ⟨_, rfl, issues_toPair s (some a) _ 4 p _ _⟩
  | true =>
    have hc : c = compared quiet f q true (s.src .s a) (s.opnd .s b) := by rw [← hm]
    simp only [if_true, loadS_eq_begun, hc]
    exact ⟨_, rfl, issues_toPair s (some a) _ 40 p _ _⟩

end

theorem floatCond_fcmpeq (rm : Bool) (x y : Word) (p : Pair) (a : Src) (b : Opnd) : floatCond rm x y (.fcmpeq p a b) =
    compared true fvEq (fun x y => !qLt x y && !qLt y x) rm x y := by
  cases rm with
  | false => rfl
  | true => unfold floatCond compared; cases qv32 x <;> cases qv32 y <;> rfl

theorem floatCond_fcmplt (rm : Bool) (x y : Word) (p : Pair) (a : Src) (b : Opnd) : floatCond rm x y (.fcmplt p a b) =
    compared false fvCmpLt qLt rm x y := by
  cases rm with
  | false => rfl
  | true => unfold floatCond compared; cases qv32 x <;> cases qv32 y <;> rfl

theorem floatCond_fcmple (rm : Bool) (x y : Word) (p : Pair) (a : Src) (b : Opnd) : floatCond rm x y (.fcmple p a b) =
    compared false fvCmpLe (fun x y => !qLt y x) rm x y := by
  cases rm with
  | false => rfl
  | true => unfold floatCond compared; cases qv32 x <;> cases qv32 y <;> rfl

/-- Settles O4: the three compares are one shape (`issues_fcmp`), whose condition and flag are those of the table. -/
theorem floatCompares : Obligations.FloatCompares := by
  unfold Obligations.FloatCompares
  intro s i p a b hi
  dsimp only
  obtain rfl | rfl | rfl := hi
  · rw [floatCond_fcmpeq]
    exact issues_fcmp true fvEq (fun x y => !qLt x y && !qLt y x) s p a b
  · rw [floatCond_fcmplt]
    exact issues_fcmp false fvCmpLt qLt s p a b
  · rw [floatCond_fcmple]
    exact issues_fcmp false fvCmpLe (fun x y => !qLt y x) s p a b

end Sys2Proof.ScalarFloat

/-!
What the S slot puts off or writes without a result (O5 to O7): loop counters, the status register, effects at the end of the
bundle. An operation that names no result leaves an open value on its way to `sq` (`sqLands_eq`); `finish`
applies what was put off (`finish_none`).
-/
namespace Sys2Proof.ScalarEffects
open Machine Laws Claims ScalarIssue

/-! ### The open value on its way to `sq` -/

theorem marked_sq (v : Word) (o : Outst) : marked [.sq v] o = o := by
  rw [marked_eq]
  unfold meetsOutst
  cases o.xd <;> rfl

/-- A write of `sq` meets no outstanding result. -/
theorem sqLands_eq (s : State) : s.sqLands = sqOpen s (s.free 64 (s.core.utag 114)) := by
  have hm : (s.expose 1 [s.sqFree]).core.outst = s.core.outst := by
    have hi : marked [s.sqFree] = id := funext (marked_sq _)
    rw [expose_outst, hi, List.map_id, ite_self]
  unfold State.sqLands
  rw [(expose_spec s 1 [s.sqFree]).1, (expose_spec s 1 [s.sqFree]).2.1, hm]
  rfl

theorem opens_sqLands {t u : State} (h : t = u) : ∃ q, Host.Outcome.next t.sqLands = (.next (sqOpen u q) : Res) :=
  ⟨_, by rw [h, sqLands_eq]⟩

/-! ### Loop counters (O5) -/

theorem lcStep_eq (run drain : BitVec 32) (r dn : Fin 4) :
    lcStep run drain = ((loopStep run drain r dn).1, (loopStep run drain r dn).2.1) := by
  unfold lcStep loopStep
  by_cases hr : run = 0 <;> by_cases hd : drain = 0 <;>
    simp only [bne_iff_ne, ne_eq, hr, hd, not_true, not_false_iff, if_true, if_false]

theorem lcWrites_eq (run drain : BitVec 32) (r dn : Fin 4) :
    (if run != 0 then [LWrite.lc r (run - 1)] else if drain != 0 then [LWrite.lc dn (drain - 1)] else []) =
      (loopStep run drain r dn).2.2 := by
  unfold loopStep
  by_cases hr : run = 0 <;> by_cases hd : drain = 0 <;>
    simp only [bne_iff_ne, ne_eq, hr, hd, not_true, not_false_iff, if_true, if_false]

/-- The writes of a loop step to its pair, where it has one. -/
def pairOf (s : State) (p : Option Pair) (b : Bool) : List LWrite :=
  match p with
  | some q => pairWrites s q b
  | none => []

theorem execLcnext_eq (p : Option Pair) (r dn : Fin 4) (s : State) :
    let n := loopStep (s.lcv r) (s.lcv dn) r dn
    let s1 : State := { s with core := { s.core with live := { s.core.live with stage := n.1 } } }
    execLcnext p r dn s = .next (s1.expose 1 (n.2.2 ++ pairOf s p n.2.1 ++ [s.sqFree])) := by
  intro n s1
  unfold execLcnext
  simp only [lcStep_eq _ _ r dn, lcWrites_eq]
  cases p <;> rfl

/-- Settles O5: a write of a counter, or one count down (`execLcnext_eq`). -/
theorem loopCounterSteps : Obligations.LoopCounterSteps := by
  unfold Obligations.LoopCounterSteps
  intro s
  refine ⟨fun n b => ⟨_, rfl, issues_expose s none s.core.live.sg 1 _⟩, fun p r dn => ?_⟩
  intro n s1
  refine ⟨_, s.free 64 (s.core.utag 114), execLcnext_eq p r dn s, ?_⟩
  cases p <;> exact issues_expose s1 none s1.core.live.sg 1 _

/-! ### The status register (O6) -/

theorem getLsbD_fstWrite (old : BitVec 16) (a : Word) {i : Nat} (hi : i < 16) : (fstWrite old a).getLsbD i =
    if i < 8 then old.getLsbD i && !a.getLsbD i else a.getLsbD i := by
  have hh : (0xFF00 : BitVec 16).getLsbD i = decide (8 ≤ i) := by revert i; decide
  have hl : (0x00FF : BitVec 16).getLsbD i = decide (i < 8) := by revert i; decide
  unfold fstWrite
  simp only [BitVec.getLsbD_or, BitVec.getLsbD_and, BitVec.getLsbD_not, BitVec.getLsbD_setWidth, hh, hl, hi]
  by_cases h : i < 8
  · simp [h, Nat.not_le.2 h]
  · simp [h, Nat.not_lt.1 h]

theorem execWrfst_eq (s : State) (a : Src) :
    let u : State := { s with core := { s.core with live := { s.core.live with
      portS := portAfter s (some a), fst := fstWrite s.core.live.fst (s.src .s a) } } }
    exec (.wrfst a) s = .next (sqOpen u (u.free 64 (u.core.utag 114))) := by
  intro u
  change execWrfst a s = _
  unfold execWrfst
  rw [loadS_eq_begun, ← sqLands_eq]
  rfl

/-- Settles O6: `wrfst` writes FST alone (`getLsbD_fstWrite`), with an open value on its way to `sq`. -/
theorem statusWriteClearsFlags : Obligations.StatusWriteClearsFlags := by
  unfold Obligations.StatusWriteClearsFlags
  intro s a
  exact ⟨_, _, execWrfst_eq s a, fun _ => rfl, rfl, fun i hi => getLsbD_fstWrite _ _ hi⟩

/-! ### The end of the bundle (O7) -/

theorem canonical_iff (a : Word) : canonical a = true ↔ (a.setWidth 48).signExtend 64 = a := by
  have hn : natBits a.toNat 63 47 = a.toNat / 2 ^ 47 := by
    unfold natBits
    rw [Nat.shiftRight_eq_div_pow]
    exact Nat.mod_eq_of_lt (Nat.div_lt_of_lt_mul a.isLt)
  have hs : ((a.setWidth 48).signExtend 64).toNat =
      a.toNat % 2 ^ 48 + if 2 ^ 47 ≤ a.toNat % 2 ^ 48 then 2 ^ 64 - 2 ^ 48 else 0 := by
    rw [BitVec.toNat_signExtend, BitVec.msb_eq_decide]
    simp only [BitVec.toNat_setWidth, decide_eq_true_eq]
    split <;> omega
  unfold canonical
  rw [hn, ← BitVec.toNat_inj, hs]
  simp only [Bool.or_eq_true, beq_iff_eq]
  have ha := a.isLt
  split <;> omega

/-- The bit of a predicate, shifted before or after it becomes a mask. -/
theorem ofNat_shiftLeft_one (k : Nat) : BitVec.ofNat 16 (1 <<< k) = 1#16 <<< k := by
  apply BitVec.eq_of_toNat_eq
  rw [BitVec.toNat_shiftLeft]
  exact BitVec.toNat_ofNat _ _

theorem endWrite_eq_endEffect : Live.endWrite = endEffect := by
  funext l w
  cases w with
  | tb n a link =>
    unfold Live.endWrite endEffect
    simp only [canonical_iff]
  | ag v p =>
    cases p with
    | none => rfl
    | some o =>
      obtain ⟨e, o, b⟩ := o
      cases b <;> simp [Live.endWrite, endEffect, ofNat_shiftLeft_one]
  | _ => rfl

/-- A bundle that releases no core and ends no task: what was put off is applied, and the next bundle is due. -/
theorem finish_none (s : State) (b : Bundle) (hl : s.core.iss.leave = none) (he : s.core.iss.ending = 0) :
    s.finish b false = { s with core := { s.core.endControls with
      live := s.core.iss.eob.foldl endEffect s.core.live, drain := b.hdr.d && !s.onSaffron, pc := s.core.iss.next, iss := {} } } := by
  unfold State.finish
  simp only [hl, he, endWrite_eq_endEffect]
  rfl

theorem putOffInstructionsComplete : PutOffInstructionsComplete := by
  unfold PutOffInstructionsComplete
  intro s i r h
  unfold exec
  cases i with
  | sgset n a | vstp n a | fmset n a | bprepi n a | bprepiL n a =>
    cases h
    refine opens_sqLands ?_
    rw [loadS_eq_begun]
    rfl
  | bprep n b | bprepL n b =>
    cases h
    exact opens_sqLands rfl
  | _ => cases h

theorem prefixCompletes : PrefixCompletes := by
  unfold PrefixCompletes
  exact fun _ _ _ _ _ => rfl

/-- Settles O7: the instructions put their effect off, and the end of the bundle applies it (`finish_none`). -/
theorem bundleEndEffects : Obligations.BundleEndEffects := by
  unfold Obligations.BundleEndEffects
  refine ⟨putOffInstructionsComplete, prefixCompletes, fun s b hl he => ?_⟩
  rw [finish_none s b hl he]
  exact ⟨rfl, rfl, rfl, rfl⟩

end Sys2Proof.ScalarEffects

/-!
Control registers and `halt` (O11). `crWrite_eq` says in one record what a write changes; of PBOUND and LIVEMASK it is put off,
and `endControls_append` says what the end of the bundle makes of it.
-/
namespace Sys2Proof.ControlRegs
open Machine Laws Claims ScalarIssue ScalarEffects

theorem privileged_eq_of_priv {s : State} (h : s.core.tcw.getLsbD 0 = true) (r : Res) : s.privileged r = r := if_pos h

/-! ### Reads -/

theorem crRead_root (s : State) :
    s.crRead 0x010 = some (if s.core.phase = .handler then s.core.hroot else s.core.ptroot) := by
  simp [State.crRead, inRange]

theorem crRead_of_controlReg {s : State} {n : Nat} {v : Word} (h : controlReg s n = some v) : s.crRead n = some v := by
  unfold controlReg at h
  dsimp only at h
  split at h <;> cases h
  case h_12 => exact crRead_root s
  all_goals rfl

theorem rdcr_issues {s : State} (hp : s.core.tcw.getLsbD 0 = true) (d : XReg) (n : Imm) {v : Word}
    (h : controlReg s n.val.toNat = some v) : Completes s { d := d, a := none, lat := 1, v := v } (exec (.rdcr d n) s) := by
  change Completes s _ (execRdcr d n s)
  unfold execRdcr
  rw [privileged_eq_of_priv hp, crRead_of_controlReg h]
  exact completes_toX s 1 d v

/-! ### Writes -/

/-- What a write of PBOUND or LIVEMASK puts off. -/
def lateWrites (n : Nat) (v : Word) : List EobWrite :=
  if n = 1 then [.pbound v]
  else if 8 ≤ n ∧ n < 16 then [.mask ⟨(n - 8) % 8, Nat.mod_lt _ (by decide)⟩ v]
  else []

theorem crWrite_eq (c : Core) (n : Nat) (v : Word) : c.crWrite n v = { c with
    tcw := if n = 0 then mergeMask 2 c.tcw v else c.tcw
    trtcw := if n = 0x20 then mergeMask 2 c.trtcw v else c.trtcw
    trpc := if n = 0x21 then v else c.trpc
    iss := { c.iss with eob := c.iss.eob ++ lateWrites n v } } := by
  have hr : inRange n 8 8 = true ↔ 8 ≤ n ∧ n < 16 := by simp [inRange]
  have h8 : 8 ≤ n ∧ n < 16 → n ≠ 0 ∧ n ≠ 1 ∧ n ≠ 0x20 ∧ n ≠ 0x21 := by omega
  unfold Core.crWrite lateWrites
  simp only [hr]
  by_cases h : 8 ≤ n ∧ n < 16
  · obtain ⟨h0, h1, h20, h21⟩ := h8 h
    simp only [h, h0, h1, h20, h21, if_true, if_false, and_self]
  · by_cases h1 : n = 1
    · subst h1
      rfl
    · simp only [h, h1, if_false, List.append_nil]
      split
      · next h0 => subst h0; rfl
      · split
        · next h20 => subst h20; rfl
        · split <;> rfl

theorem getLsbD_liveMask (m : BitVec 512) {j : Nat} (hj : j < 512) :
    (liveMask m).getLsbD j = (maskable j && m.getLsbD j) := by
  have h15 : (15).testBit (j - 384) = decide (j - 384 < 4) := Nat.testBit_two_pow_sub_one 4 (j - 384)
  have hhi : (15 * 2 ^ 384).testBit j = (decide (384 ≤ j) && decide (j - 384 < 4)) :=
    (Nat.testBit_mul_two_pow 15 j 384).trans (congrArg (_ && ·) h15)
  unfold liveMask maskable
  rw [BitVec.getLsbD_and, BitVec.getLsbD_or, BitVec.getLsbD_ofNat, BitVec.getLsbD_ofNat, hhi, Nat.testBit_two_pow_sub_one,
    Bool.and_comm]
  congr 1
  rw [Bool.eq_iff_iff]
  simp only [hj, decide_true, Bool.true_and, Bool.or_eq_true, Bool.and_eq_true, decide_eq_true_eq]
  omega

/-- A bit of LIVEMASK after a write of one of its words. -/
theorem getLsbD_mask (c : Core) (k : Fin 8) (v : Word) {j : Nat} (hj : j < 512) :
    (c.endControl (.mask k v)).livemask.getLsbD j =
      (maskable j && if j / 64 = k.val then v.getLsbD (j % 64) else c.livemask.getLsbD j) := by
  unfold Core.endControl
  simp only [getLsbD_liveMask _ hj, BitVec.getLsbD_and, BitVec.getLsbD_or, BitVec.getLsbD_not, BitVec.getLsbD_ofNat, hj,
    decide_true, Bool.true_and, Nat.testBit_mul_two_pow, Nat.testBit_two_pow_sub_one]
  congr 1
  by_cases h : j / 64 = k.val
  · have h1 : 64 * k.val ≤ j := by omega
    have h2 : j - 64 * k.val = j % 64 := by omega
    have h3 : j % 64 < 64 := Nat.mod_lt _ (by decide)
    simp [h, h1, h2, h3, BitVec.getLsbD]
  · by_cases h1 : 64 * k.val ≤ j
    · have h2 : ¬j - 64 * k.val < 64 := by omega
      have hv : v.toNat.testBit (j - 64 * k.val) = false := BitVec.getLsbD_of_ge v _ (Nat.not_lt.1 h2)
      simp [h, h2, hv]
    · simp [h, h1]

/-- The end of the bundle reads PBOUND and LIVEMASK of what stood before. -/
theorem foldl_endControl_congr (es : List EobWrite) {c d : Core} (hp : c.pbound = d.pbound) (hm : c.livemask = d.livemask) :
    (es.foldl Core.endControl c).pbound = (es.foldl Core.endControl d).pbound ∧
    (es.foldl Core.endControl c).livemask = (es.foldl Core.endControl d).livemask := by
  induction es generalizing c d with
  | nil => exact ⟨hp, hm⟩
  | cons e es ih =>
    refine ih ?_ ?_ <;> cases e <;> simp [Core.endControl, hp, hm]

theorem endControls_lateWrites {c d : Core} (n : Nat) (v : Word) (hp : d.pbound = c.pbound) (hm : d.livemask = c.livemask)
    (he : d.iss.eob = c.iss.eob ++ lateWrites n v) :
    d.endControls.pbound = (if n = 1 then v &&& 0xFFFFFFFF else c.endControls.pbound) ∧
    ∀ j, j < 512 → d.endControls.livemask.getLsbD j =
      (if 8 ≤ n ∧ n < 16 then maskable j && (if j / 64 = n - 8 then v.getLsbD (j % 64) else c.endControls.livemask.getLsbD j)
       else c.endControls.livemask.getLsbD j) := by
  obtain ⟨hp', hm'⟩ := foldl_endControl_congr c.iss.eob hp hm
  change _ = c.endControls.pbound at hp'
  change _ = c.endControls.livemask at hm'
  have hd : d.endControls = (lateWrites n v).foldl Core.endControl (c.iss.eob.foldl Core.endControl d) := by
    unfold Core.endControls
    rw [he, List.foldl_append]
  rw [hd]
  generalize c.iss.eob.foldl Core.endControl d = e at hp' hm' ⊢
  unfold lateWrites
  by_cases h1 : n = 1
  · subst h1
    exact ⟨rfl, fun j _ => congrArg (BitVec.getLsbD · j) hm'⟩
  · by_cases h : 8 ≤ n ∧ n < 16
    · simp only [h1, h, if_true, if_false, and_self]
      refine ⟨hp', fun j hj => ?_⟩
      have hk : (n - 8) % 8 = n - 8 := Nat.mod_eq_of_lt (by omega)
      rw [List.foldl_cons, List.foldl_nil, getLsbD_mask _ _ _ hj, hm']
      simp only [hk]
    · simp only [h1, h, if_false]
      exact ⟨hp', fun j _ => congrArg (BitVec.getLsbD · j) hm'⟩

/-- The state in which a control register has been written. -/
def written (s : State) (n : Nat) (a : Src) : State :=
  { s with core := { s.core with
    tcw := if n = 0 then mergeMask 2 s.core.tcw (s.src .s a) else s.core.tcw
    trtcw := if n = 0x20 then mergeMask 2 s.core.trtcw (s.src .s a) else s.core.trtcw
    trpc := if n = 0x21 then s.src .s a else s.core.trpc
    live := { s.core.live with portS := portAfter s (some a) }
    iss := { s.core.iss with eob := s.core.iss.eob ++ lateWrites n (s.src .s a) } } }

theorem exec_wrcr {s : State} (hp : s.core.tcw.getLsbD 0 = true) (n : Imm) (a : Src) {v : Word}
    (h : controlReg s n.val.toNat = some v) : ∃ q, exec (.wrcr n a) s = .next (sqOpen (written s n.val.toNat a) q) := by
  change ∃ q, execWrcr n a s = _
  unfold execWrcr
  rw [privileged_eq_of_priv hp, crRead_of_controlReg h]
  refine opens_sqLands ?_
  rw [loadS_eq_begun, crWrite_eq]
  rfl

theorem lateWrites_later (n : Nat) (v : Word) :
    ((n = 1 ∨ (8 ≤ n ∧ n < 16)) → ∃ w, lateWrites n v = [w] ∧ ∀ l, endEffect l w = l) ∧
    (¬(n = 1 ∨ (8 ≤ n ∧ n < 16)) → lateWrites n v = []) := by
  unfold lateWrites
  by_cases h1 : n = 1
  · rw [if_pos h1]
    exact ⟨fun _ => ⟨_, rfl, fun _ => rfl⟩, fun hn => absurd (.inl h1) hn⟩
  · rw [if_neg h1]
    by_cases h : 8 ≤ n ∧ n < 16
    · rw [if_pos h]
      exact ⟨fun _ => ⟨_, rfl, fun _ => rfl⟩, fun hn => absurd (.inr h) hn⟩
    · rw [if_neg h]
      exact ⟨fun hl => absurd hl (not_or_intro h1 h), fun _ => rfl⟩

theorem controlWrite_written (s : State) (n : Nat) (a : Src) (q : Word) :
    ControlWrite s (sqOpen (written s n a) q) n (s.src .s a) where
  only := ⟨q, rfl⟩
  tcw := rfl
  later := by
    obtain ⟨hw, hn⟩ := lateWrites_later n (s.src .s a)
    refine ⟨fun h => ?_, fun h => ?_⟩
    · obtain ⟨w, e, he⟩ := hw h
      exact ⟨w, congrArg (s.core.iss.eob ++ ·) e, he⟩
    · exact (congrArg (s.core.iss.eob ++ ·) (hn h)).trans (List.append_nil _)
  ends := by
    intro b hl he
    rw [finish_none _ b hl he]
    exact endControls_lateWrites n (s.src .s a) rfl rfl rfl
  trtcw := rfl
  trpc := rfl

/-! ### `halt` -/

/-- The bundle of a `halt` ends with the core stopped, whatever transfer it names. -/
theorem endsIn_stopped {t : State} (h : t.core.iss.ending = 2) : EndsIn t .stopped := by
  intro b take hl
  obtain ⟨p, m, he⟩ := endControls_only t.core
  unfold State.finish
  simp only [hl, h, he, endWrite_eq_endEffect]
  exact ⟨rfl, rfl, rfl, rfl, fun _ => rfl, rfl, rfl⟩

/-- Settles O11: reads (`rdcr_issues`), writes (`exec_wrcr`, `controlWrite_written`) and `halt` (`endsIn_stopped`) in the
privileged mode. -/
theorem controlRegisters : Obligations.ControlRegisters := by
  unfold Obligations.ControlRegisters
  intro s hp
  refine ⟨fun d n v h => rdcr_issues hp d n h, fun n a v h => ?_, ?_⟩
  · obtain ⟨q, e⟩ := exec_wrcr hp n a h
    exact ⟨_, e, fun _ => rfl, controlWrite_written s _ a q, rfl⟩
  · exact ⟨_, privileged_eq_of_priv hp _, fun _ => rfl, rfl, endsIn_stopped rfl⟩

end Sys2Proof.ControlRegs

/-!
What the V slots leave in flight. An operation draws the outputs its roundings take (`seeded`), puts its writes and flags in flight
and adds its rows to those of the interval; from there it issues as the statements say (`vissues_vput`). Every operation is checked
for an invalid format register first (`vgo_of_valid`, `vgo_of_invalid`).
-/
namespace Sys2Proof.VectorIssue
open Machine Laws Claims ScalarIssue

/-! ### Roundings -/

/-- The state whose generators stand at `g`. -/
def seeded (s : State) (g : Vector Word 16) : State :=
  { s with core := { s.core with live := { s.core.live with sg := g } } }

@[simp] theorem outputs_false (s : State) (n : Nat) : outputs s false n = ([], s.core.live.sg) := by simp [outputs]

/-- What n roundings draw, and the generators after them (spec/02 R58). -/
theorem draw_eq (s : State) (n : Nat) : s.draw n = ((outputs s true n).1, seeded s (outputs s true n).2) := by
  unfold State.draw outputs
  by_cases h : s.core.iss.frnd = .sto
  · simp only [h, and_self, if_true]
    rfl
  · simp only [h, and_false, if_false]
    rfl

theorem work_eq (s : State) (rounds : Bool) (es : List Nat) (f : Nat → Rnd → Nat × Fl) :
    s.work rounds es f = (laneResults s rounds es f, seeded s (outputs s rounds es.length).2) := by
  unfold State.work laneResults
  cases rounds with
  | true => simp only [if_true, draw_eq]
  | false => simp only [Bool.false_eq_true, if_false, outputs_false]; rfl

/-- One rounding takes what the statements call drawn. -/
theorem draw1_eq_drawn (s : State) : s.draw1 = ((drawn s).1, seeded s (drawn s).2) := by
  unfold State.draw1 State.draw drawn
  by_cases h : s.core.iss.frnd = .sto
  · simp only [h, if_true]
    rfl
  · simp only [h, if_false]
    rfl

/-! ### Lanes -/

/-- Lanes whose value takes no rounding: each by itself, and the flags of all. -/
theorem mapLanes_exact (mk : Nat → Rnd) (g : Nat → Nat × Fl) (es rs : List Nat) :
    mapLanes mk (fun i _ => g i) es rs = (es.map fun i => (i, (g i).1), es.foldr (fun i f => (g i).2 ||| f) 0) := by
  induction es generalizing rs with
  | nil => rfl
  | cons e es ih => simp only [mapLanes, ih, List.map_cons, List.foldr_cons]

/-- Lanes that set no flag. -/
theorem mapLanes_flagless (mk : Nat → Rnd) (g : Nat → Nat) (es rs : List Nat) :
    mapLanes mk (fun i _ => (g i, 0)) es rs = (es.map fun i => (i, g i), 0) := by
  induction es generalizing rs with
  | nil => rfl
  | cons e es ih => simp only [mapLanes, ih, List.map_cons, BitVec.or_self]

theorem mapLanes_congr (mk : Nat → Rnd) {f g : Nat → Rnd → Nat × Fl} {es : List Nat} (h : ∀ i ∈ es, f i = g i) (rs : List Nat) :
    mapLanes mk f es rs = mapLanes mk g es rs := by
  induction es generalizing rs with
  | nil => rfl
  | cons e es ih =>
    simp only [mapLanes, h e List.mem_cons_self, ih fun i hi => h i (List.mem_cons_of_mem e hi)]

theorem laneResults_congr (s : State) (rounds : Bool) {f g : Nat → Rnd → Nat × Fl} {es : List Nat} (h : ∀ i ∈ es, f i = g i) :
    laneResults s rounds es f = laneResults s rounds es g := mapLanes_congr _ h _

/-! ### Issue -/

/-- The rows of a V operation enter the record of the interval, and nothing else changes. -/
theorem trkRows_eq (s : State) (rd wr : List Nat) :
    s.trkRows rd wr = { s with core := { s.core with trk := (s.trkRows rd wr).core.trk } } := by
  unfold State.trkRows State.trkSets
  by_cases h : (s.core.phase == .handler) = true
  · simp only [h, if_true]
  · simp only [h, Bool.false_eq_true, if_false]

/-- Writes in flight from the state that has drawn, with no flag beside them. -/
theorem vissues_expose (s : State) (g : Vector Word 16) (lat : Nat) (ws : List LWrite) (f : Fl) (rd wr : List Nat) :
    VIssues s (((seeded s g).expose lat (ws ++ if f = 0 then [] else [.flags f])).trkRows rd wr) g lat ws f := by
  rw [trkRows_eq]
  exact ⟨rfl, fun _ => rfl, rfl, rfl, expose_outst (seeded s g) lat _⟩

theorem vissues_vput (s : State) (g : Vector Word 16) (lat : Nat) (ws : List LWrite) (f : Fl) (rd wr : List Nat) :
    VIssues s (((seeded s g).vput lat ws f).trkRows rd wr) g lat ws f := vissues_expose s g lat ws f rd wr

theorem vissues_vput_undrawn (s : State) (lat : Nat) (ws : List LWrite) (f : Fl) (rd wr : List Nat) :
    VIssues s ((s.vput lat ws f).trkRows rd wr) s.core.live.sg lat ws f := vissues_vput s s.core.live.sg lat ws f rd wr

theorem vissues_expose_undrawn (s : State) (lat : Nat) (ws : List LWrite) (rd wr : List Nat) :
    VIssues s ((s.expose lat ws).trkRows rd wr) s.core.live.sg lat ws 0 := by
  have h := vissues_expose s s.core.live.sg lat ws 0 rd wr
  rwa [if_pos rfl, List.append_nil] at h

theorem vissues_vlanes (s : State) (lat : Nat) (v : VArgs) (rounds : Bool) (rd : List Nat) (f : Nat → Rnd → Nat × Fl) :
    VIssues s (s.vlanes lat v rounds rd f) (outputs s rounds (s.enabled v).length).2 lat
      [rowWrite v.d v.ty.width (laneResults s rounds (s.enabled v) f).1] (laneResults s rounds (s.enabled v) f).2 := by
  unfold State.vlanes
  rw [work_eq]
  exact vissues_vput s _ lat _ _ rd _

/-! ### The check of format registers (spec/02 R42) -/

theorem vgo_of_valid {s : State} {ts : List VTy} (h : ∀ t ∈ ts, s.fmOk t = true) (r : State) : s.vgo ts r = .next r :=
  if_pos (List.all_eq_true.2 h)

theorem vgo_one_of_valid {s : State} {t : VTy} (h : s.fmOk t = true) (r : State) : s.vgo [t] r = .next r :=
  vgo_of_valid (by simpa using h) r

theorem vgo_of_invalid {s : State} {ts : List VTy} {t : VTy} (ht : t ∈ ts) (h : s.fmOk t = false) (r : State) :
    s.vgo ts r = .next (s.trap 0x02) :=
  if_neg fun ha => absurd (List.all_eq_true.1 ha t ht) (by simp [h])

/-- The trap of an invalid format register. -/
theorem illop_taken {s : State} (h : s.CanTrap) :
    TrapTaken s (s.trap 0x02) 0x02 0 s.core.iss.slot.num s.core.iss.pcb 0 s.core.ckpt := trap_taken s 0x02 0 0 h

/-- An answer that is checked for the type `t` alone and then issues. -/
theorem issues_of_vgo {s u : State} {t : VTy} {x : Res} {g : Vector Word 16} {lat : Nat} {ws : List LWrite} {f : Fl}
    (hx : x = s.vgo [t] u) (h : s.fmOk t = true) (hu : VIssues s u g lat ws f) : ∃ u, x = .next u ∧ VIssues s u g lat ws f :=
  ⟨u, hx.trans (vgo_one_of_valid h u), hu⟩

end Sys2Proof.VectorIssue

/-!
Vector arithmetic (O29). Every operation of the table is one shape of the model, `varith`, on the table's lane function
(`varith_eq`, `exec_arithOp`).
-/
namespace Sys2Proof.VectorArith
open Machine Laws Claims VectorIssue

theorem signLane_eq_signOp : signLane = signOp := rfl

section
variable (s : State) {v : VArgs} (a b c : Nat → Nat) (fi : Int → Int → Int → Int)
  (ff : FFmt → Rnd → Nat → Nat → Nat → Nat × Fl)

theorem arithLane_of_float {f : FFmt} (h : v.ty.ffmt = some f) : arithLane s v a b c fi ff =
    fun i m => ff f m (a i % 2 ^ s.dbits v.ty) (b i % 2 ^ s.dbits v.ty) (c i % 2 ^ s.dbits v.ty) := by
  funext i m
  simp only [arithLane, h]

theorem arithLane_of_int (h : v.ty.ffmt = none) : arithLane s v a b c fi ff =
    fun i _ => (wrapNat v.ty.width (fi (laneZ v (a i)) (laneZ v (b i)) (laneZ v (c i))), 0) := by
  funext i m
  simp only [arithLane, h]

end

/-- The operands that an operation does not use are read as zero. -/
theorem varith_eq (s : State) (lat : Nat) (v : VArgs) (sto useB useC : Bool) (fi : Int → Int → Int → Int)
    (ff : FFmt → Rnd → Nat → Nat → Nat → Nat × Fl) : ∃ rd, s.varith lat v sto useB useC fi ff =
      s.vgo [v.ty] (s.vlanes lat v (sto && isFloat v) rd (arithLane s v (s.laneA v) (if useB then s.laneB v else fun _ => 0)
        (if useC then s.lanesOf v.c v.ty.width else fun _ => 0) fi ff)) := by
  refine ⟨s.rdA v ++ (if useB then rdB v else []) ++ (if useC then [v.c.val] else []), ?_⟩
  unfold State.varith isFloat
  cases h : v.ty.ffmt with
  | some f =>
    rw [arithLane_of_float s _ _ _ fi ff h, Option.isSome_some, Bool.and_true]
  | none =>
    rw [arithLane_of_int s _ _ _ fi ff h, Option.isSome_none, Bool.and_false]
    rfl

theorem exec_arithOp {s : State} {i : Instr} {r : LaneOp} (h : arithOp s i = some r) :
    ∃ rd, exec i s = s.vgo [r.v.ty] (s.vlanes r.lat r.v r.rounds rd r.val) := by
  unfold exec
  cases i with
  | vadd v | vsub v | vmul v =>
    cases h
    exact varith_eq s _ v true true false _ _
  | vfma v | vfms v =>
    cases h
    exact varith_eq s _ v true true true _ _
  | vmin v | vmax v =>
    cases h
    exact varith_eq s _ v false true false _ _
  | vabs v | vneg v =>
    cases h
    rw [signLane_eq_signOp]
    exact varith_eq s _ v false false false _ _
  | _ => cases h

/-- Settles O29: the answer is `vlanes` after the check of the type (`exec_arithOp`). -/
theorem vectorArithmetic : Obligations.VectorArithmetic := by
  unfold Obligations.VectorArithmetic
  intro s i r h
  obtain ⟨rd, hx⟩ := exec_arithOp h
  exact ⟨fun hf => issues_of_vgo hx hf (vissues_vlanes s r.lat r.v r.rounds rd r.val),
    fun hf ht => ⟨_, hx.trans (vgo_of_invalid List.mem_cons_self hf _), illop_taken ht⟩⟩

end Sys2Proof.VectorArith

/-!
Reductions (O31). Each is one value put into every lane (`vissues_all`); `vtopk` is `topState`, which writes the first lanes of two
rows, unless it selects none (`execVtopk_eq`).
-/
namespace Sys2Proof.VectorReduce
open Machine Laws Claims VectorIssue

theorem vissues_all (s : State) (g : Vector Word 16) (v : VArgs) (x : Nat) (f : Fl) :
    VIssues s ((seeded s g).vall' 8 v x f) g 8 [everyLane v x] f := vissues_vput s g 8 _ f _ _

theorem vissues_all_undrawn (s : State) (v : VArgs) (x : Nat) (f : Fl) :
    VIssues s (s.vall' 8 v x f) s.core.live.sg 8 [everyLane v x] f := vissues_all s s.core.live.sg v x f

/-- A signalling NaN among the lanes sets NV. -/
theorem nanFlags_lanes (ls : List (Nat × FV)) :
    nanFlags (ls.map (·.2)) = if ls.any (fun p => p.2.isSnan) then fNV else 0 := by
  unfold nanFlags flIf
  rw [List.any_map]
  rfl

/-! ### One value of all lanes -/

/-- The greatest or least lane, with its flags. -/
def extremeValue (s : State) (wantMax : Bool) (v : VArgs) : Nat × Fl := match v.ty.ffmt with
  | some f => pickFloat f wantMax ((s.enabled v).map fun i => s.laneA v i % 2 ^ s.dbits v.ty)
  | none => (pickInt v.ty wantMax ((s.enabled v).map fun i => laneZ v (s.laneA v i)), 0)

theorem vextreme_eq (s : State) (wantMax : Bool) (v : VArgs) : s.vextreme wantMax v =
    s.vgo [v.ty] (s.vall' 8 v (extremeValue s wantMax v).1 (extremeValue s wantMax v).2) := by
  unfold State.vextreme extremeValue
  cases v.ty.ffmt <;> rfl

theorem exec_reduceOp {s : State} {i : Instr} {r : VArgs × Nat × Fl} (h : reduceOp s i = some r) :
    exec i s = s.vgo [r.1.ty] (s.vall' 8 r.1 r.2.1 r.2.2) := by
  unfold exec
  cases i with
  | vrmax v | vrmin v =>
    cases h
    exact vextreme_eq s _ v
  | vargmax v =>
    cases h
    dsimp only
    rw [← nanFlags_lanes]
    rfl
  | _ => cases h

theorem execVrsum_of_int {s : State} {v : VArgs} (h : v.ty.ffmt = none) : execVrsum v s = s.vgo [v.ty]
    (s.vall' 8 v (wrapNat v.ty.width ((s.enabled v).map fun i => laneZ v (s.laneA v i)).sum) 0) := by
  unfold execVrsum
  rw [h, List.sum_eq_foldl]
  rfl

theorem execVrsum_of_float {s : State} {v : VArgs} {f : FFmt} (h : v.ty.ffmt = some f) :
    let r := sumFloat f (drawn s).1 ((s.enabled v).map fun i => f.val (s.laneA v i % 2 ^ s.dbits v.ty))
    execVrsum v s = s.vgo [v.ty] ((seeded s (drawn s).2).vall' 8 v r.1 r.2) := by
  unfold execVrsum
  rw [h, draw1_eq_drawn]

/-! ### The greatest lanes (spec/08 R221) -/

/-- How many lanes `vtopk` selects. -/
def topCount (s : State) (v : VArgs) : Nat := match v.b with
  | .idx n => n.val
  | .scal _ => min (s.amount v) 64

/-- The enabled lanes of A with their values. -/
def topLanes (s : State) (v : VArgs) : List (Nat × FV) := (s.enabled v).map fun i => (i, s.laneVal v.ty (s.laneA v i))

/-- The datum of place j of the selection, the filler beyond its end. -/
def topValue (s : State) (v : VArgs) (j : Nat) : Nat :=
  match (topList (topCount s v) (topLanes s v))[j]?, v.ty.ffmt with
  | some p, some f => if p.2.isNan then f.qnan else s.laneA v p.1 % 2 ^ s.dbits v.ty
  | some p, none => s.laneA v p.1
  | none, some f => f.inf true
  | none, none => negLimit v.ty

/-- The lane number of place j of the selection, all ones beyond its end. -/
def topIndex (s : State) (v : VArgs) (j : Nat) : Nat :=
  ((topList (topCount s v) (topLanes s v))[j]?.map (·.1)).getD 0xFFFFFFFF

/-- The writes of a selection that is not empty. -/
def topState (s : State) (v : VArgs) : State :=
  (s.vput 16 [rowWrite v.d v.ty.width ((List.range (topCount s v)).map fun j => (j, topValue s v j)),
      rowWrite v.c 40 ((List.range (topCount s v)).map fun j => (j, topIndex s v j))]
    (nanFlags ((topLanes s v).map (·.2)))).trkRows (s.rdA v) [v.d.val, v.c.val]

theorem topValue_eq (s : State) (v : VArgs) (j : Nat) : topValue s v j =
    match (topList (topCount s v) (topLanes s v))[j]? with
    | some p => (match v.ty.ffmt with
      | some f => if p.2.isNan then f.qnan else s.laneA v p.1 % 2 ^ s.dbits v.ty
      | none => s.laneA v p.1)
    | none => (match v.ty.ffmt with
      | some f => f.inf true
      | none => negLimit v.ty) := by
  unfold topValue
  cases (topList (topCount s v) (topLanes s v))[j]? <;> cases v.ty.ffmt <;> rfl

theorem topIndex_eq (s : State) (v : VArgs) (j : Nat) : topIndex s v j =
    match (topList (topCount s v) (topLanes s v))[j]? with
    | some p => p.1
    | none => 0xFFFFFFFF := by
  unfold topIndex
  cases (topList (topCount s v) (topLanes s v))[j]? <;> rfl

theorem execVtopk_eq (s : State) (v : VArgs) :
    execVtopk v s = s.vgo [v.ty] (if topCount s v = 0 then s else topState s v) := by
  rw [apply_ite (s.vgo [v.ty])]
  unfold topState
  simp only [topValue_eq, topIndex_eq]
  rfl

theorem execVtopk_of_zero {s : State} {v : VArgs} (h : topCount s v = 0) : execVtopk v s = s.vgo [v.ty] s := by
  rw [execVtopk_eq, if_pos h]

theorem execVtopk_of_ne_zero {s : State} {v : VArgs} (h : topCount s v ≠ 0) : execVtopk v s = s.vgo [v.ty] (topState s v) := by
  rw [execVtopk_eq, if_neg h]

theorem vissues_top (s : State) (v : VArgs) : VIssues s (topState s v) s.core.live.sg 16
    [rowWrite v.d v.ty.width ((List.range (topCount s v)).map fun j => (j, topValue s v j)),
     rowWrite v.c 40 ((List.range (topCount s v)).map fun j => (j, topIndex s v j))]
    (if (topLanes s v).any (fun p => p.2.isSnan) then fNV else 0) := by
  rw [← nanFlags_lanes]
  exact vissues_vput_undrawn s 16 _ _ _ _

/-- Settles O31: the reductions (`exec_reduceOp`), the sum of integers and of floats, and the greatest lanes. -/
theorem vectorReductions : Obligations.VectorReductions := by
  unfold Obligations.VectorReductions
  intro s
  refine ⟨fun i v x f h hf => ?extremes, fun v hf hi => ?intSum, fun v f hf hv => ?floatSum, fun v hf => ?top⟩
  case extremes => exact issues_of_vgo (exec_reduceOp h) hf (vissues_all_undrawn s v x f)
  case intSum => exact issues_of_vgo (execVrsum_of_int hi) hf (vissues_all_undrawn s v _ 0)
  case floatSum => exact issues_of_vgo (execVrsum_of_float hv) hf (vissues_all s _ v _ _)
  case top =>
    refine ⟨fun hk => ⟨s, (execVtopk_of_zero hk).trans (vgo_one_of_valid hf s), rfl⟩, fun hk => ?_⟩
    exact issues_of_vgo (execVtopk_of_ne_zero hk) hf (vissues_top s v)

end Sys2Proof.VectorReduce

/-!
Conversions, block scaling and special functions (O30). Each draws for its lanes and writes them from the state that has drawn; an
equation per instruction says with which lanes and values (`execVcvt_eq`, `execVmx_eq`, `execVunmx_eq`, `vspecial_eq`).
-/
namespace Sys2Proof.VectorConvert
open Machine Laws Claims VectorIssue

/-! ### `vcvt` (spec/08 R215) -/

/-- The enabled lanes of D that a part of the conversion writes. -/
def cvtLanes (s : State) (st : VTy) (v : VArgs) : List Nat :=
  ((cvtMap st.lanes v.ty.lanes v.b.val).filter fun p => (s.enabled v).contains p.1).map (·.1)

/-- The lane of A from which lane i of D is converted. -/
def cvtFrom (st : VTy) (v : VArgs) (i : Nat) : Nat :=
  if st.lanes ≤ v.ty.lanes then i - v.b.val * st.lanes else v.b.val * v.ty.lanes + i

def cvtRounds (st : VTy) (v : VArgs) : Bool := v.ty != .q32 && !(st.isInt && v.ty.isInt)

def cvtResults (s : State) (st : VTy) (v : VArgs) : List (Nat × Nat) × Fl :=
  laneResults s (cvtRounds st v) (cvtLanes s st v) fun i m => s.cvtLane st v.ty m (s.lanesOf (s.vA v) st.width (cvtFrom st v i))

theorem execVcvt_eq {s : State} {v : VArgs} {st : VTy} (h : vcvtSrc v.c.val = some st) :
    execVcvt v s = s.vgo [v.ty, st] (((seeded s (outputs s (cvtRounds st v) (cvtLanes s st v).length).2).vput 4
      [rowWrite v.d v.ty.width (cvtResults s st v).1] (cvtResults s st v).2).trkRows (s.rdA v) [v.d.val]) := by
  have hk : (if st.lanes ≤ v.ty.lanes then fun i => i - v.b.val * st.lanes else fun i => v.b.val * v.ty.lanes + i) =
      cvtFrom st v := by
    funext i
    unfold cvtFrom
    split <;> rfl
  unfold execVcvt
  rw [h]
  dsimp only
  rw [hk, work_eq]
  rfl

/-! ### `vmx` (spec/08 R216) -/

/-- Lane i of A as a value of the source format. -/
def mxValue (s : State) (v : VArgs) (i : Nat) : FV :=
  (vmxFmt v.b.val).val (s.lanesOf (s.vA v) (10240 / vmxLanes v.b.val) i % (2 * (vmxFmt v.b.val).signBit))

def mxBlock (s : State) (v : VArgs) (j : Nat) : List FV := (List.range 16).map fun k => mxValue s v (16 * j + k)

/-- The lanes of D that a part of the scaling writes. -/
def mxLanes (v : VArgs) : List Nat := (List.range (vmxLanes v.b.val)).map (v.b.val % 4 * vmxLanes v.b.val + ·)

/-- The code of lane i of D, NV where its block has no scale. -/
def mxLane (s : State) (n : Fin 8) (v : VArgs) (i : Nat) (m : Rnd) : Nat × Fl :=
  let j := i - v.b.val % 4 * vmxLanes v.b.val
  match mxScale (s.nfmt n) (mxBlock s v (j / 16)) with
  | none => (0, fNV)
  | some k => mxCode (s.nfmt n) m ((mxBlock s v (j / 16)).all FV.isZero) k (mxValue s v j)

/-- The scale bytes of a part, by their lanes of C. -/
def mxScales (s : State) (n : Fin 8) (v : VArgs) : List (Nat × Nat) :=
  (List.range (vmxLanes v.b.val / 16)).map fun j =>
    (v.b.val % 4 * (vmxLanes v.b.val / 16) + j, (mxScale (s.nfmt n) (mxBlock s v j)).getD 255)

/-- Every lane of a part stands in one of its blocks. -/
theorem block_lt_of_mem_mxLanes {v : VArgs} {i : Nat} (h : i ∈ mxLanes v) :
    (i - v.b.val % 4 * vmxLanes v.b.val) / 16 < vmxLanes v.b.val / 16 := by
  obtain ⟨j, hj, rfl⟩ := List.mem_map.1 h
  have hj : j < vmxLanes v.b.val := List.mem_range.1 hj
  have hl : vmxLanes v.b.val = 256 ∨ vmxLanes v.b.val = 512 := by
    unfold vmxLanes
    split <;> simp
  rw [Nat.add_sub_cancel_left]
  omega

/-- What a table of the first n values gives at a place below n. -/
theorem getElem?_map_range {α : Type} (g : Nat → α) {n j : Nat} (h : j < n) : ((List.range n).map g)[j]? = some (g j) := by
  rw [List.getElem?_map, List.getElem?_range h, Option.map_some]

theorem execVmx_eq {s : State} {v : VArgs} {n : Fin 8} (h : v.ty = .fm n) :
    let p := laneResults s true (mxLanes v) (mxLane s n v)
    execVmx v s = s.vgo [v.ty] (((seeded s (outputs s true (mxLanes v).length).2).vput 4
      [rowWrite v.d 10 p.1, rowWrite v.c 10 (mxScales s n v)] p.2).trkRows (s.rdA v) [v.d.val, v.c.val]) := by
  intro p
  unfold execVmx
  rw [h]
  dsimp only
  rw [work_eq, ← List.map_prod_left_eq_zip, List.map_map, laneResults_congr (g := mxLane s n v)]
  · rfl
  · intro i hi
    funext m
    have hb := block_lt_of_mem_mxLanes hi
    rw [getElem?_map_range _ hb, getElem?_map_range _ hb]
    rfl

/-! ### `vunmx` (spec/08 R217) -/

def unmxFmt (v : VArgs) : Fin 8 := ⟨v.b.val / 4 % 8, Nat.mod_lt _ (by decide)⟩

def unmxResults (s : State) (f : FFmt) (v : VArgs) : List (Nat × Nat) × Fl :=
  laneResults s true (List.range v.ty.lanes) fun i m =>
    unmxLane f (s.nfmt (unmxFmt v)) m
      (s.lanesOf (s.vA v) 10 (v.b.val % 4 * v.ty.lanes + i) % 2 ^ (s.nfmt (unmxFmt v)).width)
      (s.lanesOf v.c 10 (v.b.val % 4 * v.ty.lanes / 16 + i / 16) % 256)

theorem execVunmx_eq {s : State} {v : VArgs} {f : FFmt} (h : v.ty.ffmt = some f) :
    execVunmx v s = s.vgo [.fm (unmxFmt v)] (((seeded s (outputs s true v.ty.lanes).2).vput 4
      [rowWrite v.d v.ty.width (unmxResults s f v).1] (unmxResults s f v).2).trkRows (s.rdA v ++ [v.c.val]) [v.d.val]) := by
  unfold execVunmx
  rw [h]
  dsimp only
  rw [work_eq, List.length_range]
  rfl

/-! ### Special functions (spec/08 R218) -/

theorem vspecial_eq {s : State} {v : VArgs} {f : FFmt} (k : Nat) (h : v.ty.ffmt = some f) :
    s.vspecial k v = .next (s.vlanes 10 v (f.fb != 23) (s.rdA v)
      fun i m => specialLane k f m (s.laneA v i % 2 ^ s.dbits v.ty)) := by
  unfold State.vspecial
  rw [h]

theorem exec_specialOp {i : Instr} {r : Nat × VArgs} (h : specialOp i = some r) (s : State) :
    exec i s = s.vspecial r.1 r.2 := by
  unfold exec
  cases i with
  | vrcp v | vrsq v | vsqrt v | vexp2 v | vlog2 v | vtanh v | vsigm v =>
    cases h
    rfl
  | _ => cases h

/-- Settles O30: an equation per instruction, and what it leaves in flight (`vissues_vput`, `vissues_vlanes`). -/
theorem vectorConversions : Obligations.VectorConversions := by
  unfold Obligations.VectorConversions
  intro s v
  refine ⟨fun st hs hd hst => ?cvt, fun n hv hf => ?mx, fun f hv hf => ?unmx, fun i k f hi hv => ?special⟩
  case cvt =>
    have hts : ∀ t ∈ [v.ty, st], s.fmOk t = true := by simp [hd, hst]
    exact ⟨_, (execVcvt_eq hs).trans (vgo_of_valid hts _), vissues_vput s _ 4 _ _ _ _⟩
  case mx => exact issues_of_vgo (execVmx_eq hv) hf (vissues_vput s _ 4 _ _ _ _)
  case unmx => exact issues_of_vgo (execVunmx_eq hv) hf (vissues_vput s _ 4 _ _ _ _)
  case special => exact ⟨_, (exec_specialOp hi s).trans (vspecial_eq k hv), vissues_vlanes s 10 v _ _ _⟩

end Sys2Proof.VectorConvert

/-!
Bits, compares and the trap of an invalid format register (O32). The bit operations are one shape, `vbits`, on the table's lane
function (`exec_bitsOp`), the compares another (`vcmp_eq`). An invalid format traps by the check that the equations of all the
operations show (`exec_typedOp_of_invalid`).
-/
namespace Sys2Proof.VectorBitwise
open Machine Laws Claims VectorIssue VectorReduce VectorConvert

/-! ### Bits moved -/

/-- Lane i of D, cut to the datum. -/
def bitLanes (s : State) (v : VArgs) (f : Nat → Nat) : List (Nat × Nat) :=
  (s.enabled v).map fun i => (i, f i % 2 ^ s.dbits v.ty)

theorem vissues_bits (s : State) (v : VArgs) (rd : List Nat) (f : Nat → Nat) :
    VIssues s (s.vlanes 2 v false rd fun i _ => (f i % 2 ^ s.dbits v.ty, 0)) s.core.live.sg 2
      [rowWrite v.d v.ty.width (bitLanes s v f)] 0 := by
  have h := vissues_vlanes s 2 v false rd fun i _ => (f i % 2 ^ s.dbits v.ty, 0)
  rwa [outputs_false, laneResults, mapLanes_flagless] at h

theorem vbits_congr (s : State) (v : VArgs) (rd : List Nat) {f g : Nat → Nat} (h : ∀ i, f i = g i) :
    s.vbits v rd f = s.vbits v rd g := congrArg _ (funext h)

theorem exec_bitsOp {s : State} {i : Instr} {r : VArgs × (Nat → Nat)} (h : bitsOp s i = some r) :
    ∃ rd, exec i s = s.vbits r.1 rd r.2 := by
  unfold exec
  cases i with
  | vand v | vor v | vxor v | vnot v | vsar v | vsel v | vperm v | vrot v | vbcast v =>
    cases h
    exact ⟨_, rfl⟩
  | vshl v =>
    cases h
    exact ⟨_, vbits_congr s v _ fun i => Nat.shiftLeft_eq _ _⟩
  | vshr v =>
    cases h
    exact ⟨_, vbits_congr s v _ fun i => Nat.shiftRight_eq_div_pow _ _⟩
  | vmov v =>
    cases h
    cases hb : v.b with
    | scal r => exact ⟨[], by simp only [execVmov, hb]⟩
    | idx n => exact ⟨s.rdA v, by simp only [execVmov, hb]⟩
  | _ => cases h

theorem vectorBits : VectorBits := by
  unfold VectorBits
  intro s i r h hf
  obtain ⟨rd, hx⟩ := exec_bitsOp h
  exact issues_of_vgo hx hf (vissues_bits s r.1 rd r.2)

/-! ### Compares -/

/-- The write of a compare: all of D, the condition of lane i at bit i. -/
def maskWrite (v : VArgs) (ls : List (Nat × Nat)) : LWrite :=
  .row v.d v.ty.width (BitVec.allOnes 10240) (BitVec.ofNat 10240 (packAt 1 ls))

section
variable (s : State) {v : VArgs} (quiet : Bool) (fi : Int → Int → Bool) (ff : FV → FV → Bool)

theorem compareLane_of_float {f : FFmt} (h : v.ty.ffmt = some f) (i : Nat) : compareLane s v quiet fi ff i =
    let x := f.val (s.laneA v i % 2 ^ s.dbits v.ty)
    let y := f.val (s.laneB v i % 2 ^ s.dbits v.ty)
    ((ff x y).toNat, flIf (if quiet then x.isSnan || y.isSnan else x.isNan || y.isNan) fNV) := by
  simp only [compareLane, h, flIf, Bool.toNat, Bool.cond_eq_ite]

theorem compareLane_of_int (h : v.ty.ffmt = none) (i : Nat) : compareLane s v quiet fi ff i =
    ((fi (laneInt v.ty (s.laneA v i)) (laneInt v.ty (s.laneB v i))).toNat, 0) := by
  unfold compareLane
  rw [h]
  exact congrArg (·, (0 : Fl)) (Bool.cond_eq_ite _ _ _).symm

theorem vcmp_eq (v : VArgs) :
    let val := compareLane s v quiet fi ff
    s.vcmp v quiet fi ff = s.vgo [v.ty] ((s.vput 2 [maskWrite v ((s.enabled v).map fun i => (i, (val i).1))]
      ((s.enabled v).foldr (fun i f => (val i).2 ||| f) 0)).trkRows (s.rdA v ++ rdB v) [v.d.val]) := by
  unfold State.vcmp
  cases h : v.ty.ffmt with
  | some f => simp only [compareLane_of_float s quiet fi ff h, mapLanes_exact, maskWrite]
  | none => simp only [compareLane_of_int s quiet fi ff h, mapLanes_exact, maskWrite]

end

theorem exec_compareOp {i : Instr} {v : VArgs} {quiet : Bool} {fi : Int → Int → Bool} {ff : FV → FV → Bool}
    (h : compareOp i = some (v, quiet, fi, ff)) (s : State) : exec i s = s.vcmp v quiet fi ff := by
  unfold exec
  cases i with
  | vceq v | vclt v | vcle v =>
    cases h
    rfl
  | _ => cases h

theorem vectorCompares : VectorCompares := by
  unfold VectorCompares
  intro s i v quiet fi ff h hf
  exact issues_of_vgo ((exec_compareOp h s).trans (vcmp_eq s quiet fi ff v)) hf (vissues_vput_undrawn s 2 _ _ _ _)

/-! ### Invalid format registers -/

section
variable {s : State} {v : VArgs}

theorem execVcvt_of_invalid_source {st : VTy} (hs : vcvtSrc v.c.val = some st) (h : s.fmOk st = false) :
    execVcvt v s = .next (s.trap 0x02) :=
  (execVcvt_eq hs).trans (vgo_of_invalid (List.mem_cons_of_mem _ List.mem_cons_self) h _)

theorem execVunmx_of_invalid (h : s.fmOk (.fm (unmxFmt v)) = false) : execVunmx v s = .next (s.trap 0x02) := by
  cases hf : v.ty.ffmt with
  | some f => exact (execVunmx_eq hf).trans (vgo_of_invalid List.mem_cons_self h _)
  | none => simp only [execVunmx, hf]

theorem execVcvt_of_invalid (h : s.fmOk v.ty = false) : execVcvt v s = .next (s.trap 0x02) := by
  cases hs : vcvtSrc v.c.val with
  | some st => exact (execVcvt_eq hs).trans (vgo_of_invalid List.mem_cons_self h _)
  | none => simp only [execVcvt, hs]

/-- Only a type that names a format register can be invalid. -/
theorem type_of_invalid {t : VTy} (h : s.fmOk t = false) : ∃ n, t = .fm n := by
  cases t with
  | fm n => exact ⟨n, rfl⟩
  | _ => cases h

theorem execVmx_of_invalid (h : s.fmOk v.ty = false) : execVmx v s = .next (s.trap 0x02) := by
  obtain ⟨n, hn⟩ := type_of_invalid h
  exact (execVmx_eq hn).trans (vgo_of_invalid List.mem_cons_self h _)

theorem execVrsum_of_invalid (h : s.fmOk v.ty = false) : execVrsum v s = .next (s.trap 0x02) := by
  obtain ⟨n, hn⟩ := type_of_invalid h
  exact (execVrsum_of_int (by rw [hn]; rfl)).trans (vgo_of_invalid List.mem_cons_self h _)

theorem exec_bitsOp_of_invalid {i : Instr} {r : VArgs × (Nat → Nat)} (h : bitsOp s i = some r) (hf : s.fmOk r.1.ty = false) :
    exec i s = .next (s.trap 0x02) := by
  obtain ⟨rd, hx⟩ := exec_bitsOp h
  exact hx.trans (vgo_of_invalid List.mem_cons_self hf _)

theorem exec_reduceOp_of_invalid {i : Instr} {r : VArgs × Nat × Fl} (h : reduceOp s i = some r) (hf : s.fmOk r.1.ty = false) :
    exec i s = .next (s.trap 0x02) := (exec_reduceOp h).trans (vgo_of_invalid List.mem_cons_self hf _)

theorem exec_typedOp_of_invalid {i : Instr} (h : typedOp i = some v) (hf : s.fmOk v.ty = false) :
    exec i s = .next (s.trap 0x02) := by
  cases i with
  | vmov _ | vand _ | vor _ | vxor _ | vnot _ | vshl _ | vshr _ | vsar _ | vsel _ | vperm _ | vrot _ | vbcast _ =>
    cases h
    exact exec_bitsOp_of_invalid rfl hf
  | vrmax _ | vrmin _ | vargmax _ =>
    cases h
    exact exec_reduceOp_of_invalid rfl hf
  | vceq _ | vclt _ | vcle _ | vext _ | vins _ | vany _ | vall _ =>
    cases h
    exact vgo_of_invalid List.mem_cons_self hf _
  | vcvt _ =>
    cases h
    exact execVcvt_of_invalid hf
  | vmx _ =>
    cases h
    exact execVmx_of_invalid hf
  | vrsum _ =>
    cases h
    exact execVrsum_of_invalid hf
  | vtopk _ =>
    cases h
    exact (execVtopk_eq s v).trans (vgo_of_invalid List.mem_cons_self hf _)
  | _ => cases h

end

theorem invalidFormatsTrap : InvalidFormatsTrap := by
  unfold InvalidFormatsTrap
  intro s i v ht h
  have hx : exec i s = .next (s.trap 0x02) := by
    rcases h with ⟨hi, hf⟩ | ⟨rfl, st, hs, hf⟩ | ⟨rfl, hf⟩
    · exact exec_typedOp_of_invalid hi hf
    · exact execVcvt_of_invalid_source hs hf
    · exact execVunmx_of_invalid hf
  exact ⟨_, hx, illop_taken ht⟩

/-- Settles O32: bits moved, compares, and the trap of an invalid format register. -/
theorem vectorBitsAndCompares : Obligations.VectorBitsAndCompares := by
  unfold Obligations.VectorBitsAndCompares
  exact ⟨vectorBits, vectorCompares, invalidFormatsTrap⟩

end Sys2Proof.VectorBitwise

/-!
Row writes and the exchange of rows and scalars (O33). `testBit_packAt` says which bits a pack of lanes sets; a bit of the new row
then comes from the lane in which it stands, or from the old row (`getLsbD_merged_of_mem`,
`getLsbD_merged_of_forall`).
-/
namespace Sys2Proof.VectorRows
open Machine Laws Claims VectorIssue

/-! ### Bits of a pack of lanes -/

/-- Bit k of a row stands in lane i of the view of width w. -/
def InLane (w i k : Nat) : Prop := w * i ≤ k ∧ k < w * (i + 1)

theorem inLane_add {w j : Nat} (i : Nat) (h : j < w) : InLane w i (w * i + j) :=
  ⟨Nat.le_add_right _ _, by rw [Nat.mul_succ]; omega⟩

theorem InLane.le {w i j k : Nat} (hi : InLane w i k) (hj : InLane w j k) : i ≤ j :=
  Nat.le_of_lt_succ (Nat.lt_of_mul_lt_mul_left (Nat.lt_of_le_of_lt hi.1 hj.2))

/-- Lanes do not overlap. -/
theorem InLane.unique {w i j k : Nat} (hi : InLane w i k) (hj : InLane w j k) : i = j := Nat.le_antisymm (hi.le hj) (hj.le hi)

/-- A value shifted to its lane. -/
theorem testBit_lane (w i x k : Nat) :
    ((x % 2 ^ w) <<< (w * i)).testBit k = true ↔ InLane w i k ∧ x.testBit (k - w * i) = true := by
  rw [Nat.testBit_shiftLeft, Nat.testBit_mod_two_pow, InLane, Nat.mul_succ]
  simp only [Bool.and_eq_true, decide_eq_true_eq]
  constructor
  · rintro ⟨hle, hlt, hx⟩
    exact ⟨⟨hle, by omega⟩, hx⟩
  · rintro ⟨⟨hle, hlt⟩, hx⟩
    exact ⟨hle, by omega, hx⟩

theorem testBit_packAt_from (w k : Nat) (ls : List (Nat × Nat)) (a : Nat) :
    (ls.foldl (fun a p => a ||| ((p.2 % 2 ^ w) <<< (w * p.1))) a).testBit k = true ↔
      a.testBit k = true ∨ ∃ p ∈ ls, InLane w p.1 k ∧ p.2.testBit (k - w * p.1) = true := by
  induction ls generalizing a with
  | nil => simp
  | cons p ps ih =>
    rw [List.foldl_cons, ih, Nat.testBit_or, Bool.or_eq_true, testBit_lane, or_assoc]
    simp only [List.mem_cons, exists_eq_or_imp]

theorem testBit_packAt (w k : Nat) (ls : List (Nat × Nat)) :
    (packAt w ls).testBit k = true ↔ ∃ p ∈ ls, InLane w p.1 k ∧ p.2.testBit (k - w * p.1) = true := by
  unfold packAt
  rw [testBit_packAt_from]
  simp

/-! ### The merge of a row write -/

/-- The bits that a write of some lanes enables. -/
def laneBits (w : Nat) (ls : List (Nat × Nat)) : Row := BitVec.ofNat 10240 (packAt w (ls.map fun p => (p.1, 2 ^ w - 1)))

/-- The values that it gives them. -/
def laneData (w : Nat) (ls : List (Nat × Nat)) : Row := BitVec.ofNat 10240 (packAt w ls)

theorem rowWrite_eq (n : Fin 512) (w : Nat) (ls : List (Nat × Nat)) :
    rowWrite n w ls = .row n w (laneBits w ls) (laneData w ls) := rfl

/-- A row after a write of some lanes. -/
def merged (old : Row) (w : Nat) (ls : List (Nat × Nat)) : Row :=
  (old &&& ~~~laneBits w ls) ||| (laneData w ls &&& laneBits w ls)

section
variable {w k : Nat} {ls : List (Nat × Nat)}

theorem getLsbD_laneBits (hk : k < 10240) : (laneBits w ls).getLsbD k = true ↔ ∃ p ∈ ls, InLane w p.1 k := by
  unfold laneBits
  rw [BitVec.getLsbD_ofNat, decide_eq_true hk, Bool.true_and, testBit_packAt]
  constructor
  · rintro ⟨q, hq, hin, -⟩
    obtain ⟨p, hp, rfl⟩ := List.mem_map.1 hq
    exact ⟨p, hp, hin⟩
  · rintro ⟨p, hp, hin⟩
    refine ⟨_, List.mem_map_of_mem hp, hin, ?_⟩
    obtain ⟨hle, hlt⟩ := hin
    rw [Nat.mul_succ] at hlt
    rw [Nat.testBit_two_pow_sub_one]
    exact decide_eq_true (Nat.sub_lt_left_of_lt_add hle hlt)

theorem getLsbD_laneData (hk : k < 10240) :
    (laneData w ls).getLsbD k = true ↔ ∃ p ∈ ls, InLane w p.1 k ∧ p.2.testBit (k - w * p.1) = true := by
  unfold laneData
  rw [BitVec.getLsbD_ofNat, decide_eq_true hk, Bool.true_and, testBit_packAt]

theorem getLsbD_merged (old : Row) (hk : k < 10240) : (merged old w ls).getLsbD k =
    if (laneBits w ls).getLsbD k = true then (laneData w ls).getLsbD k else old.getLsbD k := by
  unfold merged
  rw [BitVec.getLsbD_or, BitVec.getLsbD_and, BitVec.getLsbD_and, BitVec.getLsbD_not, decide_eq_true hk]
  cases (laneBits w ls).getLsbD k <;> simp

/-- A bit of no lane written is that of the old row. -/
theorem getLsbD_merged_of_forall (old : Row) (hk : k < 10240) (h : ∀ p ∈ ls, ¬InLane w p.1 k) :
    (merged old w ls).getLsbD k = old.getLsbD k := by
  rw [getLsbD_merged old hk, if_neg]
  rw [getLsbD_laneBits hk]
  rintro ⟨p, hp, hin⟩
  exact h p hp hin

/-- Of lanes with different numbers each is found by its number. -/
theorem eq_of_lane_eq (hls : (ls.map (·.1)).Nodup) {p q : Nat × Nat} (hp : p ∈ ls) (hq : q ∈ ls) (h : p.1 = q.1) : p = q := by
  induction ls with
  | nil => exact absurd hp List.not_mem_nil
  | cons a as ih =>
    obtain ⟨hn, has⟩ := List.nodup_cons.1 hls
    rcases List.mem_cons.1 hp with rfl | hpt <;> rcases List.mem_cons.1 hq with rfl | hqt
    · rfl
    · exact absurd (List.mem_map.2 ⟨q, hqt, h.symm⟩) hn
    · exact absurd (List.mem_map.2 ⟨p, hpt, h⟩) hn
    · exact ih has hpt hqt

/-- A bit of a lane written is that of the value given. -/
theorem getLsbD_merged_of_mem (old : Row) (hk : k < 10240) (hls : (ls.map (·.1)).Nodup) {p : Nat × Nat} (hp : p ∈ ls)
    (hin : InLane w p.1 k) : (merged old w ls).getLsbD k = p.2.testBit (k - w * p.1) := by
  rw [getLsbD_merged old hk, if_pos ((getLsbD_laneBits hk).2 ⟨p, hp, hin⟩), Bool.eq_iff_iff, getLsbD_laneData hk]
  constructor
  · rintro ⟨q, hq, hqin, hx⟩
    rwa [eq_of_lane_eq hls hp hq (hin.unique hqin)]
  · exact fun hx => ⟨p, hp, hin, hx⟩

end

/-- A lane is the number whose bits stand in it. -/
theorem laneOf_eq_of_bits {r : Row} {w i x : Nat} (hx : x < 2 ^ w) (h : ∀ j < w, r.getLsbD (w * i + j) = x.testBit j) :
    laneOf r w i = x := by
  apply Nat.eq_of_testBit_eq
  intro j
  unfold laneOf
  rw [Nat.testBit_mod_two_pow, Nat.testBit_shiftRight]
  by_cases hj : j < w
  · rw [decide_eq_true hj, Bool.true_and]
    exact h j hj
  · rw [decide_eq_false hj, Bool.false_and]
    exact (Nat.testBit_lt_two_pow (Nat.lt_of_lt_of_le hx (Nat.pow_le_pow_right Nat.two_pos (Nat.le_of_not_lt hj)))).symm

theorem laneOf_merged (old : Row) {w : Nat} {ls : List (Nat × Nat)} (hls : (ls.map (·.1)).Nodup) {p : Nat × Nat} (hp : p ∈ ls)
    (hx : p.2 < 2 ^ w) (hw : w * (p.1 + 1) ≤ 10240) : laneOf (merged old w ls) w p.1 = p.2 := by
  refine laneOf_eq_of_bits hx fun j hj => ?_
  have hin := inLane_add p.1 hj
  rw [getLsbD_merged_of_mem old (Nat.lt_of_lt_of_le hin.2 hw) hls hp hin, Nat.add_sub_cancel_left]

theorem rowWritesKeepOtherLanes : RowWritesKeepOtherLanes := by
  unfold RowWritesKeepOtherLanes
  intro n w ls old _ hfit hls
  refine ⟨_, _, rowWrite_eq n w ls, fun p hp => ?_, fun k hk h => getLsbD_merged_of_forall old hk h⟩
  obtain ⟨hx, hw⟩ := hfit p hp
  exact laneOf_merged old hls hp hx hw

/-! ### Rows and scalars -/

theorem execVext_eq (s : State) (v : VArgs) :
    let x := s.laneA v (s.amount v % v.ty.lanes)
    execVext v s = s.vgo [v.ty] ((s.expose 2 [.x (physX s.core.live (vXreg v.d))
      (if v.ty.isInt then i64 (laneZ v x) else w64 (x % 2 ^ s.dbits v.ty))]).trkRows (s.rdA v) []) := rfl

theorem execVins_eq {s : State} {v : VArgs} {n : Fin 512} {r : Src} (ha : v.a = .row n) (hr : Src.ofCode n.val = some r) :
    let k := (s.src s.core.iss.slot r).toNat % v.ty.lanes
    execVins v s = s.vgo [v.ty] ((s.vput 2
      [rowWrite v.d v.ty.width (if (s.enabled v).contains k then [(k, s.laneB v k)] else [])] 0).trkRows [] [v.d.val]) := by
  unfold execVins
  rw [ha]
  dsimp only
  rw [hr]

theorem vcond_issues {s : State} {v : VArgs} (f : List Nat → (Nat → Bool) → Bool) (hf : s.fmOk v.ty = true) :
    ∃ t, s.vcond v f = .next t ∧
      VIssues s t s.core.live.sg 8 (pairWrites s (vPair v.d) (f (s.enabled v) (s.vrow (s.vA v) 1).getLsbD)) 0 :=
  issues_of_vgo rfl hf (vissues_expose_undrawn s 8 _ _ _)

theorem vectorScalarExchange : VectorScalarExchange := by
  unfold VectorScalarExchange
  intro s v hf
  refine ⟨?ext, fun n r ha hr => ?ins, vcond_issues _ hf, vcond_issues _ hf⟩
  case ext => exact issues_of_vgo (execVext_eq s v) hf (vissues_expose_undrawn s 2 _ _ _)
  case ins => exact issues_of_vgo (execVins_eq ha hr) hf (vissues_vput_undrawn s 2 _ 0 _ _)

/-- Settles O33: the exchange with scalars, and the bits of a row after a write of some lanes. -/
theorem vectorRowsAndScalars : Obligations.VectorRowsAndScalars := by
  unfold Obligations.VectorRowsAndScalars
  exact ⟨vectorScalarExchange, rowWritesKeepOtherLanes⟩

end Sys2Proof.VectorRows

/-!
Starts of the copy engines (O36). Every start is `State.cStart` from a state whose port holds its whole A operand
(`exec_copyStart`). Copying the set leaves that state at `starting` (`cSetUp_withPort`); what follows the check only records the
copy, what it touches and its entries (`recorded`, `enterAll_eq`).
-/
namespace Sys2Proof.CopyStarting
open Machine Laws Claims

/-! ### Ports and registers of a C slot -/

theorem unit_eq (c : Core) : c.unit = if c.iss.slot = .c1 ∨ c.iss.slot = .v1 then 1 else 0 := by
  unfold Core.unit
  cases c.iss.slot <;> rfl

theorem copyMask_eq_copyFields (er : Fin 9) : copyMask er.val = copyFields er := by
  revert er
  decide

theorem vset_eq_set {n : Nat} (v : Vector Word n) (i : Fin n) (x : Word) : vset v i.val x = v.set i x := by
  ext j hj
  simp only [vset, Vector.getElem_setIfInBounds, Vector.getElem_set]

/-- The slot's port takes an A operand that is read; nothing else changes. -/
theorem loadC_eq (s : State) (a : Src) : s.loadC a =
    { s with core := { s.core with live := { s.core.live with portC := portCAfter s a } } } := by
  unfold State.loadC portCAfter cUnit
  simp only [unit_eq]
  split <;> rfl

/-! ### The set of a start -/

/-- A start with a whole A operand loads it before all else. -/
def withPort (s : State) (r : CopyStart) : State :=
  match r.a with
  | some a => s.loadC a
  | none => s

/-- What `cfill` and `bgo` keep of their A operand. -/
def startPat (s : State) (r : CopyStart) : Word :=
  match r.a with
  | some a => s.src s.core.iss.slot a
  | none => 0

/-- The state once a start has copied its set. -/
def starting (s : State) (r : CopyStart) : State := { s with core := { s.core with live := afterCopyStart s r } }

theorem cSetUp_withPort {s : State} {r : CopyStart} (ha : s.core.iss.again = false) (hw : r.w = none ∨ r.a = none) :
    (withPort s r).cSetUp r.w = starting s r := by
  obtain ⟨op, tok, w, a, flag, thr⟩ := r
  unfold State.cSetUp withPort starting afterCopyStart copySet
  cases w with
  | none => cases a <;> simp [ha, loadC_eq, Core.shadowC, unit_eq, cUnit]
  | some p =>
    obtain rfl : a = none := hw.resolve_left nofun
    simp [ha, loadC_eq, Core.shadowC, State.cPutReg, unit_eq, cUnit, vset_eq_set, copyMask_eq_copyFields]

theorem activeC_starting (s : State) (r : CopyStart) : (starting s r).core.activeC = copySet s r := by
  simp [Core.activeC, unit_eq, starting, afterCopyStart, cUnit]

theorem cCheck_starting {s : State} {r : CopyStart} (ha : s.core.iss.again = false) :
    (starting s r).cCheck r.op r.tok = cRefused r.op r.tok.val (copySet s r) := by
  unfold State.cCheck
  rw [activeC_starting]
  simp [starting, ha]

/-! ### The answer of a start -/

/-- The record of a copy that a start makes. -/
def startedCopy (s : State) (r : CopyStart) : Copy := (starting s r).newCopy r.op r.tok (startPat s r) r.flag r.thr

/-- The state with the copy on record and what it touches noted, its entries still to be placed. -/
def recorded (s : State) (r : CopyStart) : State :=
  let u := starting s r
  let x := startedCopy s r
  let tr := u.cTouches x
  { u with core := { u.core with copies := u.core.copies ++ [x], nid := u.core.nid + 1 }
           nextId := u.nextId + 1 }.trkBytes tr.1 tr.2

theorem trkBytes_eq (s : State) (srcs dsts : List (Nat × Nat)) :
    s.trkBytes srcs dsts = { s with core := { s.core with trk := (s.trkBytes srcs dsts).core.trk } } := by
  unfold State.trkBytes State.trkSets
  split <;> rfl

theorem recorded_eq (s : State) (r : CopyStart) : recorded s r = { s with
    nextId := s.nextId + 1
    core := { s.core with live := afterCopyStart s r, copies := s.core.copies ++ [startedCopy s r], nid := s.core.nid + 1
                          trk := (recorded s r).core.trk } } := trkBytes_eq ..

theorem cStart_of_refused {s : State} {r : CopyStart} (ha : s.core.iss.again = false) (hw : r.w = none ∨ r.a = none)
    (h : cRefused r.op r.tok.val (copySet s r) = true) :
    (withPort s r).cStart r.op r.tok r.w (startPat s r) r.flag r.thr = .next ((withPort s r).trap 0x02) := by
  unfold State.cStart
  rw [cSetUp_withPort ha hw]
  exact if_pos ((cCheck_starting ha).trans h)

theorem startedCopy_land (s : State) (r : CopyStart) : (startedCopy s r).land =
    if (copySet s r)[5].getLsbD 31 then some false else none := by
  simp [startedCopy, State.newCopy, activeC_starting, vget]

theorem startEntries_eq (s : State) (r : CopyStart) : startEntries s r =
    armEntry (startedCopy s r).id r.op ++ if (startedCopy s r).land.isSome then [.land (startedCopy s r).id] else [] := by
  rw [startedCopy_land]
  unfold startEntries
  split <;> rfl

theorem cStart_of_accepted {s : State} {r : CopyStart} (ha : s.core.iss.again = false) (hw : r.w = none ∨ r.a = none)
    (h : cRefused r.op r.tok.val (copySet s r) = false) :
    (withPort s r).cStart r.op r.tok r.w (startPat s r) r.flag r.thr = .next ((recorded s r).enterAll (startEntries s r)) := by
  unfold State.cStart
  rw [cSetUp_withPort ha hw, startEntries_eq]
  exact if_neg (Bool.not_eq_true _ ▸ (cCheck_starting ha).trans h)

/-- Every explicit start is `cStart`. -/
theorem exec_copyStart {s : State} {i : Instr} {r : CopyStart} (h : copyStart i = some r) (ha : s.core.iss.again = false) :
    (r.w = none ∨ r.a = none) ∧
      exec i s = (withPort s r).cStart r.op r.tok r.w (startPat s r) r.flag r.thr := by
  unfold exec
  cases i with
  | cgo t w | cgath t w | cscat t w | cbcast t w | cdx t w | cpfd t w | cmred t w | ckvc t w | cnet t w =>
    cases h
    exact ⟨.inr rfl, rfl⟩
  | cfill t a | bgo t a =>
    cases h
    exact ⟨.inl rfl, rfl⟩
  | carm t f n =>
    cases h
    refine ⟨.inl rfl, ?_⟩
    change execCarm t f n s = _
    unfold execCarm
    rw [ha]
    rfl
  | _ => cases h

/-! ### Its entries and its traps -/

theorem enterAll_of_room {s : State} {es : List WEntry} (h : s.core.whb.length + es.length ≤ 256) :
    s.enterAll es = { s with core := { s.core with whb := s.core.whb ++ es } } :=
  if_neg (Nat.not_lt.2 h)

theorem enterAll_of_full {s : State} {es : List WEntry} (h : 256 < s.core.whb.length + es.length) :
    s.enterAll es = s.trap 0x06 6 :=
  if_pos h

/-- Up to its entries a start has changed nothing else. -/
def UpToStart (s u : State) : Prop :=
  ∃ n live copies k trk, u = { s with
    nextId := n, core := { s.core with live := live, copies := copies, nid := k, trk := trk } }

theorem upToStart_withPort (s : State) (r : CopyStart) : UpToStart s (withPort s r) := by
  unfold withPort
  split
  · exact ⟨_, _, _, _, _, loadC_eq ..⟩
  · exact ⟨_, _, _, _, _, rfl⟩

theorem upToStart_recorded (s : State) (r : CopyStart) : UpToStart s (recorded s r) := ⟨_, _, _, _, _, recorded_eq s r⟩

/-- What a start has changed is discarded as the handler is entered, or is not part of the trap's record. -/
theorem trap_taken_upToStart {s u : State} (hu : UpToStart s u) (h : s.CanTrap) (cause detail : Nat) :
    TrapTaken s (u.trap cause detail) cause (detail % 2 ^ 32) s.core.iss.slot.num s.core.iss.pcb 0 s.core.ckpt := by
  obtain ⟨n, live, copies, k, trk, rfl⟩ := hu
  obtain ⟨handler, vector, status, resumes, mode, record, bundle, address, point, time, state, buffer, bytes⟩ :=
    trap_taken { s with nextId := n, core := { s.core with live := live, copies := copies, nid := k, trk := trk } } cause detail 0 h
  exact ⟨handler, vector, status, resumes, mode, record, bundle, address, point, time, state, buffer, bytes⟩

/-- The state that a start answers. -/
def started (s : State) (r : CopyStart) : State := { s with
  nextId := s.nextId + 1
  core := { s.core with live := afterCopyStart s r, copies := s.core.copies ++ [startedCopy s r], nid := s.core.nid + 1
                        whb := s.core.whb ++ startEntries s r, trk := (recorded s r).core.trk } }

theorem enterAll_recorded_of_room {s : State} {r : CopyStart} (h : s.core.whb.length + (startEntries s r).length ≤ 256) :
    (recorded s r).enterAll (startEntries s r) = started s r := by
  rw [recorded_eq]
  exact enterAll_of_room h

theorem enterAll_recorded_of_full {s : State} {r : CopyStart} (h : 256 < s.core.whb.length + (startEntries s r).length) :
    (recorded s r).enterAll (startEntries s r) = (recorded s r).trap 0x06 6 := by
  refine enterAll_of_full ?_
  rw [recorded_eq]
  exact h

/-- A threshold is no negative number: it is kept as it is. -/
theorem startedCopy_thr (s : State) (r : CopyStart) : (startedCopy s r).thr = r.thr := by
  change (if (r.thr : Int) < 0 then 0 else (r.thr : Int).toNat) = r.thr
  rw [if_neg (Int.not_lt.2 (Int.natCast_nonneg r.thr)), Int.toNat_natCast]

theorem startedCopy_state (s : State) (r : CopyStart) :
    (startedCopy s r).state = if armEntry 0 r.op = [] then .running else .withheld := by
  change (if (r.op == .arm || r.op == .net || r.op == .bgo) = true then CopyState.withheld else .running) = _
  cases r.op <;> rfl

/-- Settles O36: a start is `cStart` (`exec_copyStart`), and its answer is the trap of a refused set, that of a full buffer, or the
state with the copy on record. -/
theorem copyStarts : Obligations.CopyStarts := by
  unfold Obligations.CopyStarts
  intro s i r hi ha
  obtain ⟨hw, hx⟩ := exec_copyStart hi ha
  refine ⟨fun hr ht => ?illop, fun hr hl ht => ?stf, fun hr hl => ?recorded⟩
  case illop =>
    exact ⟨_, hx.trans (cStart_of_refused ha hw hr), trap_taken_upToStart (upToStart_withPort s r) ht 0x02 0⟩
  case stf =>
    refine ⟨_, hx.trans (cStart_of_accepted ha hw hr), ?_⟩
    rw [enterAll_recorded_of_full hl]
    exact trap_taken_upToStart (upToStart_recorded s r) ht 0x06 6
  case recorded =>
    have hg := activeC_starting s r
    refine ⟨started s r, startedCopy s r, ?_, fun _ => rfl, rfl, rfl, rfl, ?slot, rfl, hg, startedCopy_state s r, rfl, rfl, rfl,
      startedCopy_thr s r, congrArg (cBanks r.op) hg, rfl, rfl, congrArg (s.cEarly r.op) hg, startedCopy_land s r⟩
    · rw [hx, cStart_of_accepted ha hw hr, enterAll_recorded_of_room hl]
    case slot => exact congrArg Fin.val (unit_eq _)

end Sys2Proof.CopyStarting

/-!
Copies end (O38). Issue fixes the status of a copy that is empty or leaves BSET, and such a copy moves nothing (spec/10 R259), unless
it is marked as cut: then `cFinish` runs its rows (R275). The model cuts reductions alone, but the statement takes a copy of any
other kind as it stands, whatever its mark, and there it fails.
-/
namespace Sys2Proof.CutCopy
open Machine Laws Claims HostLate

/-- The one copy on record, of the task that runs on the only core awake. -/
theorem ownsCopy_only {s : State} {x : Copy} {r : Fin 56} (hc : s.core.copies = [x]) (hk : s.keys = [s.here])
    (ht : x.tok = some r.val) (hd : x.disc = false) (hs : s.onSaffron = false) (hp : s.core.phase = .run)
    (ho : s.core.owner = x.task) (hck : x.sinceCk = true) (hf : s.core.live.ftok = []) : OwnsCopy s x r := by
  have only : ∀ y ∈ s.core.copies, y = x := fun y hy => List.mem_singleton.1 (hc ▸ hy)
  refine ⟨hc ▸ List.mem_singleton.2 rfl, ht, hd, hs, hp, ho, hck, fun y hy _ => only y hy, fun y hy hn => absurd (only y hy) hn, ?_, hf⟩
  intro k hk' hn
  rw [hk] at hk'
  exact absurd (List.mem_singleton.1 hk') hn

/-- A copy whose status issue fixed runs all the same where it is cut. -/
theorem exec_copyCompletion_cut {s : State} {x : Copy} {st : Int} (reply : Remote) (hx : s.copyOf x.id = some x)
    (hr : x.state = .running) (hb : x.op ≠ .bgo) (hn : x.op ≠ .net) (he : x.early = some st) (hrest : x.rest = none)
    (hc : x.cut = true) : exec (.copyCompletion x.id reply) s = .next (s.endCopy s.here x (s.cRun x reply)) := by
  change execCopyCompletion x.id reply s = _
  simp [execCopyCompletion, hx, hr, hb, hn, hrest, Copy.inParts, he, State.cFinish, hc]

/-! ### A copy that leaves BSET in its second row -/

/-- Two rows of one byte, from 0 and from 393216 of the scratchpad to 64 and 65, where BSET holds bank 0 alone. -/
def leavingImg : Vector Word 9 := #v[0, 64, w64 (2 ^ 16 + 1), w64 (2 ^ 32 + 393216), 0, 0, 1, 0, 0]

/-- The bank violation is found at issue; the copy is marked as cut. -/
def cutCopy : Copy :=
  { lateCopy with op := .go, img := leavingImg, early := lateBase.cEarly .go leavingImg, cut := true, at0 := none, rest := none }

/-- The first byte of the scratchpad holds 1. -/
def cutState : State :=
  { lateBase with core := { lateBase.core with copies := [cutCopy] }, mem := memSet lateMem (scratchAddr 0 0 0) 1 }

theorem early_cutCopy : cutCopy.early = some (-5) := by decide +kernel

theorem ownsCopy_cut : OwnsCopy cutState cutCopy 7 := ownsCopy_only rfl rfl rfl rfl rfl rfl rfl rfl rfl

theorem memGet_before : memGet cutState.mem (scratchAddr 0 0 64) = 0 := by decide +kernel

/-- The answer of a remote device, which this copy does not ask. -/
def noReply : Remote := { status := 0, data := [] }

theorem memGet_after :
    memGet (cutState.endCopy 0 cutCopy (cutState.cRun cutCopy noReply)).mem (scratchAddr 0 0 64) = 1 := by
  decide +kernel

theorem exec_cutCopy : exec (.copyCompletion cutCopy.id noReply) cutState =
    .next (cutState.endCopy 0 cutCopy (cutState.cRun cutCopy noReply)) :=
  exec_copyCompletion_cut noReply rfl rfl (by decide) (by decide) early_cutCopy rfl rfl

/-- Refutes O38: a copy whose bank violation was found at issue moves its first row where it is marked as cut. -/
theorem not_copiesEnd : ¬ Obligations.CopiesEnd := by
  unfold Obligations.CopiesEnd CopiesComplete
  rintro ⟨-, h, -⟩
  obtain ⟨-, hearly⟩ := h cutState cutCopy 7 noReply rfl ownsCopy_cut
  obtain ⟨t, ht, -, hmem, -⟩ :=
    hearly (-5) rfl (by decide) (by decide) (by decide) early_cutCopy (.inr rfl) rfl
  have he : cutState.endCopy 0 cutCopy (cutState.cRun cutCopy noReply) = t :=
    Host.Outcome.next.inj (exec_cutCopy.symm.trans ht)
  have hbyte := hmem (scratchAddr 0 0 64)
  rw [← he, memGet_after, memGet_before] at hbyte
  exact absurd hbyte (by decide)

end Sys2Proof.CutCopy
